-- ==== Sys2Proof/Word.lean ====
section
/-! DEFINITION. Word.lean: the word types of the Trazar TZ-9640 and their plainest arithmetic
(spec/00_scope.md R7: bit 0 is the least significant bit; spec/04 R69: 32-bit registers, 64-bit pairs). -/

namespace Sys2Proof

/-- A byte of memory or of a scratchpad. -/
abbrev Byte := BitVec 8
/-- A vector register, an instruction word, a host-window register (R69, R75, R22). -/
abbrev Word := BitVec 32
/-- A register pair or a pointer (R69, R141). -/
abbrev DWord := BitVec 64
/-- A set of the 32 lanes of a group, lane i in bit i. -/
abbrev Mask := BitVec 32
/-- A program counter or virtual address (R30, R141). -/
abbrev Addr := BitVec 56
/-- The 64 data bytes of one sector, byte k in bits [8k+7:8k] (R10, R167). -/
abbrev SectorData := BitVec 512
/-- The number of a vector register, pair or raised predicate field (R69). -/
abbrev Reg := BitVec 7

/-- Bit i of a word, as a Bool. -/
def bit {w : Nat} (x : BitVec w) (i : Nat) : Bool := x.getLsbD i

/-- The value of bits [hi:lo] of x. -/
def bits {w : Nat} (x : BitVec w) (hi lo : Nat) : Nat := (x.toNat >>> lo) % 2 ^ (hi + 1 - lo)

/-- The signed (two's complement) value of the low n bits of x. -/
def signedOf (n x : Nat) : Int :=
  let y := x % 2 ^ n
  if y < 2 ^ (n - 1) then (y : Int) else (y : Int) - (2 : Int) ^ n

/-- The lane set holding lane i alone. -/
def laneBit (i : Nat) : Mask := BitVec.ofNat 32 (2 ^ i)

/-- All 32 lanes. -/
def allLanes : Mask := BitVec.allOnes 32

/-- The lanes of a group, in ascending order. -/
def laneList : List Nat := List.range 32

/-- The lanes of m, in ascending order. -/
def Mask.lanes (m : Mask) : List Nat := laneList.filter (fun i => bit m i)

/-- The lowest lane of m (0 when m is empty); R10 `leader`. -/
def Mask.lowest (m : Mask) : Nat := (Mask.lanes m).headD 0

/-- The lane set of those lanes of `laneList` on which p holds. -/
def Mask.ofPred (p : Nat → Bool) : Mask :=
  laneList.foldl (fun m i => if p i then m ||| laneBit i else m) 0

end Sys2Proof
end

