-- ==== Sys2Proof/Config.lean ====
section
/-! DEFINITION. Config.lean: what one part, clock domain or implementation fixes, and the free values.
An `opaque` constant has no body: nothing proved about the machine rests on a value of it. -/

namespace Sys2Proof

/-- The three parts (spec/00 R1). -/
inductive Part where
  | tz9640 | tz9632 | tz9620
deriving DecidableEq, Repr

namespace Config

/-! ### What a part has fitted (R1, R4, R12, R15) -/

def computeDies : Part → Nat
  | .tz9620 => 2
  | _ => 4
/-- Cores per package: 64 on each compute die (R12). -/
def cores (p : Part) : Nat := 64 * computeDies p
/-- HBM stacks per package: two on each compute die (R12). -/
def hbmStacks (p : Part) : Nat := 2 * computeDies p
/-- Memory controllers per package: four per stack (R12). -/
def controllers (p : Part) : Nat := 4 * hbmStacks p
def portsPerDie : Part → Nat
  | .tz9632 => 2
  | _ => 4
def ports (p : Part) : Nat := portsPerDie p * computeDies p
def hasF64 : Part → Bool
  | .tz9640 => true
  | _ => false
def hasCrypto : Part → Bool
  | .tz9620 => false
  | _ => true
/-- The coherence domain may span packages (R1, R2). -/
def spansPackages : Part → Bool
  | .tz9620 => false
  | _ => true
/-- Release channels: every part has them, so that no CHANNEL packet asks for an absent feature (R1, R50). -/
def hasChannels : Part → Bool
  | _ => true
def partCode : Part → Nat
  | .tz9640 => 0x40
  | .tz9632 => 0x32
  | .tz9620 => 0x20
def b2n (b : Bool) : Nat := if b then 1 else 0
/-- s.caps, field by field as the table of R4 gives it. -/
def caps (p : Part) : Word :=
  BitVec.ofNat 32 (b2n (hasF64 p) + 2 * b2n (hasCrypto p) + 4 * b2n (hasCrypto p) + 8 * b2n (spansPackages p)
    + 2 ^ 8 * partCode p + 2 ^ 16 * ports p + 2 ^ 21 * computeDies p)

/-! ### Clocks, in ticks of 1/21,000 microsecond (R17; log 9) -/

/-- Ticks of a memory clock (R17; log 9, DESIGN CHOICE). -/
def tickMem : Nat := 28
def tickPort : Nat := 24
def tickCp : Nat := 21
/-- The lifetime bound: 262,144 cycles of the 750 MHz timer (R184). -/
def lifetime : Nat := 262144 * tickMem
/-- Queue residence limits: 65,536 of the queue's own cycles (R184): an egress queue runs on the port clock, the queues
of the die-to-die links inside a package at 1,000 MHz (R17). (log 66, DEDUCED) -/
def portResidence : Nat := 65536 * tickPort
def dieResidence : Nat := 65536 * tickCp

/-! ### Sizes of tables (R13, R44, R57, R61, R131, R157, R161, R171, R177, R181, R217, R224, R231) -/

def groupSlots : Nat := 32
def otEntries : Nat := 256
def ologEntries : Nat := 64
def cbSectors : Nat := 32
def engineQueue : Nat := 4
def streamerOps : Nat := 16
def blockQueue : Nat := 8
def blocksPerCore : Nat := 32
def scratchBytes : Nat := 393216
def queues : Nat := 64
def lehrNodes : Nat := 4096
/-- Ready block ranges of the Lehr (R57). -/
def lehrRanges : Nat := 65536
def tlbEntries : Nat := 4096
def pttEntries : Nat := 2048
def absorbEntries : Nat := 256
def preqSectors : Nat := 64
def preqQueued : Nat := 256
def recallEntries : Nat := 64
/-- Sectors of a 4 MiB L2 slice (R12). -/
def sliceSectors : Nat := 65536
def replyEntries : Nat := 1024
def flagBuffer : Nat := 64
def channels : Nat := 4096
def maxContexts : Nat := 32
def bteQueue : Nat := 64
def predictorEntries : Nat := 1024
def replayFlits : Nat := 512
def traceEntries : Nat := 256
def faultQueue : Nat := 64
def stopQueue : Nat := 16
/-- Usable 64 KiB frames of one stack (R156). -/
def framesPerStack : Nat := 983040

/-! ### Free values: what the manual leaves undefined, and what no rule computes -/

/-- A vector register at launch (R69: 'undefined at launch'); log 2, DESIGN CHOICE. -/
opaque launchWord : Nat → Nat → Nat → Word
/-- A scratchpad byte at block start (R416: 'undefined'); log 2, DESIGN CHOICE. -/
opaque launchByte : Nat → Nat → Byte
/-- A destination byte of a bulk transfer that met an uncorrectable source (R317: 'undefined'); log 2, DESIGN CHOICE. -/
opaque freeByte : Nat → Byte
/-- The DRAM bank of a row (R268 names banks and gives no map): the row number to a bank number; log 14, DESIGN CHOICE. -/
opaque bankOf : Nat → Nat
/-- The level that a sampled load of argument space records (R283 gives none), by draw; log 9, DESIGN CHOICE. -/
opaque argLevel : Nat → BitVec 8
/-- The error that a faulty lane of an unchecked launch adds to a word (R261), by draw; log 98, DESIGN CHOICE. -/
opaque laneError : Nat → Word
/-- Cycles that a sampled load spends at an agent (R283), by draw; log 9, DESIGN CHOICE. -/
opaque hopCycles : Nat → BitVec 20
/-- A byte read under another context's key (R294: 'scrambled bytes'): from the keys' owners, the physical
address and the byte stored; log 10, DESIGN CHOICE. -/
opaque scrambled : Nat → Nat → Nat → Byte → Byte
/-- SHA-256 digests and SLH-DSA signatures the trust die answers with (R293); log 10, DESIGN CHOICE. -/
opaque digest : Nat → Nat → BitVec 256
end Config
end Sys2Proof
end

