-- ==== Sys2Proof/Syntax.lean ====
section
/-! DEFINITION. Syntax.lean: the one inductive `Instr`, one constructor per row of spec/opcode_table.json:
the instructions of spec/04 R83 to R93, the packets of spec/03 R48, and the events of the device's agents. -/

namespace Sys2Proof

/-- The guard of BRA and of format E (R76, R77, R78). -/
structure Guard where
  g : BitVec 3
  n : Bool
deriving DecidableEq, Repr

/-- The integer f field (R80): wrap or saturate, signed or unsigned. -/
inductive IntF where
  | wrapS | wrapU | satS | satU
deriving DecidableEq, Repr

/-- Rounding modes (R81, R109). -/
inductive Rm where
  | rn | rz | rd | ru | rna
deriving DecidableEq, Repr

/-- The type codes of R81. -/
inductive Ty where
  | i4 | i8 | i16 | i32 | i64 | n4 | n8 | n16 | n32 | n64
  | f16 | bf16 | f32 | f64 | e4m3 | e5m2 | e2m1 | e8m0 | fa64
deriving DecidableEq, Repr

/-- The order codes of R81. -/
inductive Order where
  | plain | acq | rel | acqrel
deriving DecidableEq, Repr

/-- The access sizes of R81. -/
inductive Size where
  | b8 | b16 | b32 | b64
deriving DecidableEq, Repr

def Size.bytes : Size → Nat
  | .b8 => 1 | .b16 => 2 | .b32 => 4 | .b64 => 8

/-- The op codes shared by LRED, LPFX, ATOM and RED (R90). -/
inductive LaneOp where
  | add | minS | maxS | minU | maxU | and | or | xor | exch | cas | fadd | fmin | fmax
deriving DecidableEq, Repr

/-- The ICMP conditions (R86). -/
inductive Cond where
  | eq | ne | lt | le | gt | ge
deriving DecidableEq, Repr

/-- The FCMP conditions (R86). -/
inductive FCond where
  | eq | ne | lt | le | gt | ge | ord | unord | ueq | une | ult | ule | ugt | uge
deriving DecidableEq, Repr

/-- The combine ops of ICMP and FCMP (R86). -/
inductive Comb where
  | none | and | or | xor
deriving DecidableEq, Repr

/-- Position and length of BFE and BFI: a register, or the fields pos and length − 1 (R85, R311). -/
inductive BfSrc where
  | reg (b : Reg)
  | imm (pos len1 : BitVec 5)
deriving DecidableEq, Repr

/-- The lane or distance operand of SGAT (R395). -/
inductive SgSrc where
  | imm (k : BitVec 5)
  | reg (b : Reg)
deriving DecidableEq, Repr

/-- The modes of SGAT (R395). -/
inductive SgMode where
  | at | lo | hi | xor
deriving DecidableEq, Repr

/-- The kinds of VOTE (R408): a mask into a register, or a predicate. -/
inductive VoteDst where
  | mask (d : Reg)
  | every (d : BitVec 3)
  | some (d : BitVec 3)
  | same (d : BitVec 3)
deriving DecidableEq, Repr

/-- The element formats of FDOT (R120). -/
inductive DotFmt where
  | e4m3 | e5m2 | e2m1
deriving DecidableEq, Repr

/-- The ops of CLIN (R321). -/
inductive ClinOp where
  | wb | inv | wbi
deriving DecidableEq, Repr

/-- The forms of FEOP (R343). -/
inductive FeKind where
  | set | clr
  | test (d : BitVec 3)
deriving DecidableEq, Repr

/-- The kinds of DEPA (R327). -/
inductive DepaKind where
  | i32 | i64 | f32
deriving DecidableEq, Repr

/-- Barrier levels (R308). -/
inductive BarLvl where
  | blk | clu | die
deriving DecidableEq, Repr

/-- The three values of CHNR (R319). -/
inductive ChnrKind where
  | snd | seq | arr
deriving DecidableEq, Repr

/-- The operand fields that the six MMA instructions share (R370). -/
structure MmaOps where
  a : Reg
  b : Reg
  c : Reg
  k : BitVec 4
  as : Bool
  bs : Bool
  selA : BitVec 2
  selB : BitVec 2
  sp : Bool
  sl : BitVec 2
deriving DecidableEq, Repr

/-- The name of a sector: home package, ASID and va div 64 (R155, R172, R189). -/
structure SectorKey where
  home : Nat
  asid : Nat
  sec : Nat
deriving DecidableEq, Repr

/-- What a die's firmware measurement finds at power-on, one bit per compute die (R292). -/
structure BootOutcome where
  firmwareOk : Bool
  dieOk : BitVec 4
deriving DecidableEq, Repr

/-- Where a packet of the fabric waits (R184). -/
inductive QueueSpot where
  | egress (pkg port idx : Nat)
  | noPath (pkg idx : Nat)
  | fabric (idx : Nat)
deriving DecidableEq, Repr

/-- One constructor per row of the opcode table. Events name their agent by package and number (R14).
The rows without operands stand last; a delivered message is the one that `State.cur` names. -/
inductive Instr where
  -- control (R83)
  | bra (gd : Guard) (disp : BitVec 19)
  | call (disp : BitVec 19)
  | jmpi (a : Reg)
  | trap (code : BitVec 9)
  | bkpt (code : BitVec 9)
  -- integer arithmetic (R84)
  | iadd (u : Bool) (d a b : Reg) (f : IntF)
  | isub (u : Bool) (d a b : Reg) (f : IntF)
  | imul (u : Bool) (d a b : Reg) (f : IntF)
  | imulh (d a b : Reg) (uns : Bool)
  | imin (u : Bool) (d a b : Reg) (uns : Bool)
  | imax (u : Bool) (d a b : Reg) (uns : Bool)
  | iabs (d a : Reg) (sat : Bool)
  | iaddi (u : Bool) (d a : Reg) (imm : BitVec 9)
  | iadd64 (u : Bool) (d a b : Reg) (f : IntF)
  | isub64 (u : Bool) (d a b : Reg) (f : IntF)
  | iaddc (gd : Guard) (d a b : Reg) (ci co : BitVec 3)
  | imad (gd : Guard) (d a b c : Reg) (f : IntF) (wide : Bool)
  -- logic and bit operations (R85)
  | and (u : Bool) (d a b : Reg)
  | or (u : Bool) (d a b : Reg)
  | xor (u : Bool) (d a b : Reg)
  | logt (u : Bool) (gd : Guard) (d a b c : Reg) (tt : BitVec 8)
  | shl (u : Bool) (d a b : Reg) (clamp : Bool)
  | shr (u : Bool) (d a b : Reg) (arith clamp : Bool)
  | shi (u : Bool) (d a : Reg) (right arith : Bool) (n : BitVec 5)
  | fshf (gd : Guard) (d a b c : Reg) (right clamp : Bool)
  | bfe (u : Bool) (gd : Guard) (d a : Reg) (src : BfSrc) (sx : Bool)
  | bfi (u : Bool) (gd : Guard) (d a c : Reg) (src : BfSrc)
  | popc (d a : Reg)
  | clz (d a : Reg)
  | brev (d a : Reg)
  -- moves, comparisons and predicates (R86)
  | mov (u : Bool) (d a : Reg) (pair : Bool)
  | movi (u : Bool) (d : Reg) (imm : BitVec 16)
  | movh (u : Bool) (d : Reg) (imm : BitVec 16)
  | sel (u : Bool) (gd : Guard) (d a b : Reg) (pair : Bool) (s : BitVec 3) (neg : Bool)
  | srd (u : Bool) (d : Reg) (id : BitVec 9)
  | swr (u : Bool) (a : Reg) (id : BitVec 9)
  | icmp (u : Bool) (gd : Guard) (d : BitVec 3) (a b : Reg) (cond : Cond) (uns w64 : Bool) (pc : BitVec 3) (op : Comb)
  | fcmp (gd : Guard) (d : BitVec 3) (a b : Reg) (cond : FCond) (pc : BitVec 3) (op : Comb) (f64 : Bool)
  | plgt (gd : Guard) (d a b c : BitVec 3) (tt : BitVec 8)
  | ptov (d : Reg) (a : BitVec 3) (mask : Bool)
  | vtop (d : BitVec 3) (a : Reg) (mask : Bool)
  -- FP32 and the special-function unit (R87)
  | fadd (d a b : Reg) (r : Rm)
  | fmul (d a b : Reg) (r : Rm)
  | ffma (gd : Guard) (d a b c : Reg) (r : Rm)
  | fmin (d a b : Reg)
  | fmax (d a b : Reg)
  | frnd (d a : Reg) (r : Rm)
  | fdiv (gd : Guard) (d a b : Reg) (r : Rm)
  | frcp (d a : Reg)
  | frsq (d a : Reg)
  | fsqt (d a : Reg) (r : Rm)
  | fex2 (d a : Reg)
  | flg2 (d a : Reg)
  | fsin (d a : Reg)
  | fcos (d a : Reg)
  | ftnh (d a : Reg)
  -- FP16, BF16 and FP64 (R88)
  | hpadd (d a b : Reg) (r : Rm)
  | hpmul (d a b : Reg) (r : Rm)
  | hpfma (gd : Guard) (d a b c : Reg) (r : Rm) (bf : Bool)
  | hpmnx (d a b : Reg) (max bf : Bool)
  | dadd (d a b : Reg) (r : Rm)
  | dmul (d a b : Reg) (r : Rm)
  | dfma (gd : Guard) (d a b c : Reg) (r : Rm)
  | dmnx (d a b : Reg) (max : Bool)
  -- conversion and dot products (R89)
  | cvt (gd : Guard) (d a : Reg) (dt st : Ty) (r : Rm) (nosat : Bool)
  | pack (gd : Guard) (d a b c : Reg) (dt st : Ty) (r : Rm) (nosat : Bool) (j : BitVec 2)
  | unpk (gd : Guard) (d a : Reg) (k : BitVec 3) (st dt : Ty)
  | scex (gd : Guard) (d a : Reg) (et : Ty)
  | idot (gd : Guard) (d a b c : Reg) (i4 au bu sat : Bool)
  | fdot (gd : Guard) (d a b c s : Reg) (fmt : DotFmt) (ja jb : BitVec 2) (r : Rm)
  -- operations across lanes (R90)
  | sgat (gd : Guard) (d a : Reg) (mode : SgMode) (src : SgSrc) (seg : BitVec 3)
  | vote (gd : Guard) (dst : VoteDst) (a : BitVec 3)
  | lred (gd : Guard) (d a : Reg) (op : LaneOp)
  | lpfx (gd : Guard) (d a : Reg) (op : LaneOp) (incl : Bool)
  | lmch (d a : Reg) (w64 : Bool)
  -- memory (R91)
  | ld (u : Bool) (gd : Guard) (d a : Reg) (size : Size) (sx acq : Bool) (sc : BitVec 5) (off : BitVec 10)
  | st (gd : Guard) (a b : Reg) (size : Size) (rel : Bool) (sc : BitVec 5) (off : BitVec 10)
  | atom (gd : Guard) (d a b c : Reg) (op : LaneOp) (w64 : Bool) (ord : Order) (sc : BitVec 5) (off : BitVec 9)
  | red (gd : Guard) (a b : Reg) (op : LaneOp) (w64 : Bool) (ord : Order) (sc : BitVec 5) (off : BitVec 9)
  | lds (gd : Guard) (d a : Reg) (size : Size) (sx fe clr : Bool) (off : BitVec 10)
  | ldsx (gd : Guard) (d a c : Reg) (size : Size) (sx fe clr : Bool) (off : BitVec 10)
  | sts (gd : Guard) (a b : Reg) (size : Size) (set : Bool) (off : BitVec 10)
  | stsx (gd : Guard) (a b c : Reg) (size : Size) (set : Bool) (off : BitVec 10)
  | fence (u : Bool) (gd : Guard) (ord : Order) (sc : BitVec 5)
  | pft (gd : Guard) (a : Reg) (l2 : Bool) (off : BitVec 10)
  | clin (gd : Guard) (a b : Reg) (op : ClinOp) (all : Bool) (sc : BitVec 5)
  | feop (gd : Guard) (kind : FeKind) (a b : Reg)
  | deps (gd : Guard) (a b c : Reg) (size : Size)
  | depa (gd : Guard) (a b c : Reg) (kind : DepaKind)
  | depr (gd : Guard) (a b c : Reg)
  -- matrix engine (R92)
  | mmaF4 (gd : Guard) (t : BitVec 2) (o : MmaOps)
  | mmaF8 (gd : Guard) (t : BitVec 2) (ae5m2 be5m2 : Bool) (o : MmaOps)
  | mmaI8 (gd : Guard) (t : BitVec 2) (au bu : Bool) (o : MmaOps)
  | mmaI4 (gd : Guard) (t : BitVec 2) (au bu : Bool) (o : MmaOps)
  | mmaBf (gd : Guard) (t : BitVec 2) (o : MmaOps)
  | mmaH (gd : Guard) (t : BitVec 2) (o : MmaOps)
  | ksgn (gd : Guard) (k : BitVec 4)
  -- uniform-only instructions (R93)
  | tld (gd : Guard) (a b c : Reg) (q : BitVec 4) (arv : Bool)
  | tst (gd : Guard) (d a b c : Reg) (q : BitVec 4) (arv flag : Bool)
  | bxi (gd : Guard) (a : Reg)
  | bxw (gd : Guard) (a b : Reg)
  | qcfg (q : BitVec 4) (n : BitVec 9)
  | qarv (gd : Guard) (a : Reg) (q : BitVec 4) (cons : Bool)
  | qwt (gd : Guard) (a : Reg) (q : BitVec 4) (cons e : Bool)
  | barSync (gd : Guard) (d a : Reg) (n : BitVec 4) (lvl : BarLvl)
  | barArv (gd : Guard) (d a : Reg) (n : BitVec 4) (lvl : BarLvl)
  | barWait (gd : Guard) (b : Reg) (n : BitVec 4) (lvl : BarLvl)
  | kcfg (k : BitVec 4) (a : Reg)
  | acal (mask : BitVec 4)
  | acfr (mask : BitVec 4)
  | aczr (t : BitVec 2)
  | acld (gd : Guard) (t : BitVec 2) (a : Reg) (st : Ty)
  | acdr (gd : Guard) (t : BitVec 2) (a b : Reg) (ot : Ty) (r : Rm) (nosat : Bool)
  | mwt (t : BitVec 2)
  | chnr (d a : Reg) (kind : ChnrKind)
  -- command packets (R48)
  | launch (conc : Bool) (tag : Word) (desc : DWord) (nx : Word) (ny nz : BitVec 16) (argp : DWord) (argn : BitVec 16) (label : Word) (report : DWord)
  | node (conc : Bool) (tag label : Word) (report : DWord)
  | depend (tile : Bool) (tag producer consumer : Word) (ax ay wx wy : BitVec 16) (bx by_ : Word)
  | graphBegin (conc : Bool) (tag : Word)
  | graphEnd (tag : Word)
  | phase (job : Bool) (tag : Word)
  | wait (nodrain : Bool) (tag : Word) (kind cond counter queue : Byte) (addr value : DWord)
  | signal (nodrain msix : Bool) (tag : Word) (op : Byte) (vector : BitVec 16) (addr value : DWord)
  | loop (nodrain mem : Bool) (tag count : Word) (addr : DWord)
  | loopEnd (tag : Word)
  | ifPkt (nodrain : Bool) (tag : Word) (cond width : Byte) (addr value : DWord)
  | elsePkt (tag : Word)
  | endIf (tag : Word)
  | launchIndirect (conc nodrain : Bool) (tag : Word) (desc grid argp : DWord) (argn : BitVec 16) (label : Word) (report : DWord)
  | copy (conc : Bool) (tag : Word) (ccb : DWord) (die : Byte) (label : Word) (report : DWord)
  | cancel (tag : Word) (level queue : Byte) (label : Word)
  | killContext (preserve : Bool) (tag : Word) (asid : BitVec 16) (report : DWord)
  | reclaimFence (tag : Word) (asid : BitVec 16)
  | scopeTable (nodrain : Bool) (tag : Word) (id : Byte) (pkgs : BitVec 16) (cores : BitVec 256)
  | channelAllocate (tag : Word) (journaled : Bool) (peer : Byte) (ch : BitVec 16) (result journal : DWord) (jsize : Byte)
  | channelFree (tag : Word) (mode peer : Byte) (ch : BitVec 16) (result journal : DWord) (jsize : Byte)
  | timeslice (tag weight : Word) (d t : Byte)
  | priority (tag : Word) (prio : Byte)
  | nopPacket (units : BitVec 16) (tag : Word)
  -- held packets that go on (R49, R52, R55, R235)
  | waitMet (pkg q : Nat)
  | reclaimFenceMet (pkg q : Nat)
  | admissionResumes (pkg q : Nat)
  | packetDrainMet (pkg q : Nat)
  | channelFreeComplete (pkg q : Nat)
  -- queue registers (R45, R46)
  | qctlEnable (pkg fn q : Nat) (v : Word)
  | qctlSkip (pkg fn q : Nat) (v : Word)
  | qctlDisable (pkg fn q : Nat) (v : Word)
  | qbaselWrite (pkg fn q : Nat) (v : Word)
  | qwpWrite (pkg fn q : Nat) (v : Word)
  -- contexts, translation, faults (R289 to R291, R431)
  | contextCreate (pkg fn : Nat) (v : Word)
  | contextDestroy (pkg fn : Nat) (v : Word)
  | rewriteTrapWords (pkg fn : Nat) (v : Word)
  | trapWordsApplied (pkg fn : Nat)
  | ctxcmdReserved (pkg fn : Nat) (v : Word)
  | tlbInvalidate (pkg fn : Nat) (v : Word)
  | tlbInvalidateComplete (pkg fn : Nat)
  | faultRecordPop (pkg fn : Nat)
  | faultResolved (pkg fn : Nat) (v : Word)
  | faultUnresolvable (pkg fn : Nat) (v : Word)
  | retiredFramePop (pkg : Nat)
  | errorRecordPop (pkg fn : Nat)
  -- debug window (R272 to R280, R285)
  | debugHalt (pkg fn : Nat) (v : Word)
  | debugResume (pkg fn : Nat) (v : Word)
  | stepThread (pkg fn : Nat) (v : Word)
  | stepGroup (pkg fn : Nat) (v : Word)
  | cancelStep (pkg fn : Nat) (v : Word)
  | dbgcmdReserved (pkg fn : Nat) (v : Word)
  | stopRecordPop (pkg fn : Nat)
  | debugDetach (pkg fn : Nat) (v : Word)
  | haltedStateRead (pkg fn : Nat)
  | haltedStateWrite (pkg fn : Nat) (v : Word)
  | trselWrite (pkg ctrl : Nat) (v : Word)
  | registerWrite (pkg fn off bytes : Nat) (v : Word)
  -- platform (R292 to R296)
  | powerOn (pkg : Nat) (o : BootOutcome)
  | thermalTrip (pkg die : Nat)
  | throttleStep (pkg : Nat) (down power thermal : Bool)
  | d3hotEntry (pkg : Nat)
  | d0Return (pkg : Nat)
  | getMeasurements (pkg idx : Nat)
  -- links (R211 to R215, R184)
  | flit (pkg port : Nat) (crcBad authBad : Bool)
  | replayRequest (pkg port : Nat)
  | flitDrop (pkg port : Nat)
  | linkRetrain (pkg port : Nat) (ok : Bool)
  | linkDown (pkg port : Nat)
  | keyEvent (pkg port : Nat)
  | keyStop (pkg port : Nat)
  | queueDiscard (w : QueueSpot)
  -- counted tokens (R173 to R187, R266, R267)
  | absorbBufferDrain (pkg ctrl : Nat)
  | eviction (pkg die : Nat) (k : SectorKey)
  | getsTimeout (pkg die : Nat) (k : SectorKey)
  | broadcastTimeout (pkg die : Nat) (k : SectorKey)
  | preqRepeat (pkg die : Nat) (k : SectorKey)
  | pactRepeat (pkg ctrl : Nat) (k : SectorKey)
  | leaseExpiry (pkg die : Nat) (k : SectorKey)
  | activationTimeout (pkg ctrl : Nat) (k : SectorKey)
  | recreationStart (pkg ctrl : Nat) (k : SectorKey)
  | recallRepeat (pkg ctrl : Nat) (k : SectorKey)
  | recreationComplete (pkg ctrl : Nat) (k : SectorKey)
  | recallTableExpiry (pkg die : Nat) (k : SectorKey)
  | wipeRecreationTimeout (pkg ctrl : Nat) (k : SectorKey)
  | scrubPass (pkg ctrl : Nat)
  -- uncached accesses and far atomics (R160, R217), stores (R216)
  | uncachedResend (pkg core txn : Nat)
  | replyCacheExpiry (pkg ctrl idx : Nat)
  | storeResend (pkg core : Nat) (k : SectorKey)
  -- release channels (R221 to R227)
  | shortfallNotice (pkg src ch : Nat)
  | releaseResend (pkg ch : Nat)
  | haltRepeat (pkg : Nat)
  | haltAbsence (pkg peer : Nat)
  -- kill (R233)
  | incadvRepeat (pkg asid : Nat)
  | killComplete (pkg asid : Nat)
  -- scheduling (R60 to R68, R32, R30)
  | timeSliceExpiry (pkg : Nat)
  | drainLimit (pkg unit : Nat)
  | saveComplete (pkg unit : Nat)
  | dispatch (pkg die : Nat)
  | blockStart (pkg core : Nat)
  | stealRequest (pkg core : Nat)
  | stealRetry (pkg core : Nat)
  | park (pkg cluster : Nat)
  | fairnessSlice (pkg group : Nat)
  | blockEnd (pkg block : Nat)
  | commitComplete (pkg cluster : Nat)
  -- engines (R135, R373, R404, R317)
  | mmaComplete (pkg core : Nat) (residueBad : Bool)
  | aczrComplete (pkg core : Nat)
  | acldComplete (pkg core : Nat)
  | acdrComplete (pkg core : Nat)
  | tldGranuleLands (pkg block idx : Nat)
  | tstComplete (pkg block : Nat)
  | bxiComplete (pkg bte idx : Nat)
  -- watchdog, profiling (R281, R284)
  | hangRecord (pkg group : Nat)
  | stallSample (pkg quad : Nat)
  -- words that are not instructions (R95), fetch (R166)
  | illegalInstruction (w0 : Word) (w1 : Option Word)
  -- the rest of the memory system (R152, R160, R322, R233)
  | combiningBufferWrite (pkg core : Nat) (k : SectorKey)
  | clinComplete (pkg group : Nat)
  -- control, checkpoint and fetch rows that take no operands (R83, R93, R166)
  | nop | exit | ret | yield | tret | ckpt | fetchFault
  -- a message of the fabric delivered at its target; which one, `State.cur` says (R172, R217, R220)
  | gets | getx | tok | preq | pact | pdeact | recall | rrep | farAtomic | uncachedWrite | uncachedReply | deposit
  | release | rack | short | halt | resume | incadv | incack | uncachedRead | flushCompleteReport
deriving DecidableEq, Repr

end Sys2Proof
end

