-- ==== Sys2Proof/WellFormed.lean ====
section
/-! DEFINITION. WellFormed.lean: the checks on one instruction that need no state: pairs named by even
fields (R69), excluded codes (R81, R95), legal type pairs (R112, R115, R116), packet fields in range (R48). -/

namespace Sys2Proof

/-- A field that names a pair holds an even number (R69). -/
def evenReg (r : Reg) : Bool := r.toNat % 2 == 0

/-- A rounding code of a 2-bit f field: .rna does not exist there (R110). -/
def rm2 (r : Rm) : Bool := r != .rna

namespace Ty

/-- The code of R81. -/
def code : Ty → Nat
  | .i4 => 0 | .i8 => 1 | .i16 => 2 | .i32 => 3 | .i64 => 4
  | .n4 => 5 | .n8 => 6 | .n16 => 7 | .n32 => 8 | .n64 => 9
  | .f16 => 10 | .bf16 => 11 | .f32 => 12 | .f64 => 13
  | .e4m3 => 14 | .e5m2 => 15 | .e2m1 => 16 | .e8m0 => 17 | .fa64 => 18

def isInt : Ty → Bool
  | .i4 | .i8 | .i16 | .i32 | .i64 | .n4 | .n8 | .n16 | .n32 | .n64 => true
  | _ => false
def isSigned : Ty → Bool
  | .i4 | .i8 | .i16 | .i32 | .i64 => true
  | _ => false
/-- The IEEE-like types .f16 .bf16 .f32 .f64 (R112). -/
def isFp4 : Ty → Bool
  | .f16 | .bf16 | .f32 | .f64 => true
  | _ => false
def isNarrowFp : Ty → Bool
  | .e4m3 | .e5m2 | .e2m1 => true
  | _ => false
/-- Width in bits (R102, R108). -/
def width : Ty → Nat
  | .i4 | .n4 | .e2m1 => 4
  | .i8 | .n8 | .e4m3 | .e5m2 | .e8m0 => 8
  | .i16 | .n16 | .f16 | .bf16 => 16
  | .i32 | .n32 | .f32 => 32
  | .i64 | .n64 | .f64 | .fa64 => 64
end Ty

/-- The type pairs that CVT accepts (R112). -/
def cvtPair (dt st : Ty) : Bool :=
  dt != st &&
  (if st.isInt then dt.isInt || dt.isFp4
   else if st.isFp4 then dt.isInt || dt.isFp4 || dt.isNarrowFp || dt == .fa64
   else if st.isNarrowFp then dt.isFp4
   else dt == .f32 || dt == .f64)

/-- The excluded uses of .nosat (R112, R115): FP source with an integer destination, and .e2m1. -/
def nosatOk (dt st : Ty) (nosat : Bool) : Bool :=
  !nosat || (!(!st.isInt && dt.isInt) && dt != .e2m1)

/-- The types and slots of PACK (R115). -/
def packOk (dt st : Ty) (j : Nat) : Bool :=
  (match dt with
   | .i4 | .n4 | .i8 | .n8 | .i16 | .n16 => st == .f32 || st == .i32 || st == .n32
   | .f16 | .bf16 | .e4m3 | .e5m2 | .e2m1 => st == .f32
   | _ => false) &&
  (2 * j + 1) * dt.width < 32

/-- The types and indices of UNPK (R116). -/
def unpkOk (st dt : Ty) (k : Nat) : Bool :=
  (match st with
   | .f16 | .bf16 | .e4m3 | .e5m2 | .e2m1 | .e8m0 => dt == .f32
   | .i4 | .i8 | .i16 => dt == .i32
   | .n4 | .n8 | .n16 => dt == .i32 || dt == .n32
   | _ => false) &&
  k * st.width < 32

/-- The special registers of R72. -/
inductive SReg where
  | lane | grp | thr | role | blkx | blky | blkz | nblkx | nblky | nblkz | crank
  | die | pkg | lid | nid | asid | incarn | caps | argp | pcv | fflags | fair | ccnt | tcause | tpc | taddr
deriving DecidableEq, Repr

/-- The ids of R72; none for an id not listed. -/
def SReg.ofId (n : Nat) : Option SReg :=
  match n with
  | 0x000 => some .lane | 0x001 => some .grp | 0x002 => some .thr | 0x003 => some .role
  | 0x008 => some .blkx | 0x009 => some .blky | 0x00A => some .blkz
  | 0x00B => some .nblkx | 0x00C => some .nblky | 0x00D => some .nblkz | 0x00E => some .crank
  | 0x010 => some .die | 0x011 => some .pkg | 0x012 => some .lid | 0x013 => some .nid
  | 0x014 => some .asid | 0x015 => some .incarn | 0x016 => some .caps
  | 0x018 => some .argp | 0x01A => some .pcv
  | 0x020 => some .fflags | 0x021 => some .fair | 0x022 => some .ccnt
  | 0x030 => some .tcause | 0x032 => some .tpc | 0x034 => some .taddr
  | _ => none

/-- The pair registers of R72. -/
def SReg.isPair : SReg → Bool
  | .argp | .pcv | .ccnt | .tpc | .taddr => true
  | _ => false

/-- The registers that SWR may name; s.tpc only in a handler, which the state decides (R72). -/
def SReg.writable : SReg → Bool
  | .fflags | .fair | .tpc => true
  | _ => false

/-- The checks shared by the six MMA forms (R372); `scaled` for .F4 and .F8. -/
def MmaOps.wf (o : MmaOps) (scaled : Bool) : Bool :=
  (!o.as || evenReg o.a) && (!o.bs || evenReg o.b) && (!o.sp || o.bs) && (o.sp || o.sl == 0) &&
  (scaled || (o.selA == 0 && o.selB == 0)) && (scaled || o.sp || o.c == 0)

/-- The shared operand checks of LD, ST, LDS and STS sizes: sign extension only for 8 and 16 bits (R91). -/
def sxOk (size : Size) (sx : Bool) : Bool := !sx || size == .b8 || size == .b16
def sizeReg (size : Size) (r : Reg) : Bool := size != .b64 || evenReg r

def queueByte (q : Byte) : Bool := q.toNat < Config.queues || q == 0xFF
def alignedTo (n : Nat) (a : DWord) : Bool := a.toNat % n == 0

/-- The checks that need no state. Events of the device's agents carry none. -/
def Instr.wf : Instr → Bool
  | .jmpi a => evenReg a
  | .iadd64 _ d a b _ | .isub64 _ d a b _ => evenReg d && evenReg a && evenReg b
  | .imad _ d _ _ c f wide => !wide || (evenReg d && evenReg c && (f == .wrapS || f == .wrapU))
  | .shi _ _ _ right arith _ => !arith || right
  | .mov _ d a pair => !pair || (evenReg d && evenReg a)
  | .sel _ _ d a b pair _ _ => !pair || (evenReg d && evenReg a && evenReg b)
  | .srd _ d id => match SReg.ofId id.toNat with
    | some r => !r.isPair || evenReg d
    | none => false
  | .swr _ a id => match SReg.ofId id.toNat with
    | some r => r.writable && (!r.isPair || evenReg a)
    | none => false
  | .icmp _ _ _ a b _ _ w64 pc op => (!w64 || (evenReg a && evenReg b)) && (op != .none || pc == 0)
  | .fcmp _ _ a b _ pc op f64 => (!f64 || (evenReg a && evenReg b)) && (op != .none || pc == 0)
  | .fadd _ _ _ r | .fmul _ _ _ r | .hpadd _ _ _ r | .hpmul _ _ _ r => rm2 r
  | .ffma _ _ _ _ _ r | .hpfma _ _ _ _ _ r _ => rm2 r
  | .frnd _ _ r | .fsqt _ _ r => rm2 r
  | .fdiv _ _ _ _ r => rm2 r
  | .dadd d a b r | .dmul d a b r => evenReg d && evenReg a && evenReg b && rm2 r
  | .dfma _ d a b c r => evenReg d && evenReg a && evenReg b && evenReg c && rm2 r
  | .dmnx d a b _ => evenReg d && evenReg a && evenReg b
  | .cvt _ d a dt sty r nosat =>
    cvtPair dt sty && nosatOk dt sty nosat && (!(dt.isInt && sty.isInt) || r == .rn) &&
    (dt.width != 64 || evenReg d) && (sty.width != 64 || evenReg a)
  | .pack _ _ _ _ _ dt sty _ nosat j => packOk dt sty j.toNat && nosatOk dt sty nosat
  | .unpk _ _ _ k sty dt => unpkOk sty dt k.toNat
  | .scex _ _ _ et => et.isNarrowFp
  | .fdot _ _ _ _ _ _ _ _ _ r => rm2 r
  | .sgat _ _ _ _ _ seg => seg.toNat ≤ 5
  | .lred _ _ _ op | .lpfx _ _ _ op _ => op != .exch && op != .cas
  | .lmch _ a w64 => !w64 || evenReg a
  | .ld _ _ d a size sx acq sc _ => evenReg a && sizeReg size d && sxOk size sx && (acq || sc == 0)
  | .st _ a b size rel sc _ => evenReg a && sizeReg size b && (rel || sc == 0)
  | .atom _ d a b c op w64 _ _ _ =>
    evenReg a && (!w64 || (evenReg d && evenReg b && evenReg c && op != .fadd && op != .fmin && op != .fmax)) &&
    (op == .cas || c == 0)
  | .red _ a b op w64 _ _ _ =>
    evenReg a && op != .exch && op != .cas && (!w64 || (evenReg b && op != .fadd && op != .fmin && op != .fmax))
  | .lds _ d _ size sx fe clr _ => sizeReg size d && sxOk size sx && (fe || !clr)
  | .ldsx _ d _ _ size sx fe clr _ => sizeReg size d && sxOk size sx && (fe || !clr)
  | .sts _ _ b size _ _ => sizeReg size b
  | .stsx _ _ b _ size _ _ => sizeReg size b
  | .fence _ _ ord _ => ord != .plain
  | .pft _ a _ _ => evenReg a
  | .clin _ a _ _ _ _ => evenReg a
  | .deps _ a b _ size => evenReg a && sizeReg size b
  | .depa _ a b _ kind => evenReg a && (kind != .i64 || evenReg b)
  | .depr _ a _ _ => evenReg a
  | .mmaF4 _ _ o => o.wf true
  | .mmaF8 _ _ _ _ o => o.wf true
  | .mmaI8 _ _ _ _ o | .mmaI4 _ _ _ _ o => o.wf false
  | .mmaBf _ _ o | .mmaH _ _ o => o.wf false
  | .tld _ a b c q arv => evenReg a && evenReg b && evenReg c && (arv || q == 0)
  | .tst _ d a b c q arv flag =>
    evenReg d && evenReg a && evenReg b && evenReg c && (arv || q == 0) && (flag || d == 0)
  | .bxi _ a => evenReg a
  | .bxw _ a _ => evenReg a
  | .qcfg _ n => 1 ≤ n.toNat && n.toNat ≤ 16
  | .barSync _ _ a n lvl | .barArv _ _ a n lvl => lvl != .die || (n == 0 && a == 0)
  | .barWait _ _ n lvl => lvl != .die || n == 0
  | .acal m | .acfr m => m != 0
  | .acld _ _ a sty => evenReg a &&
    (sty == .fa64 || sty == .f32 || sty == .i32 || sty == .f16 || sty == .bf16)
  | .acdr _ _ a _ ot _ nosat => evenReg a &&
    (ot == .fa64 || ot == .f32 || ot == .f16 || ot == .bf16 || ot == .e4m3 || ot == .e5m2 || ot == .i32 || ot == .i8) &&
    (!nosat || !ot.isInt)
  | .launch _ _ _ _ _ _ _ argn _ _ | .launchIndirect _ _ _ _ _ _ argn _ _ => argn.toNat ≤ 4096
  | .depend _ _ _ _ _ _ wx wy _ _ => wx != 0 && wy != 0
  | .wait _ _ kind cond counter queue addr _ =>
    kind.toNat ≤ 2 && cond.toNat ≤ 3 && counter.toNat ≤ 3 && queueByte queue &&
    (kind.toNat == 0 || alignedTo (4 * kind.toNat) addr)
  | .signal _ msix _ op vector addr _ =>
    op.toNat ≤ 3 && (!msix || (4 ≤ vector.toNat && vector.toNat ≤ 63)) && alignedTo (if op.toNat % 2 == 0 then 4 else 8) addr
  | .loop _ mem _ count addr => if mem then count == 0 else addr == 0
  | .ifPkt _ _ cond width addr _ => cond.toNat ≤ 3 && width.toNat ≤ 1 && alignedTo (4 + 4 * width.toNat) addr
  | .copy _ _ _ die _ _ => die.toNat ≤ 3 || die == 0xFF
  | .cancel _ level queue label => level.toNat ≤ 3 && queueByte queue && (level == 0 || label == 0)
  | .killContext _ _ asid _ => asid.toNat < 1024
  | .reclaimFence _ asid => asid.toNat < 1024
  | .scopeTable _ _ id _ _ => 8 ≤ id.toNat && id.toNat ≤ 31
  | .channelAllocate _ journaled peer ch _ _ jsize =>
    peer.toNat < 16 && (ch.toNat < Config.channels || ch == 0xFFFF) &&
    (!journaled || (16 ≤ jsize.toNat && jsize.toNat ≤ 30))
  | .channelFree _ mode peer ch _ _ _ => mode.toNat ≤ 1 && peer.toNat < 16 && (ch.toNat < Config.channels || ch == 0xFFFF)
  | .priority _ p => p.toNat ≤ 3
  | .nopPacket units _ => 1 ≤ units.toNat
  | _ => true

end Sys2Proof
end

