-- ==== Sys2Proof/Decode.lean ====
section
/-! DEFINITION. Decode.lean: instruction words to `Instr` (spec/04 R75 to R95) and packets to `Instr`
(spec/03 R47, R48), total on any words, and after them the encoder from the same tables. -/

namespace Sys2Proof

/-! ### Field codes (R80, R81, R86, R90) -/

def Ty.ofCode (n : Nat) : Option Ty :=
  match n with
  | 0 => some .i4 | 1 => some .i8 | 2 => some .i16 | 3 => some .i32 | 4 => some .i64
  | 5 => some .n4 | 6 => some .n8 | 7 => some .n16 | 8 => some .n32 | 9 => some .n64
  | 10 => some .f16 | 11 => some .bf16 | 12 => some .f32 | 13 => some .f64
  | 14 => some .e4m3 | 15 => some .e5m2 | 16 => some .e2m1 | 17 => some .e8m0 | 18 => some .fa64
  | _ => none

def IntF.code : IntF → BitVec 2
  | .wrapS => 0 | .wrapU => 1 | .satS => 2 | .satU => 3
def IntF.ofCode (c : BitVec 2) : IntF :=
  match c.toNat with
  | 0 => .wrapS | 1 => .wrapU | 2 => .satS | _ => .satU

def Rm.code : Rm → Nat
  | .rn => 0 | .rz => 1 | .rd => 2 | .ru => 3 | .rna => 4
def Rm.ofCode (n : Nat) : Option Rm :=
  match n with
  | 0 => some .rn | 1 => some .rz | 2 => some .rd | 3 => some .ru | 4 => some .rna | _ => none
/-- The 2-bit f rounding field (R80). -/
def Rm.ofF (c : BitVec 2) : Rm :=
  match c.toNat with
  | 0 => .rn | 1 => .rz | 2 => .rd | _ => .ru

def Order.code : Order → Nat
  | .plain => 0 | .acq => 1 | .rel => 2 | .acqrel => 3
def Order.ofCode (n : Nat) : Order :=
  match n with
  | 0 => .plain | 1 => .acq | 2 => .rel | _ => .acqrel

def Size.code : Size → Nat
  | .b8 => 0 | .b16 => 1 | .b32 => 2 | .b64 => 3
def Size.ofCode (n : Nat) : Option Size :=
  match n with
  | 0 => some .b8 | 1 => some .b16 | 2 => some .b32 | 3 => some .b64 | _ => none

def LaneOp.code : LaneOp → Nat
  | .add => 0 | .minS => 1 | .maxS => 2 | .minU => 3 | .maxU => 4 | .and => 5 | .or => 6 | .xor => 7
  | .exch => 8 | .cas => 9 | .fadd => 10 | .fmin => 11 | .fmax => 12
def LaneOp.ofCode (n : Nat) : Option LaneOp :=
  match n with
  | 0 => some .add | 1 => some .minS | 2 => some .maxS | 3 => some .minU | 4 => some .maxU
  | 5 => some .and | 6 => some .or | 7 => some .xor | 8 => some .exch | 9 => some .cas
  | 10 => some .fadd | 11 => some .fmin | 12 => some .fmax | _ => none

def Cond.code : Cond → Nat
  | .eq => 0 | .ne => 1 | .lt => 2 | .le => 3 | .gt => 4 | .ge => 5
def Cond.ofCode (n : Nat) : Option Cond :=
  match n with
  | 0 => some .eq | 1 => some .ne | 2 => some .lt | 3 => some .le | 4 => some .gt | 5 => some .ge | _ => none

def FCond.code : FCond → Nat
  | .eq => 0 | .ne => 1 | .lt => 2 | .le => 3 | .gt => 4 | .ge => 5 | .ord => 6 | .unord => 7
  | .ueq => 8 | .une => 9 | .ult => 10 | .ule => 11 | .ugt => 12 | .uge => 13
def FCond.ofCode (n : Nat) : Option FCond :=
  match n with
  | 0 => some .eq | 1 => some .ne | 2 => some .lt | 3 => some .le | 4 => some .gt | 5 => some .ge
  | 6 => some .ord | 7 => some .unord | 8 => some .ueq | 9 => some .une | 10 => some .ult
  | 11 => some .ule | 12 => some .ugt | 13 => some .uge | _ => none

def Comb.code : Comb → Nat
  | .none => 0 | .and => 1 | .or => 2 | .xor => 3
def Comb.ofCode (n : Nat) : Comb :=
  match n with
  | 0 => .none | 1 => .and | 2 => .or | _ => .xor

def SgMode.code : SgMode → Nat
  | .at => 0 | .lo => 1 | .hi => 2 | .xor => 3
def SgMode.ofCode (n : Nat) : SgMode :=
  match n with
  | 0 => .at | 1 => .lo | 2 => .hi | _ => .xor

def DotFmt.code : DotFmt → Nat
  | .e4m3 => 0 | .e5m2 => 1 | .e2m1 => 2
def DotFmt.ofCode (n : Nat) : Option DotFmt :=
  match n with
  | 0 => some .e4m3 | 1 => some .e5m2 | 2 => some .e2m1 | _ => none

def ClinOp.code : ClinOp → Nat
  | .wb => 0 | .inv => 1 | .wbi => 2
def ClinOp.ofCode (n : Nat) : Option ClinOp :=
  match n with
  | 0 => some .wb | 1 => some .inv | 2 => some .wbi | _ => none

def DepaKind.code : DepaKind → Nat
  | .i32 => 0 | .i64 => 1 | .f32 => 2
def DepaKind.ofCode (n : Nat) : Option DepaKind :=
  match n with
  | 0 => some .i32 | 1 => some .i64 | 2 => some .f32 | _ => none

def BarLvl.code : BarLvl → Nat
  | .blk => 0 | .clu => 1 | .die => 2
def BarLvl.ofCode (n : Nat) : Option BarLvl :=
  match n with
  | 0 => some .blk | 1 => some .clu | 2 => some .die | _ => none

def ChnrKind.code : ChnrKind → Nat
  | .snd => 0 | .seq => 1 | .arr => 2
def ChnrKind.ofCode (n : Nat) : Option ChnrKind :=
  match n with
  | 0 => some .snd | 1 => some .seq | 2 => some .arr | _ => none

/-! ### The fields of the first word (R75, R76) and of the second (R77) -/

structure W0 where
  u : Bool
  x : Bool
  major : BitVec 7
  d : BitVec 7
  a : BitVec 7
  b : BitVec 7
  f : BitVec 2
deriving DecidableEq, Repr

def W0.ofWord (w : Word) : W0 :=
  { u := w.getLsbD 31, x := w.getLsbD 30, major := w.extractLsb' 23 7, d := w.extractLsb' 16 7,
    a := w.extractLsb' 9 7, b := w.extractLsb' 2 7, f := w.extractLsb' 0 2 }

structure W1 where
  g : BitVec 3
  n : Bool
  c : BitVec 7
  sc : BitVec 5
  lo : BitVec 16
deriving DecidableEq, Repr

def W1.ofWord (w : Word) : W1 :=
  { g := w.extractLsb' 29 3, n := w.getLsbD 28, c := w.extractLsb' 21 7, sc := w.extractLsb' 16 5,
    lo := w.extractLsb' 0 16 }

namespace W0
/-- imm9 of format B. -/
def imm9 (h : W0) : BitVec 9 := h.b ++ h.f
/-- imm16 of format C. -/
def imm16 (h : W0) : BitVec 16 := h.a ++ h.b ++ h.f
/-- Bits [22:0], which format D reads as g, n and disp19. -/
def low23 (h : W0) : BitVec 23 := h.d ++ h.a ++ h.b ++ h.f
def dg (h : W0) : BitVec 3 := h.low23.extractLsb' 20 3
def dn (h : W0) : Bool := h.low23.getLsbD 19
def disp19 (h : W0) : BitVec 19 := h.low23.extractLsb' 0 19
def zero (h : W0) : Bool := h.d == 0 && h.a == 0 && h.b == 0 && h.f == 0
/-- The low three bits of a field that names a predicate (R70). -/
def p3 (r : BitVec 7) : BitVec 3 := r.extractLsb' 0 3
/-- The four upper bits of such a field are 0. -/
def isP (r : BitVec 7) : Bool := r.extractLsb' 3 4 == 0
/-- A 4-bit name in d[19:16] (R71). -/
def d4 (h : W0) : BitVec 4 := h.d.extractLsb' 0 4
def isD4 (h : W0) : Bool := h.d.extractLsb' 4 3 == 0
/-- A tile name in d[17:16] (R71). -/
def d2 (h : W0) : BitVec 2 := h.d.extractLsb' 0 2
def isD2 (h : W0) : Bool := h.d.extractLsb' 2 5 == 0
end W0

namespace W1
def gd (e : W1) : Guard := { g := e.g, n := e.n }
/-- Bits [hi:lo] of word 1 as a number. -/
def fld (e : W1) (hi lo : Nat) : Nat := bits e.lo hi lo
/-- Bits [15:k] are 0. -/
def above (e : W1) (k : Nat) : Bool := e.lo.toNat >>> k == 0
def bv (e : W1) (lo w : Nat) : BitVec w := e.lo.extractLsb' lo w
end W1

/-- The instruction, where its zero fields are zero. -/
def need (c : Bool) (i : Instr) : Option Instr := if c then some i else none

/-- The majors whose lane instruction has a uniform form (R94). -/
def uniformForm (m : Nat) : Bool :=
  match m with
  | 0x10 | 0x11 | 0x12 | 0x14 | 0x15 | 0x17 | 0x18 | 0x19 | 0x20 | 0x21 | 0x22 | 0x23 | 0x24 | 0x25 | 0x26
  | 0x28 | 0x29 | 0x30 | 0x31 | 0x32 | 0x33 | 0x34 | 0x35 | 0x36 | 0x68 | 0x70 => true
  | _ => false

/-- One-word lane instructions and their uniform forms (R83 to R90). -/
def laneShort (h : W0) : Option Instr :=
  match h.major.toNat with
  | 0x00 => need h.zero .nop
  | 0x01 => need h.zero .exit
  | 0x02 => some (.bra { g := h.dg, n := h.dn } h.disp19)
  | 0x03 => need (h.dg == 7 && !h.dn) (.call h.disp19)
  | 0x04 => need h.zero .ret
  | 0x05 => need (h.d == 0 && h.b == 0 && h.f == 0) (.jmpi h.a)
  | 0x06 => need h.zero .yield
  | 0x07 => need (h.d == 0 && h.a == 0) (.trap h.imm9)
  | 0x08 => need (h.d == 0 && h.a == 0) (.bkpt h.imm9)
  | 0x09 => need h.zero .tret
  | 0x10 => some (.iadd h.u h.d h.a h.b (IntF.ofCode h.f))
  | 0x11 => some (.isub h.u h.d h.a h.b (IntF.ofCode h.f))
  | 0x12 => some (.imul h.u h.d h.a h.b (IntF.ofCode h.f))
  | 0x13 => need (!bit h.f 1) (.imulh h.d h.a h.b (bit h.f 0))
  | 0x14 => need (!bit h.f 1) (.imin h.u h.d h.a h.b (bit h.f 0))
  | 0x15 => need (!bit h.f 1) (.imax h.u h.d h.a h.b (bit h.f 0))
  | 0x16 => need (h.b == 0 && !bit h.f 0) (.iabs h.d h.a (bit h.f 1))
  | 0x17 => some (.iaddi h.u h.d h.a h.imm9)
  | 0x18 => some (.iadd64 h.u h.d h.a h.b (IntF.ofCode h.f))
  | 0x19 => some (.isub64 h.u h.d h.a h.b (IntF.ofCode h.f))
  | 0x20 => need (h.f == 0) (.and h.u h.d h.a h.b)
  | 0x21 => need (h.f == 0) (.or h.u h.d h.a h.b)
  | 0x22 => need (h.f == 0) (.xor h.u h.d h.a h.b)
  | 0x24 => need (!bit h.f 0) (.shl h.u h.d h.a h.b (bit h.f 1))
  | 0x25 => some (.shr h.u h.d h.a h.b (bit h.f 0) (bit h.f 1))
  | 0x26 => need (bits h.imm9 8 7 == 0)
      (.shi h.u h.d h.a (bit h.imm9 5) (bit h.imm9 6) (h.imm9.extractLsb' 0 5))
  | 0x2A => need (h.b == 0 && h.f == 0) (.popc h.d h.a)
  | 0x2B => need (h.b == 0 && h.f == 0) (.clz h.d h.a)
  | 0x2C => need (h.b == 0 && h.f == 0) (.brev h.d h.a)
  | 0x30 => need (h.b == 0 && !bit h.f 1) (.mov h.u h.d h.a (bit h.f 0))
  | 0x31 => some (.movi h.u h.d h.imm16)
  | 0x32 => some (.movh h.u h.d h.imm16)
  | 0x34 => need (h.a == 0) (.srd h.u h.d h.imm9)
  | 0x35 => need (h.d == 0) (.swr h.u h.a h.imm9)
  | 0x39 => need (W0.isP h.a && h.b == 0 && !bit h.f 1) (.ptov h.d (W0.p3 h.a) (bit h.f 0))
  | 0x3A => need (W0.isP h.d && h.b == 0 && !bit h.f 1) (.vtop (W0.p3 h.d) h.a (bit h.f 0))
  | 0x40 => some (.fadd h.d h.a h.b (Rm.ofF h.f))
  | 0x41 => some (.fmul h.d h.a h.b (Rm.ofF h.f))
  | 0x43 => need (h.f == 0) (.fmin h.d h.a h.b)
  | 0x44 => need (h.f == 0) (.fmax h.d h.a h.b)
  | 0x45 => need (h.b == 0) (.frnd h.d h.a (Rm.ofF h.f))
  | 0x48 => need (h.b == 0 && h.f == 0) (.frcp h.d h.a)
  | 0x49 => need (h.b == 0 && h.f == 0) (.frsq h.d h.a)
  | 0x4A => need (h.b == 0) (.fsqt h.d h.a (Rm.ofF h.f))
  | 0x4B => need (h.b == 0 && h.f == 0) (.fex2 h.d h.a)
  | 0x4C => need (h.b == 0 && h.f == 0) (.flg2 h.d h.a)
  | 0x4D => need (h.b == 0 && h.f == 0) (.fsin h.d h.a)
  | 0x4E => need (h.b == 0 && h.f == 0) (.fcos h.d h.a)
  | 0x4F => need (h.b == 0 && h.f == 0) (.ftnh h.d h.a)
  | 0x50 => some (.hpadd h.d h.a h.b (Rm.ofF h.f))
  | 0x51 => some (.hpmul h.d h.a h.b (Rm.ofF h.f))
  | 0x53 => some (.hpmnx h.d h.a h.b (bit h.f 0) (bit h.f 1))
  | 0x54 => some (.dadd h.d h.a h.b (Rm.ofF h.f))
  | 0x55 => some (.dmul h.d h.a h.b (Rm.ofF h.f))
  | 0x57 => need (!bit h.f 1) (.dmnx h.d h.a h.b (bit h.f 0))
  | 0x64 => need (h.b == 0 && !bit h.f 1) (.lmch h.d h.a (bit h.f 0))
  | _ => none

/-- One-word uniform-only instructions (R93). -/
def uniShort (h : W0) : Option Instr :=
  match h.major.toNat with
  | 0x48 => need (h.isD4 && h.a == 0) (.qcfg h.d4 h.imm9)
  | 0x54 => need (h.isD4 && h.b == 0 && h.f == 0) (.kcfg h.d4 h.a)
  | 0x58 => need (h.d == 0 && h.a == 0 && bits h.imm9 8 4 == 0) (.acal (h.imm9.extractLsb' 0 4))
  | 0x59 => need (h.d == 0 && h.a == 0 && bits h.imm9 8 4 == 0) (.acfr (h.imm9.extractLsb' 0 4))
  | 0x5A => need (h.isD2 && h.a == 0 && h.b == 0 && h.f == 0) (.aczr h.d2)
  | 0x5D => need (h.isD2 && h.a == 0 && h.b == 0 && h.f == 0) (.mwt h.d2)
  | 0x60 => need h.zero .ckpt
  | 0x61 => if h.b == 0 then (ChnrKind.ofCode h.f.toNat).map (.chnr h.d h.a) else none
  | _ => none

/-- Position and length of BFE and BFI (R85, R311): the register form with bits [11:2] zero, or the fields. -/
def bfSrc (h : W0) (e : W1) : Option BfSrc :=
  if bit e.lo 1 then
    if h.b == 0 then some (.imm (e.bv 2 5) (e.bv 7 5)) else none
  else if e.fld 11 2 == 0 then some (.reg h.b) else none

def mmaOps (h : W0) (e : W1) : MmaOps :=
  { a := h.a, b := h.b, c := e.c, k := e.bv 0 4, as := bit e.lo 4, bs := bit e.lo 5,
    selA := e.bv 6 2, selB := e.bv 8 2, sp := bit e.lo 10, sl := e.bv 11 2 }

/-- The zero fields of every MMA: d[22:18], sc and word 1 [15:13] (R370). -/
def mmaZero (h : W0) (e : W1) : Bool := h.isD2 && e.sc == 0 && e.above 13

/-- Two-word lane instructions and their uniform forms (R84 to R92). R110 gives FDOT the 3-bit rounding field with .rna, R89, R120 and
R340 the 2-bit f: it is read as f here, and .rna is refused (log 110, DESIGN CHOICE). -/
def laneLong (h : W0) (e : W1) : Option Instr :=
  match h.major.toNat with
  | 0x1A => need (h.f == 0 && e.c == 0 && e.sc == 0 && e.above 6) (.iaddc e.gd h.d h.a h.b (e.bv 0 3) (e.bv 3 3))
  | 0x1B => need (e.sc == 0 && e.above 1) (.imad e.gd h.d h.a h.b e.c (IntF.ofCode h.f) (bit e.lo 0))
  | 0x23 => need (h.f == 0 && e.sc == 0 && e.above 8) (.logt h.u e.gd h.d h.a h.b e.c (e.bv 0 8))
  | 0x27 => need (h.f == 0 && e.sc == 0 && e.above 2) (.fshf e.gd h.d h.a h.b e.c (bit e.lo 0) (bit e.lo 1))
  | 0x28 => if h.f == 0 && e.c == 0 && e.sc == 0 && e.above 12
      then (bfSrc h e).map (fun r => .bfe h.u e.gd h.d h.a r (bit e.lo 0)) else none
  | 0x29 => if h.f == 0 && e.sc == 0 && e.above 12 && !bit e.lo 0
      then (bfSrc h e).map (fun r => .bfi h.u e.gd h.d h.a e.c r) else none
  | 0x33 => need (!bit h.f 1 && e.c == 0 && e.sc == 0 && e.above 4)
      (.sel h.u e.gd h.d h.a h.b (bit h.f 0) (e.bv 0 3) (bit e.lo 3))
  | 0x36 => if W0.isP h.d && h.f == 0 && e.c == 0 && e.sc == 0 && e.above 10
      then (Cond.ofCode (e.fld 2 0)).map (fun c =>
        .icmp h.u e.gd (W0.p3 h.d) h.a h.b c (bit e.lo 3) (bit e.lo 4) (e.bv 5 3) (Comb.ofCode (e.fld 9 8))) else none
  | 0x37 => if W0.isP h.d && h.f == 0 && e.c == 0 && e.sc == 0 && e.above 10
      then (FCond.ofCode (e.fld 3 0)).map (fun c =>
        .fcmp e.gd (W0.p3 h.d) h.a h.b c (e.bv 4 3) (Comb.ofCode (e.fld 8 7)) (bit e.lo 9)) else none
  | 0x38 => need (W0.isP h.d && W0.isP h.a && W0.isP h.b && W0.isP e.c && h.f == 0 && e.sc == 0 && e.above 8)
      (.plgt e.gd (W0.p3 h.d) (W0.p3 h.a) (W0.p3 h.b) (W0.p3 e.c) (e.bv 0 8))
  | 0x42 => need (e.sc == 0 && e.above 0) (.ffma e.gd h.d h.a h.b e.c (Rm.ofF h.f))
  | 0x46 => need (e.c == 0 && e.sc == 0 && e.above 0) (.fdiv e.gd h.d h.a h.b (Rm.ofF h.f))
  | 0x52 => need (e.sc == 0 && e.above 1) (.hpfma e.gd h.d h.a h.b e.c (Rm.ofF h.f) (bit e.lo 0))
  | 0x56 => need (e.sc == 0 && e.above 0) (.dfma e.gd h.d h.a h.b e.c (Rm.ofF h.f))
  | 0x58 => if h.f == 0 && h.b == 0 && e.c == 0 && e.sc == 0 && e.above 14 then
      match Ty.ofCode (e.fld 4 0), Ty.ofCode (e.fld 9 5), Rm.ofCode (e.fld 12 10) with
      | some dt, some sty, some r => some (.cvt e.gd h.d h.a dt sty r (bit e.lo 13))
      | _, _, _ => none
      else none
  | 0x59 => if h.f == 0 && e.sc == 0 then
      match Ty.ofCode (e.fld 4 0), Ty.ofCode (e.fld 9 5), Rm.ofCode (e.fld 12 10) with
      | some dt, some sty, some r => some (.pack e.gd h.d h.a h.b e.c dt sty r (bit e.lo 13) (e.bv 14 2))
      | _, _, _ => none
      else none
  | 0x5A => if h.f == 0 && h.b == 0 && e.c == 0 && e.sc == 0 && e.above 13 then
      match Ty.ofCode (e.fld 7 3), Ty.ofCode (e.fld 12 8) with
      | some sty, some dt => some (.unpk e.gd h.d h.a (e.bv 0 3) sty dt)
      | _, _ => none
      else none
  | 0x5B => if h.f == 0 && h.b == 0 && e.c == 0 && e.sc == 0 && e.above 5
      then (Ty.ofCode (e.fld 4 0)).map (.scex e.gd h.d h.a) else none
  | 0x5C => need (h.f == 0 && e.sc == 0 && e.above 4)
      (.idot e.gd h.d h.a h.b e.c (bit e.lo 0) (bit e.lo 1) (bit e.lo 2) (bit e.lo 3))
  | 0x5D => if e.sc == 0 && e.above 13
      then (DotFmt.ofCode (e.fld 1 0)).map (fun fm =>
        .fdot e.gd h.d h.a h.b e.c (e.bv 6 7) fm (e.bv 2 2) (e.bv 4 2) (Rm.ofF h.f)) else none
  | 0x60 => if h.f == 0 && e.c == 0 && e.sc == 0 && e.above 11 then
      if bit e.lo 7 then need (e.fld 6 2 == 0) (.sgat e.gd h.d h.a (SgMode.ofCode (e.fld 1 0)) (.reg h.b) (e.bv 8 3))
      else need (h.b == 0) (.sgat e.gd h.d h.a (SgMode.ofCode (e.fld 1 0)) (.imm (e.bv 2 5)) (e.bv 8 3))
      else none
  | 0x61 => if W0.isP h.a && h.b == 0 && h.f == 0 && e.c == 0 && e.sc == 0 && e.above 2 then
      match e.fld 1 0 with
      | 0 => some (.vote e.gd (.mask h.d) (W0.p3 h.a))
      | 1 => need (W0.isP h.d) (.vote e.gd (.every (W0.p3 h.d)) (W0.p3 h.a))
      | 2 => need (W0.isP h.d) (.vote e.gd (.some (W0.p3 h.d)) (W0.p3 h.a))
      | _ => need (W0.isP h.d) (.vote e.gd (.same (W0.p3 h.d)) (W0.p3 h.a))
      else none
  | 0x62 => if h.b == 0 && h.f == 0 && e.c == 0 && e.sc == 0 && e.above 4
      then (LaneOp.ofCode (e.fld 3 0)).map (.lred e.gd h.d h.a) else none
  | 0x63 => if h.b == 0 && h.f == 0 && e.c == 0 && e.sc == 0 && e.above 5
      then (LaneOp.ofCode (e.fld 3 0)).map (fun o => .lpfx e.gd h.d h.a o (bit e.lo 4)) else none
  | 0x68 => if h.b == 0 && h.f == 0 && e.c == 0 && e.fld 5 4 ≤ 1
      then (Size.ofCode (e.fld 2 0)).map (fun z =>
        .ld h.u e.gd h.d h.a z (bit e.lo 3) (bit e.lo 4) e.sc (e.bv 6 10)) else none
  | 0x69 => if h.d == 0 && h.f == 0 && e.c == 0 && !bit e.lo 3 && !bit e.lo 4
      then (Size.ofCode (e.fld 2 0)).map (fun z => .st e.gd h.a h.b z (bit e.lo 5) e.sc (e.bv 6 10)) else none
  | 0x6A => if h.f == 0
      then (LaneOp.ofCode (e.fld 3 0)).map (fun o =>
        .atom e.gd h.d h.a h.b e.c o (bit e.lo 4) (Order.ofCode (e.fld 6 5)) e.sc (e.bv 7 9)) else none
  | 0x6B => if h.d == 0 && h.f == 0 && e.c == 0
      then (LaneOp.ofCode (e.fld 3 0)).map (fun o =>
        .red e.gd h.a h.b o (bit e.lo 4) (Order.ofCode (e.fld 6 5)) e.sc (e.bv 7 9)) else none
  | 0x6C => if h.b == 0 && h.f == 0 && e.c == 0 && e.sc == 0
      then (Size.ofCode (e.fld 2 0)).map (fun z =>
        .lds e.gd h.d h.a z (bit e.lo 3) (bit e.lo 4) (bit e.lo 5) (e.bv 6 10)) else none
  | 0x6D => if h.d == 0 && h.f == 0 && e.c == 0 && e.sc == 0 && !bit e.lo 3 && !bit e.lo 5
      then (Size.ofCode (e.fld 2 0)).map (fun z => .sts e.gd h.a h.b z (bit e.lo 4) (e.bv 6 10)) else none
  | 0x6E => if h.b == 0 && h.f == 0 && e.sc == 0
      then (Size.ofCode (e.fld 2 0)).map (fun z =>
        .ldsx e.gd h.d h.a e.c z (bit e.lo 3) (bit e.lo 4) (bit e.lo 5) (e.bv 6 10)) else none
  | 0x6F => if h.d == 0 && h.f == 0 && e.sc == 0 && !bit e.lo 3 && !bit e.lo 5
      then (Size.ofCode (e.fld 2 0)).map (fun z => .stsx e.gd h.a h.b e.c z (bit e.lo 4) (e.bv 6 10)) else none
  | 0x70 => need (h.d == 0 && h.a == 0 && h.b == 0 && h.f == 0 && e.c == 0 && e.above 2)
      (.fence h.u e.gd (Order.ofCode (e.fld 1 0)) e.sc)
  | 0x71 => need (h.d == 0 && h.b == 0 && h.f == 0 && e.c == 0 && e.sc == 0 && e.fld 5 1 == 0)
      (.pft e.gd h.a (bit e.lo 0) (e.bv 6 10))
  | 0x72 => if h.d == 0 && h.f == 0 && e.c == 0 && e.above 3
      then (ClinOp.ofCode (e.fld 1 0)).map (fun o => .clin e.gd h.a h.b o (bit e.lo 2) e.sc) else none
  | 0x73 => if h.f == 0 && e.c == 0 && e.sc == 0 && e.above 2 then
      match e.fld 1 0 with
      | 0 => need (h.d == 0) (.feop e.gd .set h.a h.b)
      | 1 => need (h.d == 0) (.feop e.gd .clr h.a h.b)
      | 2 => need (W0.isP h.d) (.feop e.gd (.test (W0.p3 h.d)) h.a h.b)
      | _ => none
      else none
  | 0x74 => if h.d == 0 && h.f == 0 && e.sc == 0 && e.above 3
      then (Size.ofCode (e.fld 2 0)).map (.deps e.gd h.a h.b e.c) else none
  | 0x75 => if h.d == 0 && h.f == 0 && e.sc == 0 && e.above 2
      then (DepaKind.ofCode (e.fld 1 0)).map (.depa e.gd h.a h.b e.c) else none
  | 0x76 => need (h.d == 0 && h.f == 0 && e.sc == 0 && e.above 0) (.depr e.gd h.a h.b e.c)
  | 0x78 => need (mmaZero h e && h.f == 0) (.mmaF4 e.gd h.d2 (mmaOps h e))
  | 0x79 => need (mmaZero h e) (.mmaF8 e.gd h.d2 (bit h.f 0) (bit h.f 1) (mmaOps h e))
  | 0x7A => need (mmaZero h e) (.mmaI8 e.gd h.d2 (bit h.f 0) (bit h.f 1) (mmaOps h e))
  | 0x7B => need (mmaZero h e) (.mmaI4 e.gd h.d2 (bit h.f 0) (bit h.f 1) (mmaOps h e))
  | 0x7C => need (mmaZero h e && h.f == 0) (.mmaBf e.gd h.d2 (mmaOps h e))
  | 0x7D => need (mmaZero h e && h.f == 0) (.mmaH e.gd h.d2 (mmaOps h e))
  | 0x7E => need (h.zero && e.c == 0 && e.sc == 0 && e.above 4) (.ksgn e.gd (e.bv 0 4))
  | _ => none

/-- Two-word uniform-only instructions (R93). -/
def uniLong (h : W0) (e : W1) : Option Instr :=
  match h.major.toNat with
  | 0x40 => need (h.d == 0 && h.f == 0 && e.sc == 0 && e.above 5) (.tld e.gd h.a h.b e.c (e.bv 0 4) (bit e.lo 4))
  | 0x41 => need (h.f == 0 && e.sc == 0 && e.above 6)
      (.tst e.gd h.d h.a h.b e.c (e.bv 0 4) (bit e.lo 4) (bit e.lo 5))
  | 0x44 => need (h.d == 0 && h.b == 0 && h.f == 0 && e.c == 0 && e.sc == 0 && e.above 0) (.bxi e.gd h.a)
  | 0x45 => need (h.d == 0 && h.f == 0 && e.c == 0 && e.sc == 0 && e.above 0) (.bxw e.gd h.a h.b)
  | 0x49 => need (h.d == 0 && h.b == 0 && h.f == 0 && e.c == 0 && e.sc == 0 && e.above 5)
      (.qarv e.gd h.a (e.bv 0 4) (bit e.lo 4))
  | 0x4A => need (h.d == 0 && h.b == 0 && h.f == 0 && e.c == 0 && e.sc == 0 && e.above 6)
      (.qwt e.gd h.a (e.bv 0 4) (bit e.lo 4) (bit e.lo 5))
  | 0x50 => if h.f == 0 && e.c == 0 && e.sc == 0 && e.above 8 then
      match BarLvl.ofCode (e.fld 5 4), e.fld 7 6 with
      | some l, 0 => need (h.b == 0) (.barSync e.gd h.d h.a (e.bv 0 4) l)
      | some l, 1 => need (h.b == 0) (.barArv e.gd h.d h.a (e.bv 0 4) l)
      | some l, 2 => need (h.d == 0 && h.a == 0) (.barWait e.gd h.b (e.bv 0 4) l)
      | _, _ => none
      else none
  | 0x5B => if h.isD2 && h.b == 0 && h.f == 0 && e.c == 0 && e.sc == 0 && e.above 5
      then (Ty.ofCode (e.fld 4 0)).map (.acld e.gd h.d2 h.a) else none
  | 0x5C => if h.isD2 && h.f == 0 && e.c == 0 && e.sc == 0 && e.above 9 then
      match Ty.ofCode (e.fld 4 0), Rm.ofCode (e.fld 7 5) with
      | some ot, some r => some (.acdr e.gd h.d2 h.a h.b ot r (bit e.lo 8))
      | _, _ => none
      else none
  | _ => none

/-- What a word, or a pair of words, says before the checks of `Instr.wf`. -/
def parse (w0 w1 : Word) : Option Instr :=
  let h := W0.ofWord w0
  let uni := h.u && !uniformForm h.major.toNat
  if h.x then
    if uni then uniLong h (W1.ofWord w1) else laneLong h (W1.ofWord w1)
  else
    if uni then uniShort h else laneShort h

/-- The first word says whether a second follows (R75). -/
def twoWords (w0 : Word) : Bool := w0.getLsbD 30

/-- The instruction of a word or pair of words; a word that is no instruction is the row
ILLEGAL_INSTRUCTION (R95). -/
def decode (w0 w1 : Word) : Instr :=
  match parse w0 w1 with
  | some i => if i.wf then i else .illegalInstruction w0 (if twoWords w0 then some w1 else none)
  | none => .illegalInstruction w0 (if twoWords w0 then some w1 else none)

/-- A little-endian word of the bytes at the head of a list (R7). -/
def wordOf (bs : List Byte) : Word :=
  BitVec.ofNat 32 ((bs.getD 0 0).toNat + 2 ^ 8 * (bs.getD 1 0).toNat + 2 ^ 16 * (bs.getD 2 0).toNat
    + 2 ^ 24 * (bs.getD 3 0).toNat)

/-- The four bytes of a word, lowest address first (R7). -/
def bytesOfWord (w : Word) : List Byte :=
  [w.extractLsb' 0 8, w.extractLsb' 8 8, w.extractLsb' 16 8, w.extractLsb' 24 8]

/-- Decoding from bytes: the instruction and the bytes left, or none when the bytes end too early. -/
def decodeBytes (bs : List Byte) : Option (Instr × List Byte) :=
  if bs.length < 4 then none
  else
    let w0 := wordOf bs
    if twoWords w0 then
      if bs.length < 8 then none else some (decode w0 (wordOf (bs.drop 4)), bs.drop 8)
    else some (decode w0 0, bs.drop 4)

def Instr.isIllegal : Instr → Bool
  | .illegalInstruction _ _ => true
  | _ => false

/-- The host's question: the instruction read from an instruction whose bits are w (nbits of them given by the
table, zeros above), laid out as the device stores it; none for words that are no instruction. -/
def decodeTableWord (nbits w : Nat) : Option Instr :=
  let v := w % 2 ^ nbits
  match decodeBytes (bytesOfWord (BitVec.ofNat 32 v) ++ bytesOfWord (BitVec.ofNat 32 (v >>> 32))) with
  | some (i, _) => if i.isIllegal then none else some i
  | none => none

/-! ### Packets (R47, R48) -/

/-- A packet read from a ring: the command and its units, or the stop error of R46. -/
inductive PacketRead where
  | ok (i : Instr) (units : Nat)
  | badOpcode
  | malformed
deriving DecidableEq, Repr

structure PktHdr where
  op : Nat
  flags : BitVec 8
  units : Nat
  tag : Word
deriving DecidableEq, Repr

def PktHdr.ofWords (w0 w1 : Word) : PktHdr :=
  { op := bits w0 7 0, flags := w0.extractLsb' 8 8, units := bits w0 31 16, tag := w1 }

def dw (ws : List Word) (i : Nat) : DWord := ws.getD (i + 1) 0 ++ ws.getD i 0
def wz (ws : List Word) (is : List Nat) : Bool := is.all (fun i => ws.getD i 0 == 0)
def byteAt (w : Word) (k : Nat) : Byte := w.extractLsb' (8 * k) 8
def half (w : Word) (k : Nat) : BitVec 16 := w.extractLsb' (16 * k) 16

/-- The flags that an opcode lists, as a mask of header bits [15:8] (R47). -/
def flagMask (op : Nat) : BitVec 8 :=
  match op with
  | 0x01 | 0x02 | 0x04 | 0x0F => 0x01
  | 0x03 => 0x10
  | 0x06 => 0x40
  | 0x07 | 0x0B | 0x13 => 0x02
  | 0x08 => 0x0A
  | 0x09 => 0x06
  | 0x0E => 0x03
  | 0x11 => 0x20
  | _ => 0

/-- The length of each command in 16-byte units (R48); none for NOP, which takes any length from 1. -/
def packetUnits (op : Nat) : Option Nat :=
  match op with
  | 0x01 | 0x0E | 0x13 | 0x14 => some 3
  | 0x02 | 0x03 | 0x07 | 0x08 | 0x09 | 0x0B | 0x0F | 0x10 | 0x11 => some 2
  | 0x17 => none
  | _ => some 1

/-- The body of a packet by the table of R48: the command, and whether its reserved bytes are 0. -/
def packetBody (h : PktHdr) (ws : List Word) : Instr × Bool :=
  let w := fun i => ws.getD i 0
  let conc := bit h.flags 0
  let nodrain := bit h.flags 1
  match h.op with
  | 0x01 => (.launch conc h.tag (dw ws 2) (w 4) (half (w 5) 0) (half (w 5) 1) (dw ws 6) (half (w 8) 0) (w 9) (dw ws 10),
      half (w 8) 1 == 0)
  | 0x02 => (.node conc h.tag (w 2) (dw ws 4), wz ws [3, 6, 7])
  | 0x03 => (.depend (bit h.flags 4) h.tag (w 2) (w 3) (half (w 4) 0) (half (w 4) 1) (half (w 5) 0) (half (w 5) 1) (w 6) (w 7), true)
  | 0x04 => (.graphBegin conc h.tag, wz ws [2, 3])
  | 0x05 => (.graphEnd h.tag, wz ws [2, 3])
  | 0x06 => (.phase (bit h.flags 6) h.tag, wz ws [2, 3])
  | 0x07 => (.wait nodrain h.tag (byteAt (w 2) 0) (byteAt (w 2) 1) (byteAt (w 2) 2) (byteAt (w 2) 3) (dw ws 4) (dw ws 6), wz ws [3])
  | 0x08 => (.signal nodrain (bit h.flags 3) h.tag (byteAt (w 2) 0) (half (w 2) 1) (dw ws 4) (dw ws 6),
      wz ws [3] && byteAt (w 2) 1 == 0)
  | 0x09 => (.loop nodrain (bit h.flags 2) h.tag (w 2) (dw ws 4),
      wz ws [3, 6, 7] && (if bit h.flags 2 then w 2 == 0 else dw ws 4 == 0))
  | 0x0A => (.loopEnd h.tag, wz ws [2, 3])
  | 0x0B => (.ifPkt nodrain h.tag (byteAt (w 2) 0) (byteAt (w 2) 1) (dw ws 4) (dw ws 6), wz ws [3] && half (w 2) 1 == 0)
  | 0x0C => (.elsePkt h.tag, wz ws [2, 3])
  | 0x0D => (.endIf h.tag, wz ws [2, 3])
  | 0x0E => (.launchIndirect conc nodrain h.tag (dw ws 2) (dw ws 4) (dw ws 6) (half (w 8) 0) (w 9) (dw ws 10), half (w 8) 1 == 0)
  | 0x0F => (.copy conc h.tag (dw ws 2) (byteAt (w 4) 0) (w 5) (dw ws 6), (w 4).extractLsb' 8 24 == 0)
  | 0x10 => (.cancel h.tag (byteAt (w 2) 0) (byteAt (w 2) 1) (w 3), half (w 2) 1 == 0 && wz ws [4, 5, 6, 7])
  | 0x11 => (.killContext (bit h.flags 5) h.tag (half (w 2) 0) (dw ws 4), half (w 2) 1 == 0 && wz ws [3, 6, 7])
  | 0x12 => (.reclaimFence h.tag (half (w 2) 0), half (w 2) 1 == 0 && wz ws [3])
  | 0x13 => (.scopeTable nodrain h.tag (byteAt (w 2) 0) (half (w 2) 1)
      (w 11 ++ w 10 ++ w 9 ++ w 8 ++ w 7 ++ w 6 ++ w 5 ++ w 4), byteAt (w 2) 1 == 0 && wz ws [3])
  | 0x14 =>
    let ok := byteAt (w 2) 3 == 0 && half (w 3) 1 == 0 && (w 8).extractLsb' 8 24 == 0 && wz ws [9, 10, 11]
    if byteAt (w 2) 0 == 0 then
      (.channelAllocate h.tag (byteAt (w 2) 1 == 1) (byteAt (w 2) 2) (half (w 3) 0) (dw ws 4) (dw ws 6) (byteAt (w 8) 0),
        ok && (byteAt (w 2) 1).toNat ≤ 1)
    else
      (.channelFree h.tag (byteAt (w 2) 1) (byteAt (w 2) 2) (half (w 3) 0) (dw ws 4) (dw ws 6) (byteAt (w 8) 0),
        ok && byteAt (w 2) 0 == 1)
  | 0x15 => (.timeslice h.tag (w 2) (byteAt (w 3) 0) (byteAt (w 3) 1), half (w 3) 1 == 0)
  | 0x16 => (.priority h.tag (byteAt (w 2) 0), (w 2).extractLsb' 8 24 == 0 && wz ws [3])
  | _ => (.nopPacket (BitVec.ofNat 16 h.units) h.tag, true)

/-- A packet from its words, the header first; `ws` holds every word of the packet (R46, R47, R48). -/
def decodePacket (ws : List Word) : PacketRead :=
  let h := PktHdr.ofWords (ws.getD 0 0) (ws.getD 1 0)
  if h.op == 0 || h.op > 0x17 then .badOpcode
  else if (h.flags &&& ~~~ flagMask h.op) != 0 then .malformed
  else if (match packetUnits h.op with
      | some n => h.units != n
      | none => h.units == 0) then .malformed
  else
    let (i, ok) := packetBody h ws
    if ok && i.wf then .ok i h.units else .malformed

/-! ### The encoder -/

/-- A first word from its fields (R75, R76). -/
def w0 (u x : Bool) (major : BitVec 7) (d a b : BitVec 7) (f : BitVec 2) : Word :=
  BitVec.ofBool u ++ BitVec.ofBool x ++ major ++ d ++ a ++ b ++ f

/-- A second word from its fields (R77). -/
def w1 (gd : Guard) (c : BitVec 7) (sc : BitVec 5) (lo : BitVec 16) : Word :=
  gd.g ++ BitVec.ofBool gd.n ++ c ++ sc ++ lo

/-- Formats A, B and C: one word. -/
def encA (u : Bool) (major d a b : BitVec 7) (f : BitVec 2) : List Word := [w0 u false major d a b f]
def encB (u : Bool) (major d a : BitVec 7) (imm : BitVec 9) : List Word :=
  [w0 u false major d a (imm.extractLsb' 2 7) (imm.extractLsb' 0 2)]
def encC (u : Bool) (major d : BitVec 7) (imm : BitVec 16) : List Word :=
  [w0 u false major d (imm.extractLsb' 9 7) (imm.extractLsb' 2 7) (imm.extractLsb' 0 2)]
def encD (major : BitVec 7) (gd : Guard) (disp : BitVec 19) : List Word :=
  [BitVec.ofBool false ++ BitVec.ofBool false ++ major ++ gd.g ++ BitVec.ofBool gd.n ++ disp]
/-- Format E: two words. -/
def encE (u : Bool) (major d a b : BitVec 7) (f : BitVec 2) (gd : Guard) (c : BitVec 7) (sc : BitVec 5)
    (lo : BitVec 16) : List Word := [w0 u true major d a b f, w1 gd c sc lo]

def p7 (p : BitVec 3) : BitVec 7 := (0 : BitVec 4) ++ p
def k7 (k : BitVec 4) : BitVec 7 := (0 : BitVec 3) ++ k
def t7 (t : BitVec 2) : BitVec 7 := (0 : BitVec 5) ++ t
def b1 (b : Bool) : BitVec 1 := BitVec.ofBool b
def f2 (hi lo : Bool) : BitVec 2 := b1 hi ++ b1 lo

def Rm.f (r : Rm) : BitVec 2 := BitVec.ofNat 2 r.code
def Rm.c3 (r : Rm) : BitVec 3 := BitVec.ofNat 3 r.code
def Ty.c5 (t : Ty) : BitVec 5 := BitVec.ofNat 5 t.code
def LaneOp.c4 (o : LaneOp) : BitVec 4 := BitVec.ofNat 4 o.code
def Order.c2 (o : Order) : BitVec 2 := BitVec.ofNat 2 o.code
def Size.c3 (z : Size) : BitVec 3 := BitVec.ofNat 3 z.code

def BfSrc.b : BfSrc → BitVec 7
  | .reg b => b
  | .imm _ _ => 0
/-- Word 1 [11:1] of BFE and BFI (R311). -/
def BfSrc.lo : BfSrc → BitVec 11
  | .reg _ => 0
  | .imm pos len1 => len1 ++ pos ++ (1 : BitVec 1)

def SgSrc.b : SgSrc → BitVec 7
  | .imm _ => 0
  | .reg b => b
/-- Word 1 [7:2] of SGAT (R395). -/
def SgSrc.lo : SgSrc → BitVec 6
  | .imm k => (0 : BitVec 1) ++ k
  | .reg _ => (1 : BitVec 1) ++ (0 : BitVec 5)

def VoteDst.d : VoteDst → BitVec 7
  | .mask d => d
  | .every d | .some d | .same d => p7 d
def VoteDst.kind : VoteDst → BitVec 2
  | .mask _ => 0 | .every _ => 1 | .some _ => 2 | .same _ => 3

def FeKind.d : FeKind → BitVec 7
  | .test d => p7 d
  | _ => 0
def FeKind.code : FeKind → BitVec 2
  | .set => 0 | .clr => 1 | .test _ => 2

def encMma (major : BitVec 7) (t : BitVec 2) (f : BitVec 2) (gd : Guard) (o : MmaOps) : List Word :=
  encE false major (t7 t) o.a o.b f gd o.c 0
    ((0 : BitVec 3) ++ o.sl ++ b1 o.sp ++ o.selB ++ o.selA ++ b1 o.bs ++ b1 o.as ++ o.k)

def Instr.isInstr : Instr → Bool
  | .nop | .exit | .bra .. | .call .. | .ret | .jmpi .. | .yield | .trap .. | .bkpt .. | .tret
  | .iadd .. | .isub .. | .imul .. | .imulh .. | .imin .. | .imax .. | .iabs .. | .iaddi .. | .iadd64 .. | .isub64 ..
  | .iaddc .. | .imad .. | .and .. | .or .. | .xor .. | .logt .. | .shl .. | .shr .. | .shi .. | .fshf .. | .bfe .. | .bfi ..
  | .popc .. | .clz .. | .brev .. | .mov .. | .movi .. | .movh .. | .sel .. | .srd .. | .swr .. | .icmp .. | .fcmp ..
  | .plgt .. | .ptov .. | .vtop .. | .fadd .. | .fmul .. | .ffma .. | .fmin .. | .fmax .. | .frnd .. | .fdiv .. | .frcp ..
  | .frsq .. | .fsqt .. | .fex2 .. | .flg2 .. | .fsin .. | .fcos .. | .ftnh .. | .hpadd .. | .hpmul .. | .hpfma .. | .hpmnx ..
  | .dadd .. | .dmul .. | .dfma .. | .dmnx .. | .cvt .. | .pack .. | .unpk .. | .scex .. | .idot .. | .fdot .. | .sgat ..
  | .vote .. | .lred .. | .lpfx .. | .lmch .. | .ld .. | .st .. | .atom .. | .red .. | .lds .. | .ldsx .. | .sts .. | .stsx ..
  | .fence .. | .pft .. | .clin .. | .feop .. | .deps .. | .depa .. | .depr .. | .mmaF4 .. | .mmaF8 .. | .mmaI8 .. | .mmaI4 ..
  | .mmaBf .. | .mmaH .. | .ksgn .. | .tld .. | .tst .. | .bxi .. | .bxw .. | .qcfg .. | .qarv .. | .qwt .. | .barSync ..
  | .barArv .. | .barWait .. | .kcfg .. | .acal .. | .acfr .. | .aczr .. | .acld .. | .acdr .. | .mwt .. | .ckpt | .chnr .. => true
  | _ => false

/-- The words of an instruction (R83 to R94) or of a packet (R48); events have none. -/
def encode : Instr → List Word
  | .nop => encA false 0x00 0 0 0 0
  | .exit => encA false 0x01 0 0 0 0
  | .bra gd disp => encD 0x02 gd disp
  | .call disp => encD 0x03 { g := 7, n := false } disp
  | .ret => encA false 0x04 0 0 0 0
  | .jmpi a => encA false 0x05 0 a 0 0
  | .yield => encA false 0x06 0 0 0 0
  | .trap c => encB false 0x07 0 0 c
  | .bkpt c => encB false 0x08 0 0 c
  | .tret => encA false 0x09 0 0 0 0
  | .iadd u d a b f => encA u 0x10 d a b f.code
  | .isub u d a b f => encA u 0x11 d a b f.code
  | .imul u d a b f => encA u 0x12 d a b f.code
  | .imulh d a b uns => encA false 0x13 d a b (f2 false uns)
  | .imin u d a b uns => encA u 0x14 d a b (f2 false uns)
  | .imax u d a b uns => encA u 0x15 d a b (f2 false uns)
  | .iabs d a sat => encA false 0x16 d a 0 (f2 sat false)
  | .iaddi u d a imm => encB u 0x17 d a imm
  | .iadd64 u d a b f => encA u 0x18 d a b f.code
  | .isub64 u d a b f => encA u 0x19 d a b f.code
  | .iaddc gd d a b ci co => encE false 0x1A d a b 0 gd 0 0 ((0 : BitVec 10) ++ co ++ ci)
  | .imad gd d a b c f wide => encE false 0x1B d a b f.code gd c 0 ((0 : BitVec 15) ++ b1 wide)
  | .and u d a b => encA u 0x20 d a b 0
  | .or u d a b => encA u 0x21 d a b 0
  | .xor u d a b => encA u 0x22 d a b 0
  | .logt u gd d a b c tt => encE u 0x23 d a b 0 gd c 0 ((0 : BitVec 8) ++ tt)
  | .shl u d a b clamp => encA u 0x24 d a b (f2 clamp false)
  | .shr u d a b arith clamp => encA u 0x25 d a b (f2 clamp arith)
  | .shi u d a right arith n => encB u 0x26 d a ((0 : BitVec 2) ++ b1 arith ++ b1 right ++ n)
  | .fshf gd d a b c right clamp => encE false 0x27 d a b 0 gd c 0 ((0 : BitVec 14) ++ b1 clamp ++ b1 right)
  | .bfe u gd d a src sx => encE u 0x28 d a src.b 0 gd 0 0 ((0 : BitVec 4) ++ src.lo ++ b1 sx)
  | .bfi u gd d a c src => encE u 0x29 d a src.b 0 gd c 0 ((0 : BitVec 4) ++ src.lo ++ b1 false)
  | .popc d a => encA false 0x2A d a 0 0
  | .clz d a => encA false 0x2B d a 0 0
  | .brev d a => encA false 0x2C d a 0 0
  | .mov u d a pair => encA u 0x30 d a 0 (f2 false pair)
  | .movi u d imm => encC u 0x31 d imm
  | .movh u d imm => encC u 0x32 d imm
  | .sel u gd d a b pair s neg => encE u 0x33 d a b (f2 false pair) gd 0 0 ((0 : BitVec 12) ++ b1 neg ++ s)
  | .srd u d id => encB u 0x34 d 0 id
  | .swr u a id => encB u 0x35 0 a id
  | .icmp u gd d a b cond uns w64 pc op => encE u 0x36 (p7 d) a b 0 gd 0 0
      ((0 : BitVec 6) ++ BitVec.ofNat 2 op.code ++ pc ++ b1 w64 ++ b1 uns ++ BitVec.ofNat 3 cond.code)
  | .fcmp gd d a b cond pc op f64 => encE false 0x37 (p7 d) a b 0 gd 0 0
      ((0 : BitVec 6) ++ b1 f64 ++ BitVec.ofNat 2 op.code ++ pc ++ BitVec.ofNat 4 cond.code)
  | .plgt gd d a b c tt => encE false 0x38 (p7 d) (p7 a) (p7 b) 0 gd (p7 c) 0 ((0 : BitVec 8) ++ tt)
  | .ptov d a mask => encA false 0x39 d (p7 a) 0 (f2 false mask)
  | .vtop d a mask => encA false 0x3A (p7 d) a 0 (f2 false mask)
  | .fadd d a b r => encA false 0x40 d a b r.f
  | .fmul d a b r => encA false 0x41 d a b r.f
  | .ffma gd d a b c r => encE false 0x42 d a b r.f gd c 0 0
  | .fmin d a b => encA false 0x43 d a b 0
  | .fmax d a b => encA false 0x44 d a b 0
  | .frnd d a r => encA false 0x45 d a 0 r.f
  | .fdiv gd d a b r => encE false 0x46 d a b r.f gd 0 0 0
  | .frcp d a => encA false 0x48 d a 0 0
  | .frsq d a => encA false 0x49 d a 0 0
  | .fsqt d a r => encA false 0x4A d a 0 r.f
  | .fex2 d a => encA false 0x4B d a 0 0
  | .flg2 d a => encA false 0x4C d a 0 0
  | .fsin d a => encA false 0x4D d a 0 0
  | .fcos d a => encA false 0x4E d a 0 0
  | .ftnh d a => encA false 0x4F d a 0 0
  | .hpadd d a b r => encA false 0x50 d a b r.f
  | .hpmul d a b r => encA false 0x51 d a b r.f
  | .hpfma gd d a b c r bf => encE false 0x52 d a b r.f gd c 0 ((0 : BitVec 15) ++ b1 bf)
  | .hpmnx d a b max bf => encA false 0x53 d a b (f2 bf max)
  | .dadd d a b r => encA false 0x54 d a b r.f
  | .dmul d a b r => encA false 0x55 d a b r.f
  | .dfma gd d a b c r => encE false 0x56 d a b r.f gd c 0 0
  | .dmnx d a b max => encA false 0x57 d a b (f2 false max)
  | .cvt gd d a dt sty r nosat => encE false 0x58 d a 0 0 gd 0 0
      ((0 : BitVec 2) ++ b1 nosat ++ r.c3 ++ sty.c5 ++ dt.c5)
  | .pack gd d a b c dt sty r nosat j => encE false 0x59 d a b 0 gd c 0 (j ++ b1 nosat ++ r.c3 ++ sty.c5 ++ dt.c5)
  | .unpk gd d a k sty dt => encE false 0x5A d a 0 0 gd 0 0 ((0 : BitVec 3) ++ dt.c5 ++ sty.c5 ++ k)
  | .scex gd d a et => encE false 0x5B d a 0 0 gd 0 0 ((0 : BitVec 11) ++ et.c5)
  | .idot gd d a b c i4 au bu sat => encE false 0x5C d a b 0 gd c 0
      ((0 : BitVec 12) ++ b1 sat ++ b1 bu ++ b1 au ++ b1 i4)
  | .fdot gd d a b c s fmt ja jb r => encE false 0x5D d a b r.f gd c 0
      ((0 : BitVec 3) ++ s ++ jb ++ ja ++ BitVec.ofNat 2 fmt.code)
  | .sgat gd d a mode src seg => encE false 0x60 d a src.b 0 gd 0 0
      ((0 : BitVec 5) ++ seg ++ src.lo ++ BitVec.ofNat 2 mode.code)
  | .vote gd dst a => encE false 0x61 dst.d (p7 a) 0 0 gd 0 0 ((0 : BitVec 14) ++ dst.kind)
  | .lred gd d a op => encE false 0x62 d a 0 0 gd 0 0 ((0 : BitVec 12) ++ op.c4)
  | .lpfx gd d a op incl => encE false 0x63 d a 0 0 gd 0 0 ((0 : BitVec 11) ++ b1 incl ++ op.c4)
  | .lmch d a w64 => encA false 0x64 d a 0 (f2 false w64)
  | .ld u gd d a size sx acq sc off => encE u 0x68 d a 0 0 gd 0 sc (off ++ b1 false ++ b1 acq ++ b1 sx ++ size.c3)
  | .st gd a b size rel sc off => encE false 0x69 0 a b 0 gd 0 sc (off ++ b1 rel ++ b1 false ++ b1 false ++ size.c3)
  | .atom gd d a b c op w64 ord sc off => encE false 0x6A d a b 0 gd c sc (off ++ ord.c2 ++ b1 w64 ++ op.c4)
  | .red gd a b op w64 ord sc off => encE false 0x6B 0 a b 0 gd 0 sc (off ++ ord.c2 ++ b1 w64 ++ op.c4)
  | .lds gd d a size sx fe clr off => encE false 0x6C d a 0 0 gd 0 0 (off ++ b1 clr ++ b1 fe ++ b1 sx ++ size.c3)
  | .sts gd a b size set off => encE false 0x6D 0 a b 0 gd 0 0 (off ++ b1 false ++ b1 set ++ b1 false ++ size.c3)
  | .ldsx gd d a c size sx fe clr off => encE false 0x6E d a 0 0 gd c 0 (off ++ b1 clr ++ b1 fe ++ b1 sx ++ size.c3)
  | .stsx gd a b c size set off => encE false 0x6F 0 a b 0 gd c 0 (off ++ b1 false ++ b1 set ++ b1 false ++ size.c3)
  | .fence u gd ord sc => encE u 0x70 0 0 0 0 gd 0 sc ((0 : BitVec 14) ++ ord.c2)
  | .pft gd a l2 off => encE false 0x71 0 a 0 0 gd 0 0 (off ++ (0 : BitVec 5) ++ b1 l2)
  | .clin gd a b op all sc => encE false 0x72 0 a b 0 gd 0 sc ((0 : BitVec 13) ++ b1 all ++ BitVec.ofNat 2 op.code)
  | .feop gd kind a b => encE false 0x73 kind.d a b 0 gd 0 0 ((0 : BitVec 14) ++ kind.code)
  | .deps gd a b c size => encE false 0x74 0 a b 0 gd c 0 ((0 : BitVec 13) ++ size.c3)
  | .depa gd a b c kind => encE false 0x75 0 a b 0 gd c 0 ((0 : BitVec 14) ++ BitVec.ofNat 2 kind.code)
  | .depr gd a b c => encE false 0x76 0 a b 0 gd c 0 0
  | .mmaF4 gd t o => encMma 0x78 t 0 gd o
  | .mmaF8 gd t ae be o => encMma 0x79 t (f2 be ae) gd o
  | .mmaI8 gd t au bu o => encMma 0x7A t (f2 bu au) gd o
  | .mmaI4 gd t au bu o => encMma 0x7B t (f2 bu au) gd o
  | .mmaBf gd t o => encMma 0x7C t 0 gd o
  | .mmaH gd t o => encMma 0x7D t 0 gd o
  | .ksgn gd k => encE false 0x7E 0 0 0 0 gd 0 0 ((0 : BitVec 12) ++ k)
  | .tld gd a b c q arv => encE true 0x40 0 a b 0 gd c 0 ((0 : BitVec 11) ++ b1 arv ++ q)
  | .tst gd d a b c q arv flag => encE true 0x41 d a b 0 gd c 0 ((0 : BitVec 10) ++ b1 flag ++ b1 arv ++ q)
  | .bxi gd a => encE true 0x44 0 a 0 0 gd 0 0 0
  | .bxw gd a b => encE true 0x45 0 a b 0 gd 0 0 0
  | .qcfg q n => encB true 0x48 (k7 q) 0 n
  | .qarv gd a q cons => encE true 0x49 0 a 0 0 gd 0 0 ((0 : BitVec 11) ++ b1 cons ++ q)
  | .qwt gd a q cons e => encE true 0x4A 0 a 0 0 gd 0 0 ((0 : BitVec 10) ++ b1 e ++ b1 cons ++ q)
  | .barSync gd d a n lvl => encE true 0x50 d a 0 0 gd 0 0 ((0 : BitVec 8) ++ (0 : BitVec 2) ++ BitVec.ofNat 2 lvl.code ++ n)
  | .barArv gd d a n lvl => encE true 0x50 d a 0 0 gd 0 0 ((0 : BitVec 8) ++ (1 : BitVec 2) ++ BitVec.ofNat 2 lvl.code ++ n)
  | .barWait gd b n lvl => encE true 0x50 0 0 b 0 gd 0 0 ((0 : BitVec 8) ++ (2 : BitVec 2) ++ BitVec.ofNat 2 lvl.code ++ n)
  | .kcfg k a => encA true 0x54 (k7 k) a 0 0
  | .acal m => encB true 0x58 0 0 ((0 : BitVec 5) ++ m)
  | .acfr m => encB true 0x59 0 0 ((0 : BitVec 5) ++ m)
  | .aczr t => encA true 0x5A (t7 t) 0 0 0
  | .acld gd t a sty => encE true 0x5B (t7 t) a 0 0 gd 0 0 ((0 : BitVec 11) ++ sty.c5)
  | .acdr gd t a b ot r nosat => encE true 0x5C (t7 t) a b 0 gd 0 0 ((0 : BitVec 7) ++ b1 nosat ++ r.c3 ++ ot.c5)
  | .mwt t => encA true 0x5D (t7 t) 0 0 0
  | .ckpt => encA true 0x60 0 0 0 0
  | .chnr d a kind => encA true 0x61 d a 0 (BitVec.ofNat 2 kind.code)
  | .illegalInstruction a b => a :: b.toList
  | i => encodePacket i
where
  /-- Header word 0 of a packet (R47). -/
  hdr (op : Byte) (flags : BitVec 8) (units : BitVec 16) : Word := units ++ flags ++ op
  lo (x : DWord) : Word := x.extractLsb' 0 32
  hi (x : DWord) : Word := x.extractLsb' 32 32
  fl (job preserve tile msix mem nodrain conc : Bool) : BitVec 8 :=
    b1 false ++ b1 job ++ b1 preserve ++ b1 tile ++ b1 msix ++ b1 mem ++ b1 nodrain ++ b1 conc
  bytes4 (b3 b2 bb b0 : Byte) : Word := b3 ++ b2 ++ bb ++ b0
  encodePacket : Instr → List Word
    | .launch conc tag desc nx ny nz argp argn label report =>
      [hdr 0x01 (fl false false false false false false conc) 3, tag, lo desc, hi desc, nx, nz ++ ny, lo argp, hi argp,
        (0 : BitVec 16) ++ argn, label, lo report, hi report]
    | .node conc tag label report =>
      [hdr 0x02 (fl false false false false false false conc) 2, tag, label, 0, lo report, hi report, 0, 0]
    | .depend tile tag producer consumer ax ay wx wy bx by_ =>
      [hdr 0x03 (fl false false tile false false false false) 2, tag, producer, consumer, ay ++ ax, wy ++ wx, bx, by_]
    | .graphBegin conc tag => [hdr 0x04 (fl false false false false false false conc) 1, tag, 0, 0]
    | .graphEnd tag => [hdr 0x05 0 1, tag, 0, 0]
    | .phase job tag => [hdr 0x06 (fl job false false false false false false) 1, tag, 0, 0]
    | .wait nodrain tag kind cond counter queue addr value =>
      [hdr 0x07 (fl false false false false false nodrain false) 2, tag, bytes4 queue counter cond kind, 0,
        lo addr, hi addr, lo value, hi value]
    | .signal nodrain msix tag op vector addr value =>
      [hdr 0x08 (fl false false false msix false nodrain false) 2, tag, vector ++ (0 : Byte) ++ op, 0,
        lo addr, hi addr, lo value, hi value]
    | .loop nodrain mem tag count addr =>
      [hdr 0x09 (fl false false false false mem nodrain false) 2, tag, count, 0, lo addr, hi addr, 0, 0]
    | .loopEnd tag => [hdr 0x0A 0 1, tag, 0, 0]
    | .ifPkt nodrain tag cond width addr value =>
      [hdr 0x0B (fl false false false false false nodrain false) 2, tag, bytes4 0 0 width cond, 0,
        lo addr, hi addr, lo value, hi value]
    | .elsePkt tag => [hdr 0x0C 0 1, tag, 0, 0]
    | .endIf tag => [hdr 0x0D 0 1, tag, 0, 0]
    | .launchIndirect conc nodrain tag desc grid argp argn label report =>
      [hdr 0x0E (fl false false false false false nodrain conc) 3, tag, lo desc, hi desc, lo grid, hi grid, lo argp, hi argp,
        (0 : BitVec 16) ++ argn, label, lo report, hi report]
    | .copy conc tag ccb die label report =>
      [hdr 0x0F (fl false false false false false false conc) 2, tag, lo ccb, hi ccb, (0 : BitVec 24) ++ die, label,
        lo report, hi report]
    | .cancel tag level queue label => [hdr 0x10 0 2, tag, bytes4 0 0 queue level, label, 0, 0, 0, 0]
    | .killContext preserve tag asid report =>
      [hdr 0x11 (fl false preserve false false false false false) 2, tag, (0 : BitVec 16) ++ asid, 0, lo report, hi report, 0, 0]
    | .reclaimFence tag asid => [hdr 0x12 0 1, tag, (0 : BitVec 16) ++ asid, 0]
    | .scopeTable nodrain tag id pkgs cores =>
      [hdr 0x13 (fl false false false false false nodrain false) 3, tag, pkgs ++ (0 : Byte) ++ id, 0,
        cores.extractLsb' 0 32, cores.extractLsb' 32 32, cores.extractLsb' 64 32, cores.extractLsb' 96 32,
        cores.extractLsb' 128 32, cores.extractLsb' 160 32, cores.extractLsb' 192 32, cores.extractLsb' 224 32]
    | .channelAllocate tag journaled peer ch result journal jsize =>
      [hdr 0x14 0 3, tag, bytes4 0 peer (if journaled then 1 else 0) 0, (0 : BitVec 16) ++ ch, lo result, hi result,
        lo journal, hi journal, (0 : BitVec 24) ++ jsize, 0, 0, 0]
    | .channelFree tag mode peer ch result journal jsize =>
      [hdr 0x14 0 3, tag, bytes4 0 peer mode 1, (0 : BitVec 16) ++ ch, lo result, hi result,
        lo journal, hi journal, (0 : BitVec 24) ++ jsize, 0, 0, 0]
    | .timeslice tag weight d t => [hdr 0x15 0 1, tag, weight, bytes4 0 0 t d]
    | .priority tag p => [hdr 0x16 0 1, tag, bytes4 0 0 0 p, 0]
    | .nopPacket units tag => hdr 0x17 0 units :: tag :: List.replicate (4 * units.toNat - 2) 0
    | _ => []

end Sys2Proof
end

