-- ==== Sys2Proof/Machine/Tab.lean ====
section
/-! DEFINITION. Machine/Tab.lean: sparse tables, lists of pairs in which the first entry for a key counts.
Every table of the device that the spec indexes by number, name or address is held so. -/

namespace Sys2Proof.Machine

/-- A sparse table. -/
abbrev Tab (κ α : Type) := List (κ × α)

def tget {κ α : Type} [DecidableEq κ] : Tab κ α → κ → Option α
  | [], _ => none
  | (k', v) :: t, k => if k' = k then some v else tget t k

def tgetD {κ α : Type} [DecidableEq κ] (t : Tab κ α) (k : κ) (d : α) : α := (tget t k).getD d

/-- Replaces the entry of k, or adds one at the end. -/
def tset {κ α : Type} [DecidableEq κ] : Tab κ α → κ → α → Tab κ α
  | [], k, v => [(k, v)]
  | (k', v') :: t, k, v => if k' = k then (k, v) :: t else (k', v') :: tset t k v

def tdel {κ α : Type} [DecidableEq κ] : Tab κ α → κ → Tab κ α
  | [], _ => []
  | (k', v') :: t, k => if k' = k then tdel t k else (k', v') :: tdel t k

def thas {κ α : Type} [DecidableEq κ] (t : Tab κ α) (k : κ) : Bool := (tget t k).isSome

/-- Applies f to the entry of k, where there is one. -/
def tmod {κ α : Type} [DecidableEq κ] (t : Tab κ α) (k : κ) (f : α → α) : Tab κ α :=
  match tget t k with
  | some v => tset t k (f v)
  | none => t

/-- Applies f to the entry of k, or to the default where there is none. -/
def tmodD {κ α : Type} [DecidableEq κ] (t : Tab κ α) (k : κ) (d : α) (f : α → α) : Tab κ α :=
  tset t k (f (tgetD t k d))

/-- Adds a number to a list of distinct numbers. -/
def addOnce {α : Type} [DecidableEq α] (l : List α) (x : α) : List α := if x ∈ l then l else l ++ [x]

/-- A counter that saturates at 0xFFFF_FFFF (R187, R214, R230, R237, R270). -/
def satInc (n : Nat) : Nat := if n < 0xFFFFFFFF then n + 1 else n

/-- The first k for which p holds, counting from lo, at most n of them. -/
def firstFrom (p : Nat → Bool) : Nat → Nat → Option Nat
  | _, 0 => none
  | lo, n + 1 => if p lo then some lo else firstFrom p (lo + 1) n

end Sys2Proof.Machine
end

