-- ==== Sys2Proof/Machine/State.lean ====
section
/-! DEFINITION. Machine/State.lean: everything the spec gives the machine, as plain data: a pod of packages
(spec/01 to spec/14), its memory, the messages of its fabric, and the agenda that says which agent moves next. -/

namespace Sys2Proof.Machine

/-- Faults of the model itself. Every trap, page fault and error of the device is a NEXT state. -/
inductive Fault where
  /-- Raised by `step` alone, when the head of the agenda names a package, group or queue that the pod does not
  have. Safe: the agenda is the model's own, and no such turn stands for anything the hardware does. -/
  | noAgent
deriving DecidableEq, Repr

/-- Refusals. -/
inductive Refusal where
  /-- Raised by an arm of `exec` whose instruction has no meaning yet. Safe. -/
  | notModelled (mnemonic : String)
deriving DecidableEq, Repr

/-! ### Groups and their lanes (R24, R30, R69 to R73) -/

/-- What a register that nothing has written holds: the undefined launch value (R69; log 2), or a known word. -/
inductive RegFill where
  | free (uid : Nat)
  | word (w : Word)
deriving DecidableEq, Repr

/-- One thread (R24, R30): its PC, whether it is live, its registers, predicates p0 to p6 and s.fflags. -/
structure Lane where
  pc : Addr
  live : Bool
  fill : RegFill
  v : Tab Nat Word
  p : BitVec 7
  ff : BitVec 5
deriving DecidableEq, Repr

/-- The lane read for a lane number above 31: exited, all registers 0. -/
def Lane.dead : Lane := { pc := 0, live := false, fill := .word 0, v := [], p := 0, ff := 0 }

/-- The fairness state (R32, R35). -/
structure Fair where
  len : Nat
  cnt : Nat
  slice : Bool
  set : Mask
  n : Nat
deriving DecidableEq, Repr

/-- The group's device trap handler (R242, R244). -/
structure Handler where
  lanes : Mask
  returned : Mask
  cause : BitVec 8
  lane : BitVec 5
  code : BitVec 9
  tpc : DWord
  taddr : DWord
deriving DecidableEq, Repr

/-- Waits that hold an issued instruction at its address (R33): the blocking waits and the stalls. -/
inductive WaitKind where
  | fe | qwt | mwt | bxw | bar | ckpt | clin | chan | table
  | acal | acfr | ksgn | fence | chnr | resign | engineFull | streamerFull | bteFull
  | quota | trapWords | fetch | pending
deriving DecidableEq, Repr

/-- One wait of a group: the lanes that stand at addr, since when (arithmetic clock), from when fairness counts its
holding (none while it is left unissued, R33), and the progress of the instruction (a barrier phase, granules, a marker, an address). -/
structure Hold where
  kind : WaitKind
  addr : Addr
  lanes : Mask
  since : Nat
  counted : Option Nat
  /-- From when its hang watchdog counts, pauses left out, and whether it has written its record (R281). -/
  wdog : Nat
  hung : Bool
  data : List Nat
deriving DecidableEq, Repr

/-- A trap to be taken at the group's next issue (R39, R133, R239): its lanes, cause, PC and address. (log 75, DEDUCED) -/
structure Deferred where
  lanes : Mask
  cause : BitVec 8
  tpc : Addr
  taddr : DWord
  lane : Nat
  /-- The group takes it once, with whatever lanes it selects; otherwise each of its lanes takes it at its own next issue (R39, R133). -/
  whole : Bool
deriving DecidableEq, Repr

/-- A register that waits for data (R162): its lanes, the producer's PC and the access that will write it. -/
structure Pending where
  reg : Nat
  lanes : Mask
  pc : Addr
  acc : Nat
deriving DecidableEq, Repr

/-- A debugger's step in progress (R279): one thread or the group. -/
inductive Step where
  | thread (lane : Nat)
  | group
deriving DecidableEq, Repr

structure Group where
  blk : Nat
  gidx : Nat
  core : Nat
  slot : Nat
  lanes : List Lane
  fair : Fair
  handler : Option Handler
  holds : List Hold
  pend : List Pending
  deferred : List Deferred
  halted : Bool
  haltedAt : Nat
  skipBp : Bool
  step : Option Step
  retries : Nat
  /-- The turn since which it is ready: its last issue, its last wait that was found to hold, or its start (R40). (log 6, DEDUCED) -/
  readySince : Nat
  window : Nat
deriving DecidableEq, Repr

/-! ### Blocks and clusters (R24, R39, R43, R66, R134, R147, R309, R385) -/

/-- A signature on a convergence register (R39, R130, R131): the words that signed, the pointers, and the
signer's captured register operands by lane. -/
structure Sig where
  gid : Nat
  lane : Nat
  pc : Addr
  words : Word × Option Word
  ptrs : List DWord
  regs : Tab Nat Word
deriving DecidableEq, Repr

structure KReg where
  set : Mask
  sigs : List Sig
  /-- ACFR has freed the tile of the MMA that these signatures await (R374). -/
  freed : Bool := false
deriving DecidableEq, Repr

/-- One slot of a stage ring (R385). -/
structure RingSlot where
  full : Bool
  ph : Bool
  arr : Nat
  tgt : Nat
deriving DecidableEq, Repr

structure Ring where
  slots : List RingSlot
  inflight : Nat
deriving DecidableEq, Repr

/-- A barrier (R309): its phase, its members and the groups that have arrived. -/
structure Bar where
  ph : Word
  mem : List Nat
  arr : List Nat
deriving DecidableEq, Repr

/-- A tile of 128 x 128 FA64 elements; an element not listed is +0 (R134). -/
abbrev Tile := Tab Nat DWord

/-- An accumulator-engine operation (R131, R135): MMA, ACZR, ACLD, ACDR or the marker of a KSGN. -/
inductive EngKind where
  | mma (words : Word × Option Word) (sigs : List Sig)
  | aczr
  | acld (ptr : DWord) (sty : Ty)
  | acdr (ptr : DWord) (scale : Option Word) (ot : Ty) (rm : Rm) (nosat : Bool)
  | marker (sigs : List Sig)
deriving DecidableEq, Repr

structure EngOp where
  blk : Nat
  tile : Nat
  gid : Nat
  lane : Nat
  pc : Addr
  kind : EngKind
  k : Nat
  mismatches : Nat
  started : Nat
  id : Nat
deriving DecidableEq, Repr

/-- A tile-streamer operation (R403, R404): the leader's pairs (global pointer, tile pointer, geometry), the ring of
.arv, the pointer of .flag, and the scratchpad granules still to do. -/
structure StreamOp where
  id : Nat
  store : Bool
  gid : Nat
  lane : Nat
  pc : Addr
  gptr : DWord
  sptr : DWord
  geo : DWord
  ring : Option Nat
  flag : Option DWord
  todo : List Nat
deriving DecidableEq, Repr

/-- The states of a block (R66); a block ready in the Lehr and never placed has no entry. -/
inductive BlkState where
  | queued | resident | draining | saving | saved | parked | done
deriving DecidableEq, Repr

structure Block where
  node : Nat
  lid : Nat
  idx : Nat
  cluster : Nat
  rank : Nat
  core : Nat
  state : BlkState
  age : Nat
  r : Nat
  scratch : Tab Nat Byte
  full : List Nat
  kregs : Tab Nat KReg
  rings : Tab Nat Ring
  bars : Tab Nat Bar
  tiles : Tab Nat Tile
  /-- The core in which its bound tiles stand; none while they are in its save slot (R63, R138). -/
  tileCore : Option Nat
  swapped : Tab Nat Tile
  stream : List StreamOp
  held : List EngOp
  uid : Nat
deriving DecidableEq, Repr

/-! ### Accesses to memory (R13, R161, R188, R216, R217) -/

/-- One access of a lane, or one combined read-modify-write of several lanes (R203), to one sector. -/
inductive AccOp where
  /-- A load: destination registers, size, sign extension, every lane written (uniform). -/
  | load (dst : Nat) (half : Nat) (sx : Bool) (uni : Bool)
  /-- A store with its value. -/
  | store (val : DWord)
  /-- An atomic: op, 64 bits, the lanes' operands in ascending order, and where old values go. -/
  | atom (op : LaneOp) (w64 : Bool) (ops : Tab Nat (DWord × DWord)) (dst : Option Nat)
  /-- The bytes of a combining-buffer sector on their way to the L2, and whether they are written poisoned (R262). -/
  | flush (mask : BitVec 64) (data : SectorData) (psn : Bool)
  /-- An instruction fetch. -/
  | fetch
deriving DecidableEq, Repr

structure Acc where
  id : Nat
  gid : Nat
  lane : Nat
  pc : Addr
  words : Word × Option Word
  op : AccOp
  bytes : Nat
  /-- The full access address, as s.taddr reports it (R142). -/
  ptr : DWord
  /-- The virtual address in global terms (private accesses after R149). -/
  va : Nat
  priv : Bool
  acq : Bool
  rel : Bool
  scope : Nat
  /-- Its load is sampled, and it has been in the operand log (R283). -/
  sample : Bool
  replayed : Bool
deriving DecidableEq, Repr

/-- The page-fault kinds of FLTREC0 (R291). -/
inductive FltKind where
  | notPresent | writeProtected | malformed | noPlacement | privateGrowth
deriving DecidableEq, Repr

/-- An access in the outstanding-transaction table (R13, R217): it waits for tokens at its die, or for a reply. -/
structure Pend where
  acc : Acc
  core : Nat
  die : Nat
  key : SectorKey
  pa : Nat
  /-- Needs all 64 tokens. -/
  write : Bool
  /-- Uncached or far: the transaction number, when it was last sent, and how often. -/
  txn : Option Nat
  sent : Nat
  sends : Nat
  /-- A FENCE after it holds the group's later accesses until it is performed (R342), and the scope at which its completion
  acquires (0 for a release fence). -/
  fenced : Option Nat
deriving DecidableEq, Repr

/-- An operand-log entry (R161). -/
structure OLog where
  id : Nat
  asid : Nat
  gid : Nat
  core : Nat
  kind : FltKind
  page : Nat
  write : Bool
  accs : List Acc
  /-- Its page is still to be resolved; a resolved entry of a saved group waits for its restore (R163). -/
  waiting : Bool
deriving DecidableEq, Repr

/-! ### Versions and clusters (R249 to R257, R66) -/

/-- A logged reduction of a version (R252): the op, width, address and combined operand. -/
structure RedLog where
  op : LaneOp
  w64 : Bool
  va : Nat
  val : DWord
deriving DecidableEq, Repr

/-- A sector of a version (R250): which bytes the version holds, and them. -/
structure VSec where
  mask : BitVec 64
  data : SectorData
deriving DecidableEq, Repr

structure Version where
  secs : Tab SectorKey VSec
  log : List RedLog
deriving DecidableEq, Repr

/-- A checkpoint slot (R253): the groups, the blocks and the cluster's barriers, with the operand-log entries that a quota
checkpoint of a replaying access leaves standing (R255). -/
structure Ckpt where
  groups : Tab Nat Group
  blocks : Tab Nat Block
  bars : Tab Nat Bar
  olog : List OLog
deriving DecidableEq, Repr

structure Cluster where
  node : Nat
  index : Nat
  die : Nat
  blocks : List Nat
  relaunches : Nat
  discards : Nat
  bars : Tab Nat Bar
  ver : Option Version
  ckpt : Option Ckpt
  arrived : List Nat
  committing : Option Version
  endCommit : Bool
  /-- A discard that came while a commit ran follows it (R257), and whether it counts toward the limit of R247. -/
  discardAfter : Option Bool
  /-- When a draining unit was decided (R64), and the last parking test (R67), in arithmetic clocks. -/
  decided : Nat
  parkTest : Nat
  /-- Waits in the Lehr, ahead of unstarted blocks, to be placed again (R65, R68, R256). -/
  ready : Bool
deriving DecidableEq, Repr

/-- A die slice of a die-resident launch: its die barrier (R24, R309). -/
structure Slice where
  node : Nat
  die : Nat
  /-- The indices of its clusters in the launch: the first and how many (R61). -/
  first : Nat
  count : Nat
  /-- Its clusters, once it has been placed. -/
  clusters : List Nat
  bar : Bar
deriving DecidableEq, Repr

/-- A sector of the combining buffer (R152). -/
structure CbSec where
  key : SectorKey
  pa : Nat
  mask : BitVec 64
  data : SectorData
  poisoned : Bool
  /-- When it was last sent to the slice without being accepted, and the check code that its next sending carries (R216). -/
  sent : Option Nat
  check : Word
deriving DecidableEq, Repr

/-- An L1 sector (R152); `ver` is the cluster whose version filled it (R250). -/
structure L1Sec where
  data : SectorData
  ver : Option Nat
deriving DecidableEq, Repr

/-- A core's matrix engine (R131, R137). -/
structure Engine where
  run : Option EngOp
  queue : List EngOp
  stopped : Bool
deriving DecidableEq, Repr

structure Core where
  l1 : Tab SectorKey L1Sec
  /-- The scalar cache that uniform loads read through (R94, R362). -/
  scalar : Tab SectorKey L1Sec
  cb : List CbSec
  queue : List Nat
  lfsr : BitVec 16
  stealAt : Nat
  stealing : Bool
  eng : Engine
  retiredQuads : List Nat
  retired : Bool
  ccnt0 : Nat
  samples : Nat
  /-- When each quadrant was last sampled (R284). -/
  stalls : Tab Nat Nat
deriving DecidableEq, Repr

/-! ### Counted tokens (R167 to R187, R266) -/

/-- A sector at a die L2 (R169), with the frame it was filled from and whether writes are permitted (R154). -/
structure L2Sec where
  cnt : Nat
  own : Bool
  ser : BitVec 4
  dv : Bool
  dirty : Bool
  wr : Bool
  psn : Bool
  pa : Nat
  data : SectorData
deriving DecidableEq, Repr

/-- A request in progress at an L2 slice (R176). -/
structure Req where
  write : Bool
  step : Nat
  since : Nat
  num : Nat
  inc : Nat
  pa : Nat
  wr : Bool
  responders : List Nat
  scope : Nat
  /-- The activation that names this requester (R177). -/
  act : Option Nat
deriving DecidableEq, Repr

/-- A requester of a persistent request: a die L2, or the home itself (R177, R178). -/
inductive Requester where
  | die (pkg die slice : Nat)
  | home
deriving DecidableEq, Repr

/-- An activation in force at a die L2 (R177). -/
structure Lease where
  act : Nat
  req : Requester
  write : Bool
  since : Nat
  inc : Nat
deriving DecidableEq, Repr

/-- An entry of a slice's recall table (R181), or a wipe mark (R266). -/
structure RecallEnt where
  ser : BitVec 4
  wipe : Bool
  since : Nat
deriving DecidableEq, Repr

/-- What the home holds of a sector: the metadata byte (R170) and the partial count (R171). -/
structure HomeSec where
  mts : BitVec 2
  ser : BitVec 4
  psn : Bool
  cnt : Nat
  /-- The name under which its tokens are out; the zero key while all 64 are here (R169: an entry is one sector's). -/
  name : SectorKey := { home := 0, asid := 0, sec := 0 }
deriving DecidableEq, Repr

/-- A queued or active persistent request (R177). -/
structure PReq where
  req : Requester
  write : Bool
  inc : Nat
  scope : Nat
deriving DecidableEq, Repr

/-- The persistent requests of one sector at its home: the round, the queue, the active one (R177, R178). -/
structure PSec where
  key : SectorKey
  pa : Nat
  active : Option PReq
  act : Nat
  started : Nat
  lastPact : Nat
  lastRefresh : Nat
  round : List PReq
  queue : List PReq
  consol : Bool
  /-- Tokens collected toward the home's own request (R171). -/
  own : Nat
  ownOwner : Bool
deriving DecidableEq, Repr

/-- A recreation in progress (R180), or a wipe recreation (R266). -/
structure Recr where
  key : SectorKey
  pa : Nat
  wipe : Bool
  ser : BitVec 4
  held : Bool
  /-- 0 waits for R183, 1 recalls, 2 waits the lifetime bound. -/
  stage : Nat
  started : Nat
  lastRecall : Nat
  replied : List (Nat × Nat)
  newest : Option SectorData
  psn : Bool
  inc : Nat
deriving DecidableEq, Repr

/-- An entry of a controller's TLB (R157), as the walk found it. -/
structure TlbEnt where
  asid : Nat
  vbase : Nat
  size : Nat
  pabase : Nat
  wr : Bool
  nc : Bool
deriving DecidableEq, Repr

/-- A result kept by the reply cache (R217). -/
structure ReplyEnt where
  pkg : Nat
  core : Nat
  txn : Nat
  result : List Byte
  /-- The status of the reply, as its message has it. -/
  st : Nat
  since : Nat
deriving DecidableEq, Repr

/-- A held access of the home itself: an uncached write, a far atomic, a deposit that needs all 64 tokens
(R160, R185, R224). -/
inductive HomeOp where
  | read (va n : Nat)
  | write (va : Nat) (bytes : List Byte)
  | atom (va : Nat) (op : LaneOp) (w64 : Bool) (ops : Tab Nat (DWord × DWord))
deriving DecidableEq, Repr

/-- The agents of R232, one incarnation each. -/
inductive Agent where
  | core (pkg n : Nat)
  | slice (pkg n : Nat)
  | ctrl (pkg n : Nat)
  | chan (pkg : Nat)
  | bte (pkg n : Nat)
  | port (pkg n : Nat)
  | cp (pkg : Nat)
  /-- A core's reply path for a bulk transfer engine or a command packet. -/
  | none
deriving DecidableEq, Repr

/-- What a message says (R172, R216, R217, R220 to R227, R233). -/
inductive Body where
  | gets (req : Requester) (num : Nat)
  | getx (req : Requester) (num : Nat)
  | tok (cnt : Nat) (own dirty : Bool) (ser : BitVec 4) (data : Option SectorData) (psn wr : Bool)
  | preq (req : Requester) (write : Bool)
  | pact (req : Requester) (write : Bool) (act : Nat)
  | pdeact (req : Requester) (act : Nat)
  | recall (ser : BitVec 4) (wipe : Bool)
  | rrep (pkg die : Nat) (ser : BitVec 4) (wipe : Bool) (data : Option SectorData) (psn : Bool)
  | farAtomic (core txn : Nat) (va : Nat) (op : LaneOp) (w64 : Bool) (ops : Tab Nat (DWord × DWord)) (reply : Bool)
  | uncachedRead (core txn : Nat) (va bytes : Nat)
  | uncachedWrite (core txn : Nat) (va : Nat) (bytes : List Byte)
  /-- `st`: 0 done, 1 poisoned (R269), 2 an AtomicOp that the root port does not support (R204). -/
  | uncachedReply (txn : Nat) (result : List Byte) (st : Nat)
  | deposit (ch : Nat) (kind : Nat) (size : Nat) (va : Nat) (val : DWord) (seq ord gen : Nat)
  | release (ch : Nat) (seq cnt gen : Nat) (va : Nat) (val : Word)
  | rack (ch seq : Nat)
  | short (ch seq gen cur : Nat) (u : Bool)
  | halt
  | resume
  | incadv (inc : Nat) (preserve : Bool)
  | incack (inc : Nat) (who : Agent)
  | flushReport (inc : Nat) (who : Agent)
deriving DecidableEq, Repr

/-- A message in flight (R172, R184): its sender and target, the names it carries and its check code (R216). -/
structure Msg where
  src : Agent
  dst : Agent
  asid : Nat
  inc : Nat
  key : SectorKey
  pa : Nat
  body : Body
  check : Word
  /-- The scope id of the access that caused it (R285). -/
  scope : Nat
  hops : Nat
  since : Nat
deriving DecidableEq, Repr

/-- A TOK in an absorb buffer (R171), and whether its data may be written: a stale one's under PRESERVE alone (R236). -/
structure Absorbed where
  msg : Msg
  write : Bool
deriving DecidableEq, Repr

/-- A held access at a home, with the message it answers (R160, R161, R224). -/
structure HomeWait where
  key : SectorKey
  pa : Nat
  op : HomeOp
  reply : Option Msg
  inc : Nat
deriving DecidableEq, Repr

/-- A deposit that waits at its home for a page fault to be resolved (R224). -/
structure DepWait where
  msg : Msg
  page : Nat
deriving DecidableEq, Repr

structure TraceEnt where
  w0 : Word
  w1 : Word
  w2 : Word
  w3 : Word
deriving DecidableEq, Repr

structure Ctrl where
  absorb : List Absorbed
  psecs : List PSec
  recrs : List Recr
  lastRecr : Tab Nat Nat
  tlb : List TlbEnt
  replies : List ReplyEnt
  waits : List HomeWait
  /-- Requests that wipe recreations hold (R266). -/
  wipeReqs : List Msg
  acts : Nat
  trace : Tab Nat TraceEnt
  trhead : Nat
  trsel : Nat
  latched : TraceEnt
  /-- When its last scrub pass began, in memory clocks (R267). -/
  scrubAt : Nat
deriving DecidableEq, Repr

structure Die where
  l2 : Tab SectorKey L2Sec
  reqs : Tab SectorKey Req
  leases : Tab SectorKey Lease
  recalls : Tab SectorKey RecallEnt
  /-- Predictor entries (R175): slice, ASID, 4 KiB region, and up to three die L2s as 4 x package + die. -/
  pred : List (Nat × Nat × Nat × List Nat)
  reqNum : Nat
deriving DecidableEq, Repr

/-! ### Channels (R220 to R229) -/

/-- A release kept for resending or held at the receiver. -/
structure Rls where
  seq : Nat
  cnt : Nat
  gen : Nat
  va : Nat
  val : Word
  sent : Nat
deriving DecidableEq, Repr

structure Snd where
  asid : Nat
  inc : Nat
  peer : Nat
  sent : Nat
  seq : Nat
  ack : Nat
  gen : Nat
  brk : Bool
  jptr : DWord
  jsize : Option Nat
  jhead : Nat
  jtail : Nat
  /-- The page that a journal store waits for. -/
  jwait : Option Nat
  kept : List Rls
deriving DecidableEq, Repr

structure Rcv where
  asid : Nat
  inc : Nat
  journaled : Bool
  last : Nat
  gen : Nat
  cur : Nat
  next : Nat
  mapc : List Nat
  mapn : List Nat
  tadopt : Option Nat
  shn : Bool
  unr : Bool
  /-- Held releases, the head first, with the time the head was held. -/
  held : List Rls
  heldAt : Nat
  lastShort : Nat
deriving DecidableEq, Repr

structure Chan where
  snd : Tab Nat Snd
  /-- Keyed by 4,096 x sending package + channel. -/
  rcv : Tab Nat Rcv
  deps : List DepWait
  /-- Peers that sent HALT, with the time of the last one. -/
  halted : Tab Nat Nat
  /-- Timers stand still until: time already counted before a halt. -/
  lastHalt : Nat
deriving DecidableEq, Repr

/-! ### Link ports (R211 to R215) -/

/-- What a flit carries of one packet (R211): how many bytes, and whether the packet ends in it. -/
structure Piece where
  msg : Msg
  bytes : Nat
  last : Bool
deriving DecidableEq, Repr

/-- A flit (R211): the header's fields, its IV, and its payload. -/
structure Flit where
  seq : Nat
  ack : Nat
  credits : Nat
  slot : Bool
  marker : Bool
  replay : Bool
  iv : BitVec 96
  pkts : List Piece
deriving DecidableEq, Repr

structure Port where
  up : Bool
  enc : Bool
  slot : Bool
  nxv : Bool
  kev : Bool
  mism : Bool
  inReset : Bool
  retired : Bool
  peer : Nat
  peerPort : Nat
  train : Nat
  lkcnt : Nat
  repl : Nat
  drop : Nat
  auth : Nat
  detr : Nat
  egress : List Msg
  /-- Bytes of the first packet of the queue that flits have taken already (R211). -/
  part : Nat
  /-- Credits to return with the next flit (R211). -/
  credits : Nat
  /-- Flits sent and not acknowledged, the oldest first. -/
  replay : List Flit
  /-- Of them, how many the peer has still to receive (a go-back restarts here). -/
  unsent : Nat
  txSeq : Nat
  rxSeq : Nat
  fails : Nat
  wantReplay : Bool
  switching : Bool
  /-- A switch was requested while one is in progress, and waits for it (R213). -/
  kreq : Bool
  oldSlot : Bool
  ivCount : Nat
  rxSlot : Bool
deriving DecidableEq, Repr

/-! ### Contexts (R143, R155, R192, R231, R243, R272 to R276, R290) -/

structure Bound where
  base : Nat
  limit : Nat
  rd : Bool
  wr : Bool
  ex : Bool
  at_ : Bool
  space : Nat
  v : Bool
deriving DecidableEq, Repr

structure Place where
  v : Bool
  interleaved : Bool
  stack : Nat
  start : Nat
  stop : Nat
deriving DecidableEq, Repr

/-- A logical name's three words (R271). -/
structure Name3 where
  n0 : Word
  n1 : Word
  n2 : Word
deriving DecidableEq, Repr

structure StopRec where
  name : Name3
  cause : BitVec 8
  pc : Addr
  lanes : Mask
deriving DecidableEq, Repr

structure Ctx where
  fn : Nat
  inc : Nat
  bounds : Tab Nat Bound
  places : Tab Nat Place
  root : Nat
  schedKiB : Nat
  save : Nat
  pool : Nat
  poolKiB : Nat
  trapPc : DWord
  trapEn : Word
  menc : Bool
  pkgs : BitVec 16
  scopes : Tab Nat (BitVec 16 × BitVec 256)
  weight : Nat
  dThr : Nat
  tThr : Nat
  error : Bool
  killed : Bool
  /-- Dispatch is stopped by a debugger's halt of extent context, since when (R277, R281). -/
  haltedSince : Option Nat
  /-- Scheduler-area bytes in use, by what uses them (R55): (tag, bytes). -/
  sched : Tab Nat Nat
  parkedKiB : Nat
  lastService : Nat
  /-- Breakpoints and watchpoints as the registers hold them (R274, R276), by word offset from 0x8100. -/
  bp : Tab Nat Word
  stops : List StopRec
deriving DecidableEq, Repr

/-! ### The command processor (R44 to R68, R233) -/

/-- A kernel descriptor (R53). -/
structure Desc where
  entry : DWord
  groups : Nat
  cluster : Nat
  acc : Nat
  copy : Bool
  matrix : Bool
  regs : Nat
  fault : Nat
  fair : Nat
  scratch : Nat
  dieres : Bool
  unchecked : Bool
  fused : Bool
  caps : Nat
  quotaKiB : Nat
deriving DecidableEq, Repr

/-- A DEPEND edge from a producer node (R58). -/
structure Edge where
  prod : Nat
  tile : Option (Nat × Nat × Nat × Nat × Int × Int)
deriving DecidableEq, Repr

inductive NodeKind where
  | launch | empty | copy
deriving DecidableEq, Repr

structure Node where
  kind : NodeKind
  lid : Nat
  nid : Nat
  asid : Nat
  inc : Nat
  q : Nat
  ord : Nat
  label : Word
  tag : Word
  report : DWord
  prio : Nat
  conc : Bool
  desc : Desc
  nx : Nat
  ny : Nat
  nz : Nat
  args : List Byte
  /-- Queue-order dependences (all earlier nodes, as ordinals below this), and graph edges. -/
  waitsFor : List Nat
  edges : List Edge
  /-- The launches, by `seq`, on which it depends through TILE edges (R55). -/
  tileOf : List Nat
  /-- Completed and started blocks and clusters. -/
  done : List Nat
  started : List Nat
  status : Option Nat
  cancelled : Bool
  /-- Writes of its dropped blocks that are still on their way: its report record waits for them (R208). -/
  drains : List Nat
  rsum : Nat
  rcnt : Nat
  graph : Nat
  phase : Nat
  job : Nat
  ccb : List Word
  die : Nat
  seq : Nat
deriving DecidableEq, Repr

/-- An IF or LOOP in force (R49): the read pointer of the packet after the LOOP and the iterations left. -/
inductive Nest where
  | ifBlk (els : Bool)
  | loopBlk (start : Nat) (left : Nat) (loopRp : Nat)
deriving DecidableEq, Repr

/-- What a queue skips (R49, R59): to the matching ELSE or ENDIF, past a LOOP of count 0, to a closing PHASE. -/
inductive SkipTo where
  | elseOrEnd (depth : Nat)
  | endIf (depth : Nat)
  | loopEnd (depth : Nat)
  | jobEnd
deriving DecidableEq, Repr

/-- Why a queue stands at its packet with STATE = 2 (R45). -/
inductive QHold where
  | wait | fence (asid cnt : Nat) | drain | admission | fault (page : Nat) | chanFree (ch : Nat)
deriving DecidableEq, Repr

structure OpenGraph where
  conc : Bool
  nodes : List Node
deriving DecidableEq, Repr

structure Queue where
  ctl : Word
  basel : Word
  baseh : Word
  wp : Word
  rp : Word
  state : Nat
  err : Nat
  adm : Word
  lcnt : Word
  gcnt : Word
  pcnt : Word
  jcnt : Word
  own : Nat
  nest : List Nest
  graph : Option OpenGraph
  skip : Option SkipTo
  hold : Option QHold
  /-- The read pointer while a LOOP keeps QRP (R49). -/
  rd : Word
  prio : Nat
  ord : Nat
  gnum : Nat
  pnum : Nat
  jnum : Nat
  /-- The ordinal at the last PHASE and the last PHASE with JOB. -/
  pOrd : Nat
  jOrd : Nat
  /-- Of the packet that waits: its drafts read in full, with their statuses, and the parts of the next one read so far (R51). -/
  got : List (Node × Nat)
  parts : List (List Byte)
  /-- Nodes read since, that are not complete, and numbers of closed graphs, phases and jobs still open. -/
  openG : Tab Nat Nat
  openP : Tab Nat Nat
  openJ : Tab Nat Nat
  /-- A node of the queue has ended other than complete (R54; log 17). -/
  failed : Bool
deriving DecidableEq, Repr

/-- What goes on when a command processor's write has landed or is lost (R49, R54). -/
inductive CpThen where
  | node (nid status : Nat)
  | nothing
deriving DecidableEq, Repr

/-- A write of a report record, a result word or a KILL_CONTEXT report that waits for a page (R49). -/
structure CpWrite where
  asid : Nat
  ptr : DWord
  bytes : List Byte
  page : Nat
  andThen : CpThen
deriving DecidableEq, Repr

/-- A kill in progress (R233). -/
structure Kill where
  inc : Nat
  preserve : Bool
  report : DWord
  tag : Word
  rq : Nat
  pkgs : BitVec 16
  acks : List Agent
  reports : List Agent
  lastAdv : Nat
  quiet : Nat
deriving DecidableEq, Repr

/-- The reclaim state of an ASID (R233, R289). -/
structure Reclaim where
  /-- The function that created the ASID's last context (R289). -/
  owner : Nat
  cnt : Word
  inc : Nat
  pending : Bool
deriving DecidableEq, Repr

/-! ### Bulk transfers (R315 to R317) -/

structure BteOp where
  id : Nat
  asid : Nat
  inc : Nat
  /-- The issuing block, or the node of a COPY. -/
  blk : Option Nat
  node : Option Nat
  gid : Nat
  lane : Nat
  ccb : List Word
  die : Nat
  cancelled : Bool
  /-- Bytes already written (R317), and the page it waits for. -/
  wait : Option Nat
  done : Nat
deriving DecidableEq, Repr

/-! ### Faults, reports, host window (R286 to R291, R431) -/

structure FltRec where
  asid : Nat
  kind : FltKind
  write : Bool
  nothread : Bool
  va : Nat
  name : Name3
deriving DecidableEq, Repr

structure ErrRec where
  w0 : Word
  w1 : Word
  va : Nat
  pc : Addr
  name : Name3
deriving DecidableEq, Repr

/-- The host window of one function: the registers of R289, R291, R431 and the debug window of R272. -/
structure Fn where
  ctxcmd : Word
  ctxdpl : Word
  ctxdph : Word
  busy : Bool
  status : BitVec 8
  rclsel : Word
  tlbia : Word
  tlbivl : Word
  tlbivh : Word
  tlbBusy : Bool
  fltres : Word
  fltrpl : Word
  flt : List FltRec
  fltWait : List FltRec
  errs : List ErrRec
  errWait : List ErrRec
  dbgctl : Word
  dbgcmd : Word
  dbgtgt : Name3
  dbgRes : Nat
  dbgBusy : Bool
  dbgsel : Word
  /-- The last DBGDATA read by a debugger (R280). -/
  dbgdata : Word
deriving DecidableEq, Repr

/-- An answer to GET_MEASUREMENTS (R293): the block's index and digest, and for block 7 the log itself. -/
structure Measured where
  idx : Nat
  digest : BitVec 256
  log : List (Nat × Nat)
deriving DecidableEq, Repr

/-- Registers of the physical function and the platform (R22, R267, R281 to R285, R292 to R296). -/
structure Plat where
  stage : Nat
  ready : Bool
  faild : BitVec 4
  err : Bool
  rreq : Bool
  ev : BitVec 5
  last : BitVec 8
  unit : BitVec 16
  frames : Nat
  rows : Nat
  scrub : Nat
  passes : Nat
  scrubAct : Bool
  wdctl : Word
  prbase : DWord
  prsize : Word
  prrp : Word
  prwp : Word
  prdrop : Nat
  smpctl : Word
  trctl : Word
  telpwr : Word
  teltmp : Word
  step : Nat
  pwr : Bool
  thm : Bool
  pwrlim : Nat
  d3hot : Bool
  rfq : List Word
  /-- Frames withdrawn (R23), as stack x 2^20 + frame. -/
  withdrawn : List Nat
  /-- MSI-X messages sent, (function, vector), the oldest first, and those held in D3hot. -/
  msix : List (Nat × Nat)
  msixHeld : List (Nat × Nat)
  /-- Retirements under way, (code, unit): their work still moves (R21). -/
  retiring : List (Nat × Nat)
  /-- The retirement log, measurement block 7 (R21, R293). -/
  retLog : List (Nat × Nat)
  /-- Unsupported requests answered (R286). -/
  unsupported : Nat
  /-- The trust die's log of measurements (R292), and its last answer (R293). -/
  measured : List (BitVec 256)
  answer : Option Measured
  deadDies : List Nat
  /-- The root port completes AtomicOps; an unsupported one is reported (R204). -/
  rootAtomics : Bool
deriving DecidableEq, Repr

/-- One package. Tables list only what differs from the unit's state after reset. -/
structure Pkg where
  /-- The PART value that the package reports when its links train (R16). -/
  part : Part
  ctxs : Tab Nat Ctx
  reclaim : Tab Nat Reclaim
  kills : Tab Nat Kill
  /-- The incarnation an agent has adopted (R232), where a kill has changed it; key (agent, ASID). -/
  adopted : Tab (Agent × Nat) Nat
  queues : Tab Nat Queue
  nodes : Tab Nat Node
  slices : Tab Nat Slice
  clusters : Tab Nat Cluster
  blocks : Tab Nat Block
  groups : Tab Nat Group
  cores : Tab Nat Core
  dies : Tab Nat Die
  ctrls : Tab Nat Ctrl
  /-- Home state by linear sector number (R170): an unlisted sector has metadata byte 0x40. -/
  home : Tab Nat HomeSec
  /-- The key a frame's sector was written under (R294): ASID x 256 + incarnation. -/
  keyed : Tab Nat Nat
  /-- Corrected errors by row and controller since its scrub pass, spare rows used by bank, rows retired (R268). -/
  rowErrs : Tab (Nat × Nat) Nat
  spares : Tab Nat Nat
  retiredRows : List Nat
  /-- Sectors whose wipe recreation a read has made due (R266). -/
  wipesDue : List Nat
  pends : List Pend
  olog : List OLog
  btes : Tab Nat (List BteOp)
  cpWrites : List CpWrite
  chan : Chan
  ports : Tab Nat Port
  /-- Packets that no link or detour can take, waiting to be discarded (R184, R215). -/
  noPath : List Msg
  fns : Tab Nat Fn
  plat : Plat
  /-- The counters of R187, R230, R237 and R270, by unit-block index and word (R285). -/
  ctrs : Tab (Nat × Nat) Nat
  lidCtr : Nat
  uid : Nat
  seq : Nat
  /-- The context whose slice runs, and when it began (R60), in command-processor cycles of `now`. -/
  served : Option Nat
  sliceAt : Nat
  halted : Bool
  /-- Arithmetic clocks passed, in units of 1/21,000 clock (R17; log 9). -/
  aclk : Nat
deriving DecidableEq, Repr

/-! ### Soft errors (R258 to R265), as they stand in the hardware -/

/-- A word of an SRAM (R262). -/
inductive SramWord where
  | reg (gid lane n : Nat)
  | pred (gid lane n : Nat)
  | scratch (blk word : Nat)
  | fullBit (blk granule : Nat)
  | tile (blk name elem : Nat)
  | l1 (core : Nat) (key : SectorKey)
  | scalar (core : Nat) (key : SectorKey)
  | cb (core : Nat) (key : SectorKey)
  | l2 (die : Nat) (key : SectorKey)
  | l2tag (die : Nat) (key : SectorKey)
  | version (cluster : Nat) (key : SectorKey)
  | redLog (cluster : Nat)
  | checkCache (ctrl page : Nat)
  | tlb (ctrl : Nat)
  | ctrlTable (ctrl : Nat)
  /-- The command processor, its queues, the Lehr, the scheduler area: of a context, or of none. -/
  | sched (asid : Option Nat)
deriving DecidableEq, Repr

structure Strike where
  pkg : Nat
  word : SramWord
  double : Bool
deriving DecidableEq, Repr

/-- A faulty physical lane of a quadrant, 0 to 63, or a copy of its uniform pipe, 64 or 65 (R41, R258): how many more issues it
disturbs, none for one that stays faulty. -/
structure LaneFault where
  pkg : Nat
  quad : Nat
  lane : Nat
  left : Option Nat
deriving DecidableEq, Repr

/-- A wrong symbol of a codeword (R263): its place 0 to 67 and the error added to it. -/
structure DramErr where
  pkg : Nat
  sec : Nat
  sym : Nat
  err : Byte
deriving DecidableEq, Repr

/-! ### The pod -/

/-- What the world outside the step may do next (R258 to R265, R184). -/
inductive Env where
  | strike (x : Strike)
  | laneFault (x : LaneFault)
  | dramErr (x : DramErr)
  | corrupt (msg : Nat)
  | corruptStore (pkg core : Nat) (key : SectorKey)
  | telemetry (pkg : Nat) (power : BitVec 16) (temps : Word)
  | rootPort (pkg : Nat) (atomics : Bool)
deriving DecidableEq, Repr

/-- One entry of the agenda: who moves next (log 3). -/
inductive Turn where
  | issue (pkg gid : Nat)
  | packet (pkg q : Nat)
  | deliver (m : Nat)
  | event (i : Instr)
  | elapse (ticks : Nat)
  | env (e : Env)
deriving DecidableEq, Repr

/-- Whose step is in progress: an issue of a group with its address and selected lanes, a packet of a queue with
its units, or a message taken from the fabric. -/
inductive Cur where
  | none
  | issue (pkg gid : Nat) (addr : Addr) (sel : Mask) (words : Word × Option Word)
  | packet (pkg q units : Nat)
  | message (m : Msg)
deriving DecidableEq, Repr

structure State where
  part : Part
  pkgs : Tab Nat Pkg
  mem : List Host.Cell
  fabric : List Msg
  agenda : List Turn
  cur : Cur
  now : Nat
  /-- Turns taken so far: the model's own count, by which readiness is aged (R40). (log 6, DEDUCED) -/
  turns : Nat
  draws : Nat
  strikes : List Strike
  laneFaults : List LaneFault
  dramErrs : List DramErr
deriving DecidableEq, Repr

/-! ### Reset -/

/-- The host window of a function (R287 to R291); log 13, DESIGN CHOICE for what has no reset value. -/
def Fn.reset : Fn :=
  { ctxcmd := 0, ctxdpl := 0, ctxdph := 0, busy := false, status := 0, rclsel := 0, tlbia := 0, tlbivl := 0,
    tlbivh := 0, tlbBusy := false, fltres := 0, fltrpl := 0, flt := [], fltWait := [], errs := [], errWait := [],
    dbgctl := 0, dbgcmd := 0, dbgtgt := { n0 := 0, n1 := 0, n2 := 0 }, dbgRes := 0, dbgBusy := false, dbgsel := 0,
    dbgdata := 0 }

/-- The platform registers before boot (R22, R267, R281, R292, R295); log 13, DESIGN CHOICE for those without a
reset value. The host's root port supports AtomicOps (log 114, DESIGN CHOICE). -/
def Plat.reset : Plat :=
  { stage := 0, ready := false, faild := 0, err := false, rreq := false, ev := 0, last := 0, unit := 0,
    frames := 0, rows := 0, scrub := 24, passes := 0, scrubAct := false, wdctl := 0x0400, prbase := 0, prsize := 0,
    prrp := 0, prwp := 0, prdrop := 0, smpctl := 0, trctl := 0, telpwr := 0, teltmp := 0, step := 0, pwr := false,
    thm := false, pwrlim := 2200, d3hot := false, rfq := [], withdrawn := [], msix := [], msixHeld := [], retiring := [], retLog := [],
    unsupported := 0, measured := [], answer := none, deadDies := [], rootAtomics := true }

/-- A channel unit without channels (R220, R223; log 13, DESIGN CHOICE). -/
def Chan.reset : Chan := { snd := [], rcv := [], deps := [], halted := [], lastHalt := 0 }

/-- A package before boot (R292; log 13, DESIGN CHOICE). -/
def Pkg.reset : Pkg :=
  { part := .tz9640, ctxs := [], reclaim := [], kills := [], adopted := [], queues := [], nodes := [], slices := [], clusters := [],
    blocks := [], groups := [], cores := [], dies := [], ctrls := [], home := [], keyed := [], rowErrs := [], spares := [], retiredRows := [], wipesDue := [], pends := [], olog := [],
    btes := [], cpWrites := [], chan := Chan.reset, ports := [], noPath := [], fns := [], plat := Plat.reset, ctrs := [], lidCtr := 1, uid := 0,
    seq := 0, served := none, sliceAt := 0, halted := false, aclk := 0 }

/-- Every die passes its measurement. -/
def BootOutcome.good : BootOutcome := { firmwareOk := true, dieOk := 0xF }

/-- The pod right after power is applied: two TZ-9640 packages (log 1, DESIGN CHOICE) in which only the trust dies are out of
reset (R292); the agenda powers them on (log 4, DESIGN CHOICE). -/
def State.reset : State :=
  { part := .tz9640, pkgs := [(0, Pkg.reset), (1, Pkg.reset)], mem := [], fabric := [],
    agenda := [.event (.powerOn 0 BootOutcome.good), .event (.powerOn 1 BootOutcome.good)], cur := .none, now := 0, turns := 0,
    draws := 0, strikes := [], laneFaults := [], dramErrs := [] }

end Sys2Proof.Machine
end

