-- ==== Sys2Proof/Machine/Mem.lean ====
section
/-! DEFINITION. Machine/Mem.lean: memory as one canonical list of cells, the physical map (spec/07 R156), and the
Reed-Solomon code of HBM (spec/12 R263 to R265). -/

namespace Sys2Proof.Machine

/-! ### Cells (log 5: an unlisted byte reads 0) -/

/-- Addresses strictly rising, all above `lo`, and no cell of 0. -/
def Memory.wfFrom : Option Nat → List Host.Cell → Bool
  | _, [] => true
  | lo, (a, b) :: m => (match lo with | none => true | some l => decide (l < a)) && b != 0 && Memory.wfFrom (some a) m

/-- The canonical form of memory. (log 5, DESIGN CHOICE) -/
def Memory.wf (m : List Host.Cell) : Bool := Memory.wfFrom none m

/-- The byte at an address; an unlisted one reads 0 (R292; log 5, DESIGN CHOICE). -/
def readByte : List Host.Cell → Nat → Byte
  | [], _ => 0
  | (a', b) :: m, a => if a' = a then b else if a < a' then 0 else readByte m a

/-- A write keeps the canonical form: a byte of 0 is not listed. -/
def writeByte : List Host.Cell → Nat → Byte → List Host.Cell
  | [], a, b => if b = 0 then [] else [(a, b)]
  | (a', b') :: m, a, b =>
    if a' = a then (if b = 0 then m else (a, b) :: m)
    else if a < a' then (if b = 0 then (a', b') :: m else (a, b) :: (a', b') :: m)
    else (a', b') :: writeByte m a b

def readBytes (m : List Host.Cell) (a : Nat) : Nat → List Byte
  | 0 => []
  | n + 1 => readByte m a :: readBytes m (a + 1) n

def writeBytes (m : List Host.Cell) (a : Nat) : List Byte → List Host.Cell
  | [] => m
  | b :: bs => writeBytes (writeByte m a b) (a + 1) bs

/-! ### Little-endian numbers (R7) -/

def leNat : List Byte → Nat
  | [] => 0
  | b :: bs => b.toNat + 256 * leNat bs

def leBytes : Nat → Nat → List Byte
  | 0, _ => []
  | n + 1, x => BitVec.ofNat 8 x :: leBytes n (x / 256)

/-- The bytes of a sector, byte 0 in its low bits (R10). -/
def sectorOf (bs : List Byte) : SectorData := BitVec.ofNat 512 (leNat bs)
def sectorBytes (d : SectorData) : List Byte := leBytes 64 d.toNat
/-- The value of n bytes at offset off of a sector. -/
def secGet (d : SectorData) (off n : Nat) : Nat := (d.toNat >>> (8 * off)) % 2 ^ (8 * n)
/-- The mask of n bytes at offset off. -/
def byteMask (off n : Nat) : BitVec 64 := BitVec.ofNat 64 ((2 ^ n - 1) * 2 ^ off)
/-- A sector with the bytes named by mask replaced by those of x. -/
def secMerge (d : SectorData) (mask : BitVec 64) (x : SectorData) : SectorData :=
  sectorOf ((List.range 64).map (fun i => BitVec.ofNat 8 (secGet (if bit mask i then x else d) i 1)))
/-- A sector with n bytes at offset off set to val. -/
def secPut (d : SectorData) (off n val : Nat) : SectorData :=
  let low := d.toNat % 2 ^ (8 * off)
  let high := d.toNat >>> (8 * (off + n))
  BitVec.ofNat 512 (low + 2 ^ (8 * off) * (val % 2 ^ (8 * n)) + 2 ^ (8 * (off + n)) * high)

/-! ### The physical map (R156) -/

/-- Where a physical address leads: a byte of a stack by its linear-window address, host memory, or a hole. -/
inductive Phys where
  | frame (lin : Nat)
  | host (addr : Nat)
  | hole
deriving DecidableEq, Repr

/-- What a physical address names: a byte of HBM, of host memory, or nothing (R156; log 5, DESIGN CHOICE). -/
def physOf (p : Part) (pa : Nat) : Phys :=
  if 0x10000000000 ≤ pa then .host pa
  else if 0x8000000000 ≤ pa then
    let i := (pa - 0x8000000000) / 65536
    let f := i / Config.hbmStacks p
    if f < Config.framesPerStack then .frame ((i % Config.hbmStacks p) * 2 ^ 36 + f * 65536 + pa % 65536) else .hole
  else
    if pa / 2 ^ 36 < Config.hbmStacks p ∧ pa % 2 ^ 36 / 65536 < Config.framesPerStack then .frame pa else .hole

def Phys.isHole : Phys → Bool
  | .hole => true
  | _ => false

/-- The stack and the controller of a linear-window address (R155, R158). -/
def stackOf (lin : Nat) : Nat := lin / 2 ^ 36
def ctrlOf (lin : Nat) : Nat := 4 * stackOf lin + lin / 512 % 4

/-- The cell of a linear-window address of a package, and of a host address. -/
def cellOf (pkg lin : Nat) : Nat := pkg * 2 ^ 56 + lin
def hostCell (addr : Nat) : Nat := 16 * 2 ^ 56 + addr

/-! ### The code of HBM (R263) -/

/-- Multiplication by x in GF(2^8) modulo x^8 + x^4 + x^3 + x^2 + 1. -/
def gfX (a : Nat) : Nat := if a < 128 then 2 * a else (2 * a).xor 0x11D
/-- a times x^n. -/
def gfXn (a : Nat) : Nat → Nat
  | 0 => a
  | n + 1 => gfXn (gfX a) n

/-- The exponent of the coefficient that holds a symbol: 67 − place (R263). -/
def symExp (place : Nat) : Nat := 67 - place
/-- Syndrome i of an error pattern: its value at α^i. -/
def syndrome (errs : List (Nat × Byte)) (i : Nat) : Nat :=
  errs.foldl (fun acc e => acc.xor (gfXn e.2.toNat (i * symExp e.1))) 0

inductive RsResult where
  | clean
  | corrected (place : Nat) (err : Byte)
  | uncorrectable
deriving DecidableEq, Repr

/-- What the decoder does with an error pattern: a linear code decodes by syndromes, so the word does not matter. -/
def rsDecode (errs : List (Nat × Byte)) : RsResult :=
  let s0 := syndrome errs 0
  let s1 := syndrome errs 1
  let s2 := syndrome errs 2
  if s0 = 0 ∧ s1 = 0 ∧ s2 = 0 then .clean
  else if s0 = 0 then .uncorrectable
  else match firstFrom (fun k => gfXn s0 (symExp k) == s1 && gfXn s1 (symExp k) == s2) 0 68 with
    | some k => .corrected k (BitVec.ofNat 8 s0)
    | none => .uncorrectable

/-- The DRAM row of a linear address: bank and row numbers are the model's, one row per 1 KiB page of 960 usable
bytes (R264). -/
def pageOfLin (lin : Nat) : Nat := stackOf lin * 2 ^ 30 + lin % 2 ^ 36 / 960

end Sys2Proof.Machine
end

