-- ==== Sys2Proof/Machine/Units.lean ====
section
/-! DEFINITION. Machine/Units.lean: the units of a package with their state after reset, their clocks, counters
and reports (spec/01, spec/13 R271, R285, spec/14 R291, R431). -/

namespace Sys2Proof.Machine

/-! ### Packages and units -/

def State.pkg (s : State) (p : Nat) : Pkg := tgetD s.pkgs p Pkg.reset
def State.updPkg (s : State) (p : Nat) (f : Pkg → Pkg) : State := { s with pkgs := tmod s.pkgs p f }

/-- A core after reset: empty caches and queues, the LFSR seeded with its number plus 1 (R62). -/
def Core.fresh (n : Nat) : Core :=
  { l1 := [], scalar := [], cb := [], queue := [], lfsr := BitVec.ofNat 16 (n + 1), stealAt := 0, stealing := false,
    eng := { run := none, queue := [], stopped := false }, retiredQuads := [], retired := false, ccnt0 := 0,
    samples := 0, stalls := [] }
def Die.fresh : Die := { l2 := [], reqs := [], leases := [], recalls := [], pred := [], reqNum := 0 }
def TraceEnt.zero : TraceEnt := { w0 := 0, w1 := 0, w2 := 0, w3 := 0 }
def Ctrl.fresh : Ctrl :=
  { absorb := [], psecs := [], recrs := [], lastRecr := [], tlb := [], replies := [], waits := [], wipeReqs := [], acts := 0, trace := [],
    trhead := 0, trsel := 0, latched := TraceEnt.zero, scrubAt := 0 }
def Port.fresh : Port :=
  { up := false, enc := false, slot := false, nxv := false, kev := false, mism := false, inReset := false,
    retired := false, peer := 0, peerPort := 0, train := 0, lkcnt := 0, repl := 0, drop := 0, auth := 0, detr := 0,
    egress := [], part := 0, credits := 0, replay := [], unsent := 0, txSeq := 0, rxSeq := 0, fails := 0, wantReplay := false,
    switching := false, kreq := false, oldSlot := false, ivCount := 0, rxSlot := false }
/-- A queue before its first set-up (R44; log 17, DEDUCED). -/
def Queue.fresh : Queue :=
  { ctl := 0, basel := 0, baseh := 0, wp := 0, rp := 0, state := 0, err := 0, adm := 0, lcnt := 0, gcnt := 0, pcnt := 0,
    jcnt := 0, own := 0, nest := [], graph := none, skip := none, hold := none, rd := 0, prio := 0, ord := 0, gnum := 0,
    pnum := 0, jnum := 0, pOrd := 0, jOrd := 0, openG := [], openP := [], openJ := [], got := [], parts := [], failed := false }
def Reclaim.fresh : Reclaim := { owner := 0, cnt := 0, inc := 1, pending := false }

namespace Pkg
def core (k : Pkg) (n : Nat) : Core := tgetD k.cores n (Core.fresh n)
def updCore (k : Pkg) (n : Nat) (f : Core → Core) : Pkg := { k with cores := tset k.cores n (f (k.core n)) }
def die (k : Pkg) (n : Nat) : Die := tgetD k.dies n Die.fresh
def updDie (k : Pkg) (n : Nat) (f : Die → Die) : Pkg := { k with dies := tset k.dies n (f (k.die n)) }
def ctrl (k : Pkg) (n : Nat) : Ctrl := tgetD k.ctrls n Ctrl.fresh
def updCtrl (k : Pkg) (n : Nat) (f : Ctrl → Ctrl) : Pkg := { k with ctrls := tset k.ctrls n (f (k.ctrl n)) }
def port (k : Pkg) (n : Nat) : Port := tgetD k.ports n Port.fresh
def updPort (k : Pkg) (n : Nat) (f : Port → Port) : Pkg := { k with ports := tset k.ports n (f (k.port n)) }
def fn (k : Pkg) (n : Nat) : Fn := tgetD k.fns n Fn.reset
def updFn (k : Pkg) (n : Nat) (f : Fn → Fn) : Pkg := { k with fns := tset k.fns n (f (k.fn n)) }
def queue (k : Pkg) (n : Nat) : Queue := tgetD k.queues n Queue.fresh
def updQueue (k : Pkg) (n : Nat) (f : Queue → Queue) : Pkg := { k with queues := tset k.queues n (f (k.queue n)) }
def recl (k : Pkg) (asid : Nat) : Reclaim := tgetD k.reclaim asid Reclaim.fresh
def bte (k : Pkg) (n : Nat) : List BteOp := tgetD k.btes n []
def updGroup (k : Pkg) (g : Nat) (f : Group → Group) : Pkg := { k with groups := tmod k.groups g f }
def updBlock (k : Pkg) (b : Nat) (f : Block → Block) : Pkg := { k with blocks := tmod k.blocks b f }
def updCluster (k : Pkg) (c : Nat) (f : Cluster → Cluster) : Pkg := { k with clusters := tmod k.clusters c f }
def updNode (k : Pkg) (n : Nat) (f : Node → Node) : Pkg := { k with nodes := tmod k.nodes n f }
def updCtx (k : Pkg) (a : Nat) (f : Ctx → Ctx) : Pkg := { k with ctxs := tmod k.ctxs a f }
def updPlat (k : Pkg) (f : Plat → Plat) : Pkg := { k with plat := f k.plat }
def updChan (k : Pkg) (f : Chan → Chan) : Pkg := { k with chan := f k.chan }
end Pkg

def State.group? (s : State) (p g : Nat) : Option Group := tget (s.pkg p).groups g
def State.updGroup (s : State) (p g : Nat) (f : Group → Group) : State := s.updPkg p (·.updGroup g f)
def State.updBlock (s : State) (p b : Nat) (f : Block → Block) : State := s.updPkg p (·.updBlock b f)
def State.updCluster (s : State) (p c : Nat) (f : Cluster → Cluster) : State := s.updPkg p (·.updCluster c f)
def State.updCore (s : State) (p c : Nat) (f : Core → Core) : State := s.updPkg p (·.updCore c f)
def State.updDie (s : State) (p d : Nat) (f : Die → Die) : State := s.updPkg p (·.updDie d f)
def State.updCtrl (s : State) (p c : Nat) (f : Ctrl → Ctrl) : State := s.updPkg p (·.updCtrl c f)
def State.updNode (s : State) (p n : Nat) (f : Node → Node) : State := s.updPkg p (·.updNode n f)
def State.updCtx (s : State) (p a : Nat) (f : Ctx → Ctx) : State := s.updPkg p (·.updCtx a f)
def State.updQueue (s : State) (p q : Nat) (f : Queue → Queue) : State := s.updPkg p (·.updQueue q f)
def State.updPort (s : State) (p n : Nat) (f : Port → Port) : State := s.updPkg p (·.updPort n f)
def State.updFn (s : State) (p n : Nat) (f : Fn → Fn) : State := s.updPkg p (·.updFn n f)

/-- The die of a core (R14). -/
def dieOfCore (core : Nat) : Nat := core / 64
def quadOf (core slot : Nat) : Nat := 4 * core + slot / 8

/-- Takes a fresh identity number of the package. -/
def Pkg.fresh (k : Pkg) : Nat × Pkg := (k.uid, { k with uid := k.uid + 1 })

/-! ### Clocks (R17; log 9) -/

/-- Arithmetic clocks that a package has passed. -/
def Pkg.arith (k : Pkg) : Nat := k.aclk / 21000
/-- The arithmetic clock in MHz (R17, R295). -/
def Pkg.mhz (k : Pkg) : Nat := 1500 - 50 * k.plat.step
def State.memClk (s : State) : Nat := s.now / Config.tickMem
/-- Time passes: every package's arithmetic clock runs at its own frequency. (log 9, DESIGN CHOICE) -/
def State.elapse (s : State) (ticks : Nat) : State :=
  { s with now := s.now + ticks, pkgs := s.pkgs.map (fun e => (e.1, { e.2 with aclk := e.2.aclk + ticks * e.2.mhz })) }

/-! ### Counters (R285) -/

def unitCore (n : Nat) : Nat := n
def unitSlice (n : Nat) : Nat := 256 + n
def unitCtrl (n : Nat) : Nat := 384 + n
def unitBte (n : Nat) : Nat := 416 + n
def unitPort (n : Nat) : Nat := 448 + n
def unitChan : Nat := 464
def unitCp : Nat := 465

def Pkg.bump (k : Pkg) (unit word : Nat) : Pkg := { k with ctrs := tmodD k.ctrs (unit, word) 0 satInc }
def State.bump (s : State) (p unit word : Nat) : State := s.updPkg p (·.bump unit word)
def Pkg.ctr (k : Pkg) (unit word : Nat) : Nat := tgetD k.ctrs (unit, word) 0

-- Words of a unit block: reliability (R270), cullet (R237), coherence (R187) or channel (R230).
def wLcmp : Nat := 0
def wResc : Nat := 1
def wScor : Nat := 2
def wSunc : Nat := 3
def wHcor : Nat := 4
def wHunc : Nat := 5
def wRret : Nat := 6
def wCreq : Nat := 8
def wCdata : Nat := 9
def wCorph : Nat := 10
def wCdep : Nat := 11
def wCwr : Nat := 12
def wCrdir : Nat := 13
def wPact : Nat := 16
def wRecr : Nat := 17
def wSdisc : Nat := 18
def wPois : Nat := 19
def wCons : Nat := 20
def wChk : Nat := 16
def wShrt : Nat := 17
def wRply : Nat := 18
def wDup : Nat := 19
def wGdisc : Nat := 20
def wLate : Nat := 21
def wLoss : Nat := 22
def wNoch : Nat := 23
/-- Writes dropped for a check code elsewhere than at a channel unit: R216 counts them and gives no register, so no window
reads this word. (log 91, DESIGN CHOICE) -/
def wDrop : Nat := 32

/-! ### Slices and sectors (R151) -/

/-- The slice of an address within its die (R151). -/
def sliceOf (va asid : Nat) : Nat :=
  ((((va / 512 % 32).xor (va / 16384 % 32)).xor (va / 524288 % 32)).xor (asid % 32)).xor (asid / 32 % 32)
def keyVa (k : SectorKey) : Nat := k.sec * 64
def keySlice (k : SectorKey) : Nat := sliceOf (keyVa k) k.asid
/-- The number of a die's slice for a sector (R14). -/
def sliceNo (die : Nat) (k : SectorKey) : Nat := 32 * die + keySlice k

/-! ### MSI-X and the report queues (R291, R296, R431) -/

def Pkg.msix (k : Pkg) (fn vec : Nat) : Pkg :=
  k.updPlat (fun p => if p.d3hot then { p with msixHeld := p.msixHeld ++ [(fn, vec)] } else { p with msix := p.msix ++ [(fn, vec)] })

/-- A record enters the error-report queue of a function, or waits for room (R431). -/
def Pkg.report (k : Pkg) (fn : Nat) (r : ErrRec) : Pkg :=
  let f := k.fn fn
  if f.errs.length < Config.faultQueue then
    let k' := k.updFn fn (fun f => { f with errs := f.errs ++ [r] })
    if f.errs.isEmpty then k'.msix fn 2 else k'
  else k.updFn fn (fun f => { f with errWait := f.errWait ++ [r] })

/-- A record enters the page-fault queue of a function, or waits for room (R291). -/
def Pkg.faultRec (k : Pkg) (fn : Nat) (r : FltRec) : Pkg :=
  let f := k.fn fn
  if f.flt.length < Config.faultQueue then
    let k' := k.updFn fn (fun f => { f with flt := f.flt ++ [r] })
    if f.flt.isEmpty then k'.msix fn 1 else k'
  else k.updFn fn (fun f => { f with fltWait := f.fltWait ++ [r] })

def Name3.zero : Name3 := { n0 := 0, n1 := 0, n2 := 0 }

/-- The words of an error-report record: kind, ASID, cause, channel, kind of wait (R431). -/
def errRec (kind asid cause ch wait va : Nat) (pc : Addr) (name : Name3) : ErrRec :=
  { w0 := BitVec.ofNat 32 (kind + 2 ^ 8 * asid + 2 ^ 31), w1 := BitVec.ofNat 32 (cause + 2 ^ 8 * ch + 2 ^ 20 * wait),
    va := va, pc := pc, name := name }

/-- The function that owns an ASID; the physical function when there is none (R289, R431). (log 33, DEDUCED) -/
def Pkg.ownerFn (k : Pkg) (asid : Nat) : Nat :=
  match tget k.ctxs asid with
  | some c => c.fn
  | none => (k.recl asid).owner

/-- A device error that no context can be named for: a record and an MSI-X event (R262, R431). -/
def Pkg.deviceError (k : Pkg) : Pkg := (k.report 0 (errRec 7 0 0 0 0 0 0 Name3.zero)).msix 0 0
/-- A struck word of a controller's tables, met by a message there (R262). R262 gives an uncorrectable one no effect of its
own: it is a device error here (log 99, DESIGN CHOICE). -/
def State.checkTables (s : State) (p c : Nat) : State :=
  match s.strikes.find? (fun x => x.pkg == p && x.word == .ctrlTable c) with
  | none => s
  | some x =>
    let s1 : State := { s with strikes := s.strikes.filter (fun y => y != x) }
    if x.double then (s1.bump p (unitCtrl c) wSunc).updPkg p Pkg.deviceError else s1.bump p (unitCtrl c) wScor

/-! ### Logical names (R271) -/

def nameOf (pkg lid idx gidx lane : Nat) : Name3 :=
  { n0 := BitVec.ofNat 32 lid, n1 := BitVec.ofNat 32 (idx % 2 ^ 24),
    n2 := BitVec.ofNat 32 ((32 * gidx + lane) % 1024 + 1024 * pkg) }

/-- The name of a lane of a group. -/
def State.threadName (s : State) (p g lane : Nat) : Name3 :=
  match s.group? p g with
  | some gr => match tget (s.pkg p).blocks gr.blk with
    | some b => nameOf p b.lid b.idx gr.gidx lane
    | none => Name3.zero
  | none => Name3.zero

/-! ### Where a group stands -/

/-- A group with its block, node, context and cluster. -/
structure Loc where
  p : Nat
  g : Nat
  grp : Group
  blk : Block
  node : Node
  ctx : Ctx
  clu : Cluster
deriving DecidableEq, Repr

def State.loc (s : State) (p g : Nat) : Option Loc :=
  let k := s.pkg p
  match tget k.groups g with
  | none => none
  | some grp => match tget k.blocks grp.blk with
    | none => none
    | some blk => match tget k.nodes blk.node, tget k.clusters blk.cluster with
      | some node, some clu => match tget k.ctxs node.asid with
        | some ctx => some { p := p, g := g, grp := grp, blk := blk, node := node, ctx := ctx, clu := clu }
        | none => none
      | _, _ => none

namespace Loc
def asid (l : Loc) : Nat := l.node.asid
def versioned (l : Loc) : Bool := l.node.desc.fault == 2
def core (l : Loc) : Nat := l.grp.core
def die (l : Loc) : Nat := dieOfCore l.grp.core
def checked (l : Loc) : Bool := !l.node.desc.unchecked
/-- The role of the group (R37): 0 vector, 1 copy, 2 matrix. -/
def role (l : Loc) : Nat :=
  let c := if l.node.desc.copy then 1 else 0
  if l.grp.gidx < c then 1
  else if l.node.desc.matrix && l.grp.gidx < c + 4 then 2 else 0
end Loc

/-- The groups of a block, of a cluster, of a context. -/
def Pkg.groupsOf (k : Pkg) (b : Nat) : List Nat := (k.groups.filter (fun e => e.2.blk == b)).map (·.1)
def Pkg.groupsOfCluster (k : Pkg) (c : Nat) : List Nat :=
  (k.groups.filter (fun e => match tget k.blocks e.2.blk with | some b => b.cluster == c | none => false)).map (·.1)
def Pkg.asidOfGroup (k : Pkg) (g : Nat) : Option Nat :=
  match tget k.groups g with
  | some gr => match tget k.blocks gr.blk with
    | some b => (tget k.nodes b.node).map (·.asid)
    | none => none
  | none => none
def Pkg.groupsOfCtx (k : Pkg) (a : Nat) : List Nat :=
  (k.groups.map (·.1)).filter (fun g => k.asidOfGroup g == some a)
def Pkg.blocksOfCtx (k : Pkg) (a : Nat) : List Nat :=
  (k.blocks.filter (fun e => match tget k.nodes e.2.node with | some n => n.asid == a | none => false)).map (·.1)

/-- A group is live while a lane of it has not exited (R30). -/
def Group.lane (g : Group) (i : Nat) : Lane := g.lanes.getD i Lane.dead
def Group.live (g : Group) : Mask := Mask.ofPred (fun i => (g.lane i).live)
def Group.alive (g : Group) : Bool := laneList.any (fun i => (g.lane i).live)
def Pkg.liveGroups (k : Pkg) (gs : List Nat) : List Nat :=
  gs.filter (fun g => match tget k.groups g with | some x => x.alive | none => false)

/-- Packages of the pod (R16), and those a context spans (R290). -/
def State.pod (s : State) : List Nat := s.pkgs.map (·.1)
def Ctx.spans (c : Ctx) : List Nat := (List.range 16).filter (fun i => bit c.pkgs i)

end Sys2Proof.Machine
end

