-- ==== Sys2Proof/Machine/Translate.lean ====
section
/-! DEFINITION. Machine/Translate.lean: region bounds (spec/07 R143 to R149), placement and home (R155), the walk and
the TLB (R157, R158), and the home's access to HBM (R263 to R268, R294). -/

namespace Sys2Proof.Machine

/-! ### Region bounds -/

inductive Perm where
  | rd | wr | ex | atom
deriving DecidableEq, Repr

def Bound.grants (b : Bound) : Perm → Bool
  | .rd => b.rd
  | .wr => b.wr
  | .ex => b.ex
  | .atom => b.at_ && b.wr

/-- The spaces of R140 that a pointer can name. -/
inductive Space where
  | global | priv | arg
deriving DecidableEq, Repr

/-- The entry that a region identifier names, under R144: entries 0 and 0xFF are fixed, 0xFE holds SPACE 1 alone. R144 says
nothing of SPACE 2 in another entry: here it names argument space (log 93, DESIGN CHOICE). -/
def boundOf (c : Ctx) (n : Node) (rid : Nat) : Option (Space × Bound) :=
  if rid = 0 then none
  else if rid = 0xFF then
    if n.args.length = 0 then none
    else some (.arg, { base := 0, limit := n.args.length - 1, rd := true, wr := false, ex := false, at_ := false,
                       space := 2, v := true })
  else match tget c.bounds rid with
    | none => none
    | some b =>
      if !b.v then none
      else if rid = 0xFE then (if b.space = 1 then some (.priv, b) else none)
      else if b.space = 0 then some (.global, b)
      else if b.space = 2 then some (.arg, b)
      else none

/-- The region identifier and the address of a pointer (R141). -/
def ridOf (x : DWord) : Nat := bits x 63 56
def vaOf (x : DWord) : Nat := bits x 55 0
/-- The access address of [x + off]: a carry never reaches the region identifier (R141). -/
def addOff (x : DWord) (off : Int) : DWord :=
  BitVec.ofNat 64 (ridOf x * 2 ^ 56 + ((vaOf x : Int) + off).emod (2 ^ 56) |>.toNat)

/-- [x + off] wraps: its address falls outside every region (R141). -/
def wraps (x : DWord) (off : Int) : Bool := decide ((vaOf x : Int) + off < 0) || decide (2 ^ 56 ≤ (vaOf x : Int) + off)

/-- What the address check of one access finds: the cause, or the space (R142, R143, R149). -/
inductive Checked where
  | ok (sp : Space) (b : Bound)
  | bad (cause : BitVec 8)
deriving DecidableEq, Repr

/-- The checks of an access of n bytes: misaligned, then region bound, then private limit (R142, R143, R149). (log 7, DEDUCED) -/
def checkAccess (c : Ctx) (nd : Node) (x : DWord) (n : Nat) (perm : Perm) : Checked :=
  if vaOf x % n != 0 then .bad 0x04
  else match boundOf c nd (ridOf x) with
    | none => .bad 0x05
    | some (.priv, b) =>
      if perm == .atom || !b.grants perm then .bad 0x05
      else if b.limit < vaOf x + n then .bad 0x0E
      else .ok .priv b
    | some (sp, b) =>
      if b.base ≤ vaOf x && vaOf x + n - 1 ≤ b.limit && b.grants perm then .ok sp b else .bad 0x05

/-- The checks of an access at [x + off]: one that wraps fails the region check, in every space (R141, R363, R400). -/
def checkAt (c : Ctx) (nd : Node) (x : DWord) (off : Int) (n : Nat) (perm : Perm) : Checked :=
  if wraps x off && vaOf (addOff x off) % n == 0 then .bad 0x05 else checkAccess c nd (addOff x off) n perm

/-- The bounds check of a range of global memory: a global entry that grants perm and covers it (R143). -/
def coversGlobal (c : Ctx) (nd : Node) (x : DWord) (n : Nat) (perm : Perm) : Bool :=
  match boundOf c nd (ridOf x) with
  | some (.global, b) => decide (b.base ≤ vaOf x) && decide (vaOf x + n - 1 ≤ b.limit) && b.grants perm
  | _ => false

/-- The virtual address of a private access (R149). -/
def privVa (b : Bound) (a lane window : Nat) : Nat :=
  let wsize := (32 * b.limit + 65535) / 65536 * 65536
  (b.base + window * wsize + 128 * (a / 4) + 4 * lane + a % 4) % 2 ^ 56

/-! ### Placement and home (R155) -/

/-- Where an address lives: the home package, its stack, and whether its entry interleaves. -/
structure HomeOf where
  pkg : Nat
  stack : Nat
  inter : Bool
deriving DecidableEq, Repr

def Place.covers (e : Place) (part : Part) (va : Nat) : Bool :=
  e.v && decide (e.start ≤ va / 65536) && decide (va / 65536 ≤ e.stop) &&
    decide (e.stack < Config.hbmStacks part)

def placeIn (part : Part) (c : Ctx) (va : Nat) : Option Place :=
  match firstFrom (fun i => match tget c.places i with | some e => e.covers part va | none => false) 0 64 with
  | some i => tget c.places i
  | none => none

def placeStack (part : Part) (e : Place) (va : Nat) : Nat :=
  if e.interleaved then va / 65536 % Config.hbmStacks part else e.stack

/-- The home of an address for a requester in package p: its own table first, then the lowest other package whose
table covers it (R155). -/
def State.homeOf (s : State) (p asid va : Nat) : Option HomeOf :=
  match tget (s.pkg p).ctxs asid with
  | none => none
  | some c =>
    let find := fun q => match tget (s.pkg q).ctxs asid with
      | some cq => (placeIn s.part cq va).map (fun e =>
          ({ pkg := q, stack := placeStack s.part e va, inter := e.interleaved } : HomeOf))
      | none => none
    match find p with
    | some h => some h
    | none => ((c.spans.filter (fun q => q != p)).filterMap find).head?

def HomeOf.ctrl (h : HomeOf) (va : Nat) : Nat := 4 * h.stack + va / 512 % 4

/-! ### Reading memory at its controller -/

/-- The tag of the key that a context's sectors are written under; 0 without encryption (R294). -/
def keyTag (k : Pkg) (asid : Nat) : Nat :=
  match tget k.ctxs asid with
  | some c => if c.menc then asid * 256 + c.inc + 1 else 0
  | none => 0

/-- The bytes that a controller returns for a linear address under a key: scrambled under another key (R294). -/
def homeBytes (s : State) (p lin n tag : Nat) : List Byte :=
  (List.range n).map (fun i =>
    let b := readByte s.mem (cellOf p (lin + i))
    let t := tgetD (s.pkg p).keyed ((lin + i) / 64) 0
    if t = tag then b else Config.scrambled tag t (lin + i) b)

/-! ### Retirement reports (R21, R22) -/

/-- Steps 3 to 6 of a retirement: the health register, one MSI-X event, the log entry. The event bits are
EVQ, EVC, EVH, EVF, EVL in that order; `code` is LAST (R22). -/
def Pkg.retireReport (k : Pkg) (code unit : Nat) : Pkg :=
  (k.updPlat (fun p => { p with
    rreq := true, ev := p.ev ||| BitVec.ofNat 5 (2 ^ (code - 1)), last := BitVec.ofNat 8 code, unit := BitVec.ofNat 16 unit,
    retLog := p.retLog ++ [(code, unit)] })).msix 0 0

/-- The frames that hold a byte of a row: one or two (R268). -/
def framesOfRow (page : Nat) : List Nat :=
  let stack := page / 2 ^ 30
  let first := page % 2 ^ 30 * 960 / 65536
  let last := (page % 2 ^ 30 * 960 + 959) / 65536
  (if first = last then [first] else [first, last]).map (fun f => stack * 2 ^ 20 + f)

/-- Withdraws a frame: it enters the retired-frame queue and is served with poison (R23, R268, R291). -/
def Pkg.withdraw (k : Pkg) (f : Nat) : Pkg :=
  if f ∈ k.plat.withdrawn then k
  else
    (k.updPlat (fun p => { p with
      withdrawn := p.withdrawn ++ [f], frames := p.frames - 1,
      rfq := p.rfq ++ [BitVec.ofNat 32 (f / 2 ^ 20 + 8 * (f % 2 ^ 20) + 2 ^ 31)] })).retireReport 0x04 (f / 2 ^ 20)

/-- Corrected errors of a row since the last scrub passes over its parts (R268): controllers share a row, each counting its own. -/
def Pkg.rowCount (k : Pkg) (page : Nat) : Nat := ((k.rowErrs.filter (fun e => e.1.1 == page)).map (·.2)).sum

/-- A row retires onto a spare row of its bank, or its frames are withdrawn (R20, R268). (log 14, DESIGN CHOICE) -/
def Pkg.retireRow (k : Pkg) (c page : Nat) : Pkg :=
  let bank := Config.bankOf page
  let k1 := ({ k with retiredRows := addOnce k.retiredRows page, rowErrs := k.rowErrs.filter (fun e => e.1.1 != page) } : Pkg).bump (unitCtrl c) wRret
  let k2 := k1.updPlat (fun p => { p with rows := p.rows + 1 })
  if tgetD k.spares bank 0 < 8 then
    ({ k2 with spares := tmodD k2.spares bank 0 (· + 1) } : Pkg).retireReport 0x03 (page / 2 ^ 30)
  else (framesOfRow page).foldl Pkg.withdraw (k2.retireReport 0x03 (page / 2 ^ 30))

/-! ### The home's own view of a sector (R170, R265) -/

def HomeSec.fresh : HomeSec := { mts := 1, ser := 0, psn := false, cnt := 64 }
def Pkg.homeSec (k : Pkg) (lin : Nat) : HomeSec := tgetD k.home (lin / 64) HomeSec.fresh
def Pkg.setHome (k : Pkg) (lin : Nat) (h : HomeSec) : Pkg :=
  if h = HomeSec.fresh then { k with home := tdel k.home (lin / 64) } else { k with home := tset k.home (lin / 64) h }
/-- Tokens that the home holds (R170, R171). -/
def HomeSec.count (h : HomeSec) : Nat := if h.mts = 1 then 64 else if h.mts = 0 then 0 else h.cnt
/-- The home holds the owner token (R170). -/
def HomeSec.owner (h : HomeSec) : Bool := h.mts == 1 || h.mts == 3

def State.errsOf (s : State) (p lin : Nat) : List (Nat × Byte) :=
  (s.dramErrs.filter (fun e => e.pkg == p && e.sec == lin / 64)).map (fun e => (e.sym, e.err))
def State.clearErrs (s : State) (p lin : Nat) : State :=
  { s with dramErrs := s.dramErrs.filter (fun e => !(e.pkg == p && e.sec == lin / 64)) }

/-- Makes wrong symbols that the decoder did not mend part of the stored word (R263: miscorrection). -/
def State.bakeErrs (s : State) (p lin : Nat) (errs : List (Nat × Byte)) : State :=
  errs.foldl (fun s e =>
    if e.1 < 64 then
      let a := cellOf p (lin / 64 * 64 + e.1)
      { s with mem := writeByte s.mem a (readByte s.mem a ^^^ e.2) }
    else if e.1 = 64 then
      s.updPkg p (fun k =>
        let h := k.homeSec lin
        k.setHome lin { h with mts := h.mts ^^^ e.2.extractLsb' 6 2, ser := h.ser ^^^ e.2.extractLsb' 2 4,
                               psn := h.psn != e.2.getLsbD 1 })
    else s) s

/-- The linear address of a DRAM page's first usable byte (R264). -/
def pageBase (page : Nat) : Nat := page / 2 ^ 30 * 2 ^ 36 + page % 2 ^ 30 * 960

/-- One codeword as the decoder leaves it (R265): the Bools say that a symbol was corrected, and that the word is
uncorrectable and stays as it is. -/
def State.decodeWord (s : State) (p lin : Nat) : Bool × Bool × State :=
  let errs := s.errsOf p lin
  if errs.isEmpty then (false, false, s)
  else match rsDecode errs with
    | .clean => (false, false, (s.clearErrs p lin).bakeErrs p lin errs)
    | .corrected k e => (true, false, ((s.clearErrs p lin).bakeErrs p lin (errs ++ [(k, e)])).bump p (unitCtrl (ctrlOf lin)) wHcor)
    | .uncorrectable => (false, true, s)

/-- A row is copied to its spare: every codeword corrected where it can be (R268). -/
def State.copyRow (s : State) (p page : Nat) : State :=
  (List.range 15).foldl (fun s j => (s.decodeWord p (pageBase page + 64 * j)).2.2) s

/-- A struck entry of a controller's check-bit cache, met by a read of its page (R262): an uncorrectable one makes every
sector of the page a sector to wipe. -/
def State.checkBits (s : State) (p lin : Nat) : Bool × State :=
  let c := ctrlOf lin
  let page := pageOfLin lin
  match s.strikes.find? (fun x => x.pkg == p && x.word == .checkCache c page) with
  | none => (false, s)
  | some x =>
    let s1 : State := { s with strikes := s.strikes.filter (fun y => y != x) }
    if x.double then
      (true, (s1.bump p (unitCtrl c) wSunc).updPkg p (fun k => { k with
        wipesDue := (List.range 15).foldl (fun l j => addOnce l ((pageBase page + 64 * j) / 64)) k.wipesDue }))
    else (false, s1.bump p (unitCtrl c) wScor)

/-- Reads a codeword (R265): a corrected symbol is rewritten and counted, and four in one row retire it (R268).
The Bool is true when the codeword is uncorrectable. -/
def State.readCodeword (s : State) (p lin : Nat) : Bool × State :=
  let cb := s.checkBits p lin
  if cb.1 then cb
  else
    let r := cb.2.decodeWord p lin
    if r.2.1 then (true, r.2.2)
    else if !r.1 then (false, r.2.2)
    else
      let c := ctrlOf lin
      let row := pageOfLin lin
      let s2 := r.2.2.updPkg p (fun k => { k with rowErrs := tmodD k.rowErrs (row, c) 0 (· + 1) })
      if (s2.pkg p).rowCount row < 4 then (false, s2) else (false, (s2.copyRow p row).updPkg p (·.retireRow c row))

/-- The data of a sector of HBM under its reader's key. -/
def homeData (s : State) (p lin tag : Nat) : SectorData := sectorOf (homeBytes s p (lin / 64 * 64) 64 tag)

/-- A withdrawn frame is served with poison until the driver remaps it (R23). -/
def Pkg.isWithdrawn (k : Pkg) (lin : Nat) : Bool :=
  decide (stackOf lin * 2 ^ 20 + lin % 2 ^ 36 / 65536 ∈ k.plat.withdrawn)

/-- Writes a whole sector with a fresh codeword under a key (R263, R294). -/
def State.homeWrite (s : State) (p lin tag : Nat) (d : SectorData) : State :=
  let s1 := s.clearErrs p lin
  let s2 := s1.updPkg p (fun k => { k with keyed := if tag = 0 then tdel k.keyed (lin / 64) else tset k.keyed (lin / 64) tag })
  { s2 with mem := writeBytes s2.mem (cellOf p (lin / 64 * 64)) (sectorBytes d) }

/-- Writes bytes to host memory. -/
def State.hostWrite (s : State) (addr : Nat) (bs : List Byte) : State :=
  { s with mem := writeBytes s.mem (hostCell addr) bs }

/-! ### Sector 15 of a page (R263, R264) -/

/-- a times b in GF(2^8). -/
def gfMul (a b : Nat) : Nat := (List.range 8).foldl (fun acc i => if b / 2 ^ i % 2 = 1 then acc.xor (gfXn a i) else acc) 0

/-- The generator's lower coefficients: (x − 1)(x − α)(x − α²) = x³ + 7x² + 14x + 8, the highest first. -/
def rsGen : List Nat := [7, 14, 8]

/-- The three check bytes of a message, highest coefficient first: its remainder by the generator. -/
def rsCheck (msg : List Nat) : List Nat :=
  msg.foldl (fun r b => match r with
    | [r2, r1, r0] =>
      let f := b.xor r2
      [r1.xor (gfMul 7 f), r0.xor (gfMul 14 f), gfMul 8 f]
    | r => r) [0, 0, 0]

/-- The metadata byte of a sector (R170). -/
def HomeSec.byte (h : HomeSec) : Nat := 64 * h.mts.toNat + 4 * h.ser.toNat + 2 * Config.b2n h.psn

/-- Sector 15 of a DRAM page as it stands: data sector j's metadata byte and check bytes at bytes 4j to 4j + 3, with the wrong
symbols that errors left there; bytes 60 to 63 are 0. -/
def State.checkSector (s : State) (p page : Nat) : List Nat :=
  ((List.range 15).map (fun j =>
    let lin := pageBase page + 64 * j
    let meta_ := ((s.pkg p).homeSec lin).byte
    let msg := (List.range 64).map (fun i => (readByte s.mem (cellOf p (lin + i))).toNat) ++ [meta_]
    let errs := s.errsOf p lin
    let wrong := fun (k : Nat) => (errs.filter (fun e => e.1 == k)).foldl (fun x e => x.xor e.2.toNat) 0
    ([meta_] ++ rsCheck msg).mapIdx (fun i b => b.xor (wrong (64 + i))))).flatten ++ [0, 0, 0, 0]

/-! ### Physical reads by the device (R157, R265) -/

/-- A sector whose codeword a physical read found uncorrectable: its wipe recreation is due (R266). -/
def State.wipeDue (s : State) (p lin : Nat) : State :=
  s.updPkg p (fun k => { k with wipesDue := addOnce k.wipesDue (lin / 64) })

/-- Decodes the codewords of a range, one after the other; the Bool says that one of them gave poison. -/
def State.readSectors (s : State) (p : Nat) (secs : List Nat) : Bool × State :=
  secs.foldl (fun acc sec =>
    let r := acc.2.readCodeword p (64 * sec)
    if r.1 then (true, r.2.wipeDue p (64 * sec))
    else (acc.1 || ((r.2.pkg p).homeSec (64 * sec)).psn || (r.2.pkg p).isWithdrawn (64 * sec), r.2)) (false, s)

/-- The sectors of n bytes at a linear address. -/
def sectorsAt (lin n : Nat) : List Nat := (List.range ((lin % 64 + n + 63) / 64)).map (fun i => lin / 64 + i)

/-- A physical read by the device itself: tables, descriptors. The Bool says that it met poison. (log 92, DEDUCED) -/
def State.readPhys (s : State) (p pa n : Nat) : List Byte × Bool × State :=
  match physOf s.part pa with
  | .frame lin => let r := s.readSectors p (sectorsAt lin n); (homeBytes r.2 p lin n 0, r.1, r.2)
  | .host a => (readBytes s.mem (hostCell a) n, false, s)
  | .hole => (List.replicate n 0, false, s)

/-! ### The page-table walk (R157) -/

inductive Walk where
  | page (e : TlbEnt)
  | fault (k : FltKind)
  | poisoned
deriving DecidableEq, Repr

def pteWr (e : Nat) : Bool := e / 4 % 2 == 1
def pteNc (e : Nat) : Bool := e / 8 % 2 == 1
def ptePa (e : Nat) : Nat := e / 65536 % 2 ^ 40 * 65536

/-- The table index of a level (R157). -/
def walkIndex (va : Nat) : Nat → Nat
  | 0 => va / 2 ^ 42 % 16384
  | 1 => va / 2 ^ 30 % 4096
  | 2 => va / 2 ^ 21 % 512
  | _ => va / 2 ^ 16 % 32

/-- What an entry of a table says of an address: a page, a fault, or the next table. -/
def walkEntry (part : Part) (asid va level e : Nat) : Walk ⊕ Nat :=
  let leaf := e / 2 % 2 == 1
  if e % 2 = 0 then .inl (.fault .notPresent)
  else if e / 16 % 4096 ≠ 0 ∨ e / 2 ^ 56 ≠ 0 then .inl (.fault .malformed)
  else if (physOf part (ptePa e)).isHole then .inl (.fault .malformed)
  else if leaf then
    if level < 2 then .inl (.fault .malformed)
    else if level = 2 then
      if ptePa e % 2 ^ 21 ≠ 0 ∨ (physOf part (ptePa e + 2 ^ 21 - 1)).isHole then .inl (.fault .malformed)
      else .inl (.page { asid := asid, vbase := va / 2 ^ 21 * 2 ^ 21, size := 2 ^ 21, pabase := ptePa e, wr := pteWr e, nc := pteNc e })
    else .inl (.page { asid := asid, vbase := va / 65536 * 65536, size := 65536, pabase := ptePa e, wr := pteWr e, nc := pteNc e })
  else if level = 3 then .inl (.fault .malformed)
  else .inr (ptePa e)

/-- The walk from a table of a level on. An entry read as poison gives the access that consumes it poison. (log 92, DEDUCED) -/
def walkFrom (s : State) (p asid va : Nat) : Nat → Nat → Nat → Walk × State
  | 0, _, _ => (.fault .malformed, s)
  | fuel + 1, level, table =>
    let at_ := table + 8 * walkIndex va level
    if (physOf s.part at_).isHole then (.fault .malformed, s)
    else
      let r := s.readPhys p at_ 8
      if r.2.1 then (.poisoned, r.2.2)
      else match walkEntry s.part asid va level (leNat r.1) with
        | .inl w => (w, r.2.2)
        | .inr t => walkFrom r.2.2 p asid va fuel (level + 1) t

/-! ### Translation at the home (R157, R158) -/

/-- What translation finds: a sector of HBM at its home package, host memory, a fault for the driver, or a frame on
the wrong stack. -/
inductive Xlat where
  | frame (pkg lin : Nat) (wr nc : Bool)
  | host (pkg addr : Nat)
  | fault (k : FltKind)
  | misplaced
  | poisoned
deriving DecidableEq, Repr

/-- Every frame of the page lies on its home's stack, and an interleaved 2 MiB page maps the interleaved window
(R158). -/
def pageFits (part : Part) (h : HomeOf) (e : TlbEnt) : Bool :=
  (List.range (e.size / 65536)).all (fun u =>
    let want := if h.inter then (e.vbase / 65536 + u) % Config.hbmStacks part else h.stack
    match physOf part (e.pabase + 65536 * u) with
    | .frame lin => stackOf lin == want
    | .host _ => true
    | .hole => false) &&
  (e.size == 65536 || !h.inter || (decide (0x8000000000 ≤ e.pabase) && decide (e.pabase < 0x10000000000)))

def useEntry (part : Part) (h : HomeOf) (e : TlbEnt) (va : Nat) (write : Bool) : Xlat :=
  match physOf part (e.pabase + (va - e.vbase)) with
  | .hole => .fault .malformed
  | .host a =>
    if !pageFits part h e then .misplaced
    else if write && !e.wr then .fault .writeProtected else .host h.pkg a
  | .frame lin =>
    if !pageFits part h e then .misplaced
    else if write && !e.wr then .fault .writeProtected
    else .frame h.pkg lin e.wr e.nc

/-- A struck word of a controller's TLB, met by a look-up (R262). R262 gives an uncorrectable one no effect: the TLB is emptied
here and walks again (log 99, DESIGN CHOICE). -/
def State.checkTlb (s : State) (p c : Nat) : State :=
  match s.strikes.find? (fun x => x.pkg == p && x.word == .tlb c) with
  | none => s
  | some x =>
    let s1 : State := { s with strikes := s.strikes.filter (fun y => y != x) }
    if x.double then (s1.bump p (unitCtrl c) wSunc).updCtrl p c (fun t => { t with tlb := [] }) else s1.bump p (unitCtrl c) wScor

/-- Translates an access of package p: its home's TLB, or a walk from the root that the home package's context
holds, which fills the TLB. (log 7, DEDUCED) -/
def State.translate (s : State) (p asid va : Nat) (write : Bool) : Xlat × State :=
  match s.homeOf p asid va with
  | none => (.fault .noPlacement, s)
  | some h =>
    let c := h.ctrl va
    let s := s.checkTlb h.pkg c
    match (((s.pkg h.pkg).ctrl c).tlb.find? (fun e => e.asid == asid && decide (e.vbase ≤ va) && decide (va < e.vbase + e.size))) with
    | some e => (useEntry s.part h e va write, s)
    | none =>
      match tget (s.pkg h.pkg).ctxs asid with
      | none => (.fault .noPlacement, s)
      | some cx =>
        let w := walkFrom s h.pkg asid va 4 0 cx.root
        match w.1 with
        | .fault k => (.fault k, w.2)
        | .poisoned => (.poisoned, w.2)
        | .page e =>
          (useEntry s.part h e va write,
            w.2.updCtrl h.pkg c (fun t => { t with tlb := (t.tlb ++ [e]).drop (t.tlb.length + 1 - Config.tlbEntries) }))

end Sys2Proof.Machine
end

