-- ==== Sys2Proof/Machine/Fabric.lean ====
section
/-! DEFINITION. Machine/Fabric.lean: check codes, stale packets and the routing of messages (spec/10 R215, R216,
spec/11 R232, R236). -/

namespace Sys2Proof.Machine

/-! ### CRC-32C (R216) -/

def crcBit (c : Nat) : Nat := if c % 2 = 1 then (c / 2).xor 0x82F63B78 else c / 2
def crcByte (c : Nat) (b : Byte) : Nat :=
  crcBit (crcBit (crcBit (crcBit (crcBit (crcBit (crcBit (crcBit (c.xor b.toNat))))))))
/-- Reflected, initial value and final XOR 0xFFFF_FFFF (R216). -/
def crc32c (bs : List Byte) : Word := BitVec.ofNat 32 ((bs.foldl crcByte 0xFFFFFFFF).xor 0xFFFFFFFF)

/-- The check code of a write: address, data, ASID and incarnation in this order (R216). -/
def checkCode (va : Nat) (data : List Byte) (asid inc : Nat) : Word :=
  crc32c (leBytes 8 (va % 2 ^ 56) ++ data ++ leBytes 2 asid ++ leBytes 1 inc)

/-- The virtual address that a message's check code covers. -/
def Body.va (key : SectorKey) : Body → Nat
  | .farAtomic _ _ va _ _ _ _ => va
  | .uncachedRead _ _ va _ => va
  | .uncachedWrite _ _ va _ => va
  | .deposit _ _ _ va _ _ _ _ => va
  | .release _ _ _ _ va _ => va
  | _ => keyVa key

/-- The data bytes that a message carries (R216, R222). -/
def Body.data : Body → List Byte
  | .tok _ _ _ _ (some d) _ _ => sectorBytes d
  | .farAtomic _ _ _ op w64 ops _ =>
    let n := if w64 then 8 else 4
    (ops.map (fun o => leBytes n o.2.1.toNat ++ (if op == .cas then leBytes n o.2.2.toNat else []))).flatten
  | .uncachedWrite _ _ _ bs => bs
  | .uncachedReply _ r _ => r
  | .deposit _ _ size _ v _ _ _ => leBytes (2 ^ size) v.toNat
  | .release _ _ _ _ _ v => leBytes 4 v.toNat
  | .rrep _ _ _ _ (some d) _ => sectorBytes d
  | _ => []

def Msg.code (m : Msg) : Word := checkCode (m.body.va m.key) m.body.data m.asid m.inc
def Msg.checkOk (m : Msg) : Bool := m.check == m.code

/-! ### Agents -/

def Agent.pkg : Agent → Nat
  | .core p _ | .slice p _ | .ctrl p _ | .bte p _ | .port p _ => p
  | .chan p | .cp p => p
  | .none => 0

/-- The unit block of an agent (R285). -/
def Agent.unit : Agent → Nat
  | .core _ n => unitCore n
  | .slice _ n => unitSlice n
  | .ctrl _ n => unitCtrl n
  | .bte _ n => unitBte n
  | .port _ n => unitPort n
  | .chan _ => unitChan
  | .cp _ | .none => unitCp

/-- The agents of one package that keep an incarnation (R232). -/
def agentsOf (part : Part) (p : Nat) : List Agent :=
  (List.range (Config.cores part)).map (.core p) ++ (List.range (32 * Config.computeDies part)).map (.slice p) ++
  (List.range (Config.controllers part)).map (.ctrl p) ++ (List.range (8 * Config.computeDies part)).map (.bte p) ++
  (List.range (Config.ports part)).map (.port p) ++ [.chan p, .cp p]

/-- The incarnation that an agent honours for an ASID; none where the ASID is not resident (R232). -/
def State.agentInc (s : State) (a : Agent) (asid : Nat) : Option Nat :=
  let k := s.pkg a.pkg
  match tget k.adopted (a, asid) with
  | some i => some i
  | none => (tget k.ctxs asid).map (·.inc)

/-- A packet whose incarnation is not the one its target honours (R232). -/
def State.stale (s : State) (m : Msg) : Bool := s.agentInc m.dst m.asid != some m.inc

/-- Counts a stale packet at the agent that found it (R236, R237). -/
def State.cullet (s : State) (a : Agent) (word : Nat) : State := s.bump a.pkg a.unit word

/-! ### Routing (R215) -/

/-- The bytes that a packet takes in a flit; the spec gives no packet layout (log 16, DESIGN CHOICE). -/
def Msg.bytes (m : Msg) : Nat := 32 + m.body.data.length
/-- The bytes that wait in an egress queue (R215; log 16, DESIGN CHOICE). -/
def Port.bytes (p : Port) : Nat := p.egress.foldl (fun n m => n + m.bytes) 0 - p.part
def Port.kstop (p : Port) : Bool := p.enc && decide (0xFFFFFFFF ≤ p.lkcnt)

def State.portsTo (s : State) (p j : Nat) : List Nat :=
  (List.range (Config.ports s.part)).filter (fun n =>
    let t := (s.pkg p).port n
    !t.inReset && !t.retired && t.peer == j && j != p && (tget (s.pkg p).ports n).isSome)

/-- A direct link is usable: up, not key-stopped, at most 48 KiB waiting (R215). -/
def State.usable (s : State) (p n : Nat) : Bool :=
  let t := (s.pkg p).port n
  t.up && !t.kstop && decide (t.bytes ≤ 48 * 1024)

/-- Of some ports, the one with the fewest bytes waiting, the lower number on a tie (R215). -/
def State.leastOf (s : State) (p : Nat) (ns : List Nat) : Option Nat :=
  ns.foldl (fun best n => match best with
    | none => some n
    | some b => if ((s.pkg p).port n).bytes < ((s.pkg p).port b).bytes then some n else some b) none
def State.isUp (s : State) (p n : Nat) : Bool := ((s.pkg p).port n).up
/-- The usable direct port to j (R215). -/
def State.bestPort (s : State) (p j : Nat) : Option Nat := s.leastOf p ((s.portsTo p j).filter (s.usable p))
/-- Of the links to a package that are up, the one taken: a usable one where there is one. -/
def State.upPort (s : State) (p k : Nat) : Option Nat :=
  (s.bestPort p k).orElse (fun _ => s.leastOf p ((s.portsTo p k).filter (s.isUp p)))

/-- The package that a detour to j passes (R215): the lowest with direct links to both ends up. -/
def State.detour (s : State) (p j : Nat) : Option Nat :=
  (s.pod.filter (fun k => k != p && k != j && (s.portsTo p k).any (s.isUp p) &&
    (s.portsTo k j).any (s.isUp k))).foldl (fun best k => match best with
      | none => some k
      | some b => some (min b k)) none

def State.enqueue (s : State) (p n : Nat) (m : Msg) : State :=
  s.updPort p n (fun t => { t with egress := t.egress ++ [m] })

/-- A packet without a path waits at an egress queue toward its target, or, where no port leads there, beside them (R215). -/
def State.strand (s : State) (p : Nat) (m : Msg) : State :=
  match s.leastOf p (s.portsTo p m.dst.pkg) with
  | some n => s.enqueue p n { m with hops := m.hops + 1 }
  | none => s.updPkg p (fun k => { k with noPath := k.noPath ++ [m] })

/-- Puts a packet into a queue of package p, whose residence goes on from `since`: into the fabric where the target is in p,
otherwise into an egress queue. A packet that was detoured once is not detoured again. -/
def State.place (s : State) (p : Nat) (m : Msg) : State :=
  let j := m.dst.pkg
  if j = p then { s with fabric := s.fabric ++ [m] }
  else match s.bestPort p j with
    | some n => s.enqueue p n { m with hops := m.hops + 1 }
    | none => match (if m.hops = 0 then s.detour p j else none) with
      | some k => match s.upPort p k with
        | some n => (s.updPort p n (fun t => { t with detr := satInc t.detr })).enqueue p n { m with hops := m.hops + 1 }
        | none => s.strand p m
      | none => s.strand p m

/-- A packet enters its next queue: its residence begins (R184). -/
def State.route (s : State) (p : Nat) (m : Msg) : State := s.place p { m with since := s.now }

/-- Builds a message with its check code and sends it (R172, R216). -/
def State.send (s : State) (src dst : Agent) (asid inc : Nat) (key : SectorKey) (pa : Nat) (body : Body)
    (scope : Nat := 0) : State :=
  let m : Msg := { src := src, dst := dst, asid := asid, inc := inc, key := key, pa := pa, body := body, check := 0,
                   scope := scope, hops := 0, since := s.now }
  s.route src.pkg { m with check := m.code }

/-- The key of messages that name no sector. -/
def noKey : SectorKey := { home := 0, asid := 0, sec := 0 }

end Sys2Proof.Machine
end

