-- ==== Sys2Proof/Machine/Regs.lean ====
section
/-! DEFINITION. Machine/Regs.lean: a group's registers, predicates and flags (spec/04 R69, R70, R73; R10). -/

namespace Sys2Proof.Machine

/-- What an unwritten register n of lane i holds (R69; log 2, DESIGN CHOICE). -/
def RegFill.value (f : RegFill) (i n : Nat) : Word :=
  match f with
  | .free uid => Config.launchWord uid i n
  | .word w => w

namespace Group

/-- V[i][n]: v0 reads 0 (R10). -/
def v (g : Group) (i n : Nat) : Word :=
  if n = 0 then 0 else tgetD (g.lane i).v n ((g.lane i).fill.value i n)
/-- X[i][n]: V[i][n+1] is the high word, and x0 reads 0 (R10, R69). -/
def x (g : Group) (i n : Nat) : DWord := if n = 0 then 0 else g.v i (n + 1) ++ g.v i n
/-- P[i][n]: p7 reads 1 (R10). -/
def p (g : Group) (i n : Nat) : Bool := if n = 7 then true else bit (g.lane i).p n
/-- A guard's truth in lane i (R78). -/
def guard (g : Group) (i : Nat) (gd : Guard) : Bool := g.p i gd.g.toNat != gd.n

/-- Applies f to every lane. -/
def mapLanes (g : Group) (f : Nat → Lane → Lane) : Group := { g with lanes := laneList.map (fun i => f i (g.lane i)) }
/-- Applies f to the lanes of m. -/
def onLanes (g : Group) (m : Mask) (f : Nat → Lane → Lane) : Group :=
  g.mapLanes (fun i l => if bit m i then f i l else l)

end Group

namespace Lane
/-- Writes v_n: a write to v0 is ignored (R10). -/
def setV (l : Lane) (n : Nat) (w : Word) : Lane := if n = 0 then l else { l with v := tset l.v n w }
/-- Writes the pair at even n: a write to x0 is ignored, and leaves v1 unchanged (R69). -/
def setX (l : Lane) (n : Nat) (w : DWord) : Lane :=
  if n = 0 then l else (l.setV n (w.extractLsb' 0 32)).setV (n + 1) (w.extractLsb' 32 32)
/-- Writes p_n: a write to p7 is ignored (R10). -/
def setP (l : Lane) (n : Nat) (b : Bool) : Lane :=
  if n = 7 then l else { l with p := if b then l.p ||| BitVec.ofNat 7 (2 ^ n) else l.p &&& ~~~ BitVec.ofNat 7 (2 ^ n) }
/-- Sets sticky flags (R73, R111). -/
def orFf (l : Lane) (f : BitVec 5) : Lane := { l with ff := l.ff ||| f }
def setPc (l : Lane) (a : Addr) : Lane := { l with pc := a }
end Lane

/-- Sign- or zero-extends a loaded value of n bytes to a register (R91). -/
def extendTo32 (n : Nat) (sx : Bool) (v : Nat) : Word :=
  if sx && (n == 1 || n == 2) then BitVec.ofInt 32 (signedOf (8 * n) v) else BitVec.ofNat 32 v

/-- Writes a loaded value: a pair for 8 bytes. -/
def Lane.setLoaded (l : Lane) (dst n : Nat) (sx : Bool) (v : Nat) : Lane :=
  if n = 8 then l.setX dst (BitVec.ofNat 64 v) else l.setV dst (extendTo32 n sx v)

/-! ### The scoreboard (R162) -/

def Group.isPending (g : Group) (n : Nat) : Bool := n != 0 && g.pend.any (fun e => e.reg == n)
def Group.clearPend (g : Group) (acc : Nat) : Group := { g with pend := g.pend.filter (fun e => e.acc != acc) }

end Sys2Proof.Machine
end

