-- ==== Sys2Proof/Machine/Flags.lean ====
section
/-! DEFINITION. Machine/Flags.lean: number formats, the one rounding, and the flags of s.fflags
(spec/05 R102 to R114, spec/04 R73). -/

namespace Sys2Proof.Machine

/-! ### The flags (R73) -/

def ffNv : BitVec 5 := 1
def ffDz : BitVec 5 := 2
def ffOf : BitVec 5 := 4
def ffUf : BitVec 5 := 8
def ffNx : BitVec 5 := 16
def ffIf (c : Bool) (f : BitVec 5) : BitVec 5 := if c then f else 0

/-! ### Formats (R102, R103) -/

/-- A format: exponent and fraction widths, bias, whether it has infinities and NaNs, and whether it follows the
IEEE layout (top exponent field special). -/
structure Fmt where
  ew : Nat
  mw : Nat
  bias : Nat
  ieee : Bool
  hasNan : Bool
  /-- A NaN whose top fraction bit is 0 signals. -/
  snan : Bool
deriving DecidableEq, Repr

def f64 : Fmt := { ew := 11, mw := 52, bias := 1023, ieee := true, hasNan := true, snan := true }
def f32 : Fmt := { ew := 8, mw := 23, bias := 127, ieee := true, hasNan := true, snan := true }
def f16 : Fmt := { ew := 5, mw := 10, bias := 15, ieee := true, hasNan := true, snan := true }
def bf16 : Fmt := { ew := 8, mw := 7, bias := 127, ieee := true, hasNan := true, snan := true }
def e4m3 : Fmt := { ew := 4, mw := 3, bias := 7, ieee := false, hasNan := true, snan := false }
def e5m2 : Fmt := { ew := 5, mw := 2, bias := 15, ieee := true, hasNan := true, snan := false }
def e2m1 : Fmt := { ew := 2, mw := 1, bias := 1, ieee := false, hasNan := false, snan := false }
def fa64 : Fmt := { ew := 15, mw := 48, bias := 16383, ieee := true, hasNan := true, snan := false }

namespace Fmt
def width (f : Fmt) : Nat := 1 + f.ew + f.mw
def emin (f : Fmt) : Int := 1 - (f.bias : Int)
def topE (f : Fmt) : Nat := 2 ^ f.ew - 1
/-- The largest finite value as significand and exponent (R102). -/
def maxM (f : Fmt) : Nat := if f.ieee || !f.hasNan then 2 ^ (f.mw + 1) - 1 else 2 ^ (f.mw + 1) - 2
def maxE (f : Fmt) : Int := (if f.ieee then (f.topE : Int) - 1 else f.topE) - f.bias - f.mw
end Fmt

/-! ### Values -/

/-- A value of a format: a NaN, an infinity, or (−1)^neg · m · 2^e exactly, with signed zero at m = 0. -/
inductive FVal where
  | nan (signalling : Bool)
  | inf (neg : Bool)
  | fin (neg : Bool) (m : Nat) (e : Int)
deriving DecidableEq, Repr

namespace FVal
def isNan : FVal → Bool
  | .nan _ => true
  | _ => false
def isSnan : FVal → Bool
  | .nan s => s
  | _ => false
def isInf : FVal → Bool
  | .inf _ => true
  | _ => false
def isZero : FVal → Bool
  | .fin _ 0 _ => true
  | _ => false
def isFin : FVal → Bool
  | .fin _ _ _ => true
  | _ => false
def sign : FVal → Bool
  | .nan _ => false
  | .inf n => n
  | .fin n _ _ => n
def neg : FVal → FVal
  | .nan s => .nan s
  | .inf n => .inf (!n)
  | .fin n m e => .fin (!n) m e
def ofInt (x : Int) : FVal := .fin (decide (x < 0)) x.natAbs 0
end FVal

/-- The value that bits encode (R102, R103). -/
def Fmt.decode (f : Fmt) (x : Nat) : FVal :=
  let sgn := x / 2 ^ (f.ew + f.mw) % 2 == 1
  let e := x / 2 ^ f.mw % 2 ^ f.ew
  let m := x % 2 ^ f.mw
  if f.ieee && e == f.topE then
    if m = 0 then .inf sgn else .nan (f.snan && m / 2 ^ (f.mw - 1) == 0)
  else if !f.ieee && f.hasNan && e == f.topE && m == 2 ^ f.mw - 1 then .nan false
  else if e = 0 then .fin sgn m (f.emin - f.mw)
  else .fin sgn (2 ^ f.mw + m) ((e : Int) - f.bias - f.mw)

/-- The canonical NaN (R103). E2M1 has none; a NaN becomes +0 there (R113). -/
def Fmt.qnan (f : Fmt) : Nat :=
  if !f.hasNan then 0
  else if f.ieee then f.topE * 2 ^ f.mw + 2 ^ (f.mw - 1) else f.topE * 2 ^ f.mw + 2 ^ f.mw - 1

def Fmt.signBit (f : Fmt) (n : Bool) : Nat := if n then 2 ^ (f.ew + f.mw) else 0
def Fmt.maxFinite (f : Fmt) (n : Bool) : FVal := .fin n f.maxM f.maxE

/-- The bits of a value that the format holds: the significand is normalised first. -/
def Fmt.encode (f : Fmt) : FVal → Nat
  | .nan _ => f.qnan
  | .inf n => if f.ieee then f.signBit n + f.topE * 2 ^ f.mw else f.qnan
  | .fin n m e =>
    if m = 0 then f.signBit n
    else
      let l := m.log2
      let exp := (l : Int) + e
      if exp < f.emin then f.signBit n + (if 0 ≤ e - (f.emin - f.mw) then m * 2 ^ (e - (f.emin - f.mw)).toNat
        else m / 2 ^ ((f.emin - f.mw) - e).toNat)
      else
        let frac := if l ≤ f.mw then m * 2 ^ (f.mw - l) else m / 2 ^ (l - f.mw)
        f.signBit n + ((exp + f.bias).toNat) * 2 ^ f.mw + (frac - 2 ^ f.mw)

/-! ### The one rounding (R109) -/

/-- Rounds a quotient with remainder rem of 2^sh to an integer in a mode. -/
def roundInt (mode : Rm) (neg : Bool) (n rem sh : Nat) : Nat :=
  if rem = 0 then n
  else
    let half := 2 ^ (sh - 1)
    match mode with
    | .rn => if rem > half ∨ (rem = half ∧ n % 2 = 1) then n + 1 else n
    | .rna => if rem ≥ half then n + 1 else n
    | .rz => n
    | .rd => if neg then n + 1 else n
    | .ru => if neg then n else n + 1

/-- m · 2^e > m' · 2^e'. -/
def gtScaled (m : Nat) (e : Int) (m' : Nat) (e' : Int) : Bool :=
  if e' ≤ e then m * 2 ^ (e - e').toNat > m' else m > m' * 2 ^ (e' - e).toNat

/-- What overflow gives (R109). -/
def ovf (f : Fmt) (mode : Rm) (neg : Bool) : FVal :=
  match mode with
  | .rn | .rna => .inf neg
  | .rz => f.maxFinite neg
  | .rd => if neg then .inf true else f.maxFinite false
  | .ru => if neg then f.maxFinite true else .inf false

/-- round(x, fmt, mode) with the flags of R111 for the rounding alone. -/
def roundTo (f : Fmt) (mode : Rm) : FVal → FVal × BitVec 5
  | .nan _ => (.nan false, 0)
  | .inf n => (.inf n, 0)
  | .fin n m e =>
    if m = 0 then (.fin n 0 0, 0)
    else
      let q : Int := max ((m.log2 : Int) + e) f.emin - f.mw
      let (y, inexact) : Nat × Bool :=
        if q ≤ e then (m * 2 ^ (e - q).toNat, false)
        else
          let sh := (q - e).toNat
          (roundInt mode n (m / 2 ^ sh) (m % 2 ^ sh) sh, m % 2 ^ sh != 0)
      if gtScaled y q f.maxM f.maxE then (ovf f mode n, ffOf ||| ffNx)
      else
        let tiny := y == 0 || (q == f.emin - f.mw && decide (y < 2 ^ f.mw))
        (.fin n y q, if inexact then (if tiny then ffUf ||| ffNx else ffNx) else 0)

/-- Rounds and encodes. -/
def roundEnc (f : Fmt) (mode : Rm) (v : FVal) : Nat × BitVec 5 :=
  let r := roundTo f mode v
  (f.encode r.1, r.2)

/-! ### Exact arithmetic -/

/-- The exact product; 0·∞ is a NaN (R111). -/
def fmulEx : FVal → FVal → FVal
  | .nan _, _ => .nan false
  | _, .nan _ => .nan false
  | .inf a, .inf b => .inf (a != b)
  | .inf a, .fin b m _ => if m = 0 then .nan false else .inf (a != b)
  | .fin a m _, .inf b => if m = 0 then .nan false else .inf (a != b)
  | .fin a m e, .fin b m' e' => .fin (a != b) (m * m') (e + e')

/-- The exact sum; ∞ − ∞ is a NaN; an exact zero sum takes the sign of IEEE 754 (R110). -/
def faddEx (mode : Rm) : FVal → FVal → FVal
  | .nan _, _ => .nan false
  | _, .nan _ => .nan false
  | .inf a, .inf b => if a = b then .inf a else .nan false
  | .inf a, .fin _ _ _ => .inf a
  | .fin _ _ _, .inf b => .inf b
  | .fin a m e, .fin b m' e' =>
    let lo := min e e'
    let x : Int := (m * 2 ^ (e - lo).toNat : Nat)
    let y : Int := (m' * 2 ^ (e' - lo).toNat : Nat)
    let sum := (if a then -x else x) + (if b then -y else y)
    if sum = 0 then .fin (if m = 0 ∧ m' = 0 ∧ a = b then a else mode == .rd) 0 0
    else .fin (decide (sum < 0)) sum.natAbs lo

/-- The quotient to 64 or more bits, with an odd last bit where it is not exact. -/
def fdivEx : FVal → FVal → FVal
  | .nan _, _ => .nan false
  | _, .nan _ => .nan false
  | .inf _, .inf _ => .nan false
  | .inf a, .fin b _ _ => .inf (a != b)
  | .fin a _ _, .inf b => .fin (a != b) 0 0
  | .fin a m e, .fin b m' e' =>
    if m' = 0 then (if m = 0 then .nan false else .inf (a != b))
    else
      let k := m'.log2 + 66
      let q := m * 2 ^ k / m'
      .fin (a != b) (2 * q + (if m * 2 ^ k % m' = 0 then 0 else 1)) (e - e' - k - 1)

/-- floor of the square root, bit by bit. -/
def isqrtFrom (n : Nat) : Nat → Nat → Nat
  | 0, r => r
  | i + 1, r => if (r + 2 ^ i) * (r + 2 ^ i) ≤ n then isqrtFrom n i (r + 2 ^ i) else isqrtFrom n i r
def isqrt (n : Nat) : Nat := isqrtFrom n (n.log2 / 2 + 1) 0

/-- m · 2^e with an even exponent. -/
def evenExp (m : Nat) (e : Int) : Nat × Int := if e % 2 = 0 then (m, e) else (2 * m, e - 1)

/-- √x (R118). -/
def fsqrtEx : FVal → FVal
  | .nan _ => .nan false
  | .inf n => if n then .nan false else .inf false
  | .fin n m e =>
    if m = 0 then .fin n 0 0
    else if n then .nan false
    else
      let (m1, e1) := evenExp m e
      let big := m1 * 2 ^ 160
      let r := isqrt big
      .fin false (2 * r + (if r * r = big then 0 else 1)) (e1 / 2 - 80 - 1)

/-- 1/√x (R118). -/
def frsqrtEx : FVal → FVal
  | .nan _ => .nan false
  | .inf n => if n then .nan false else .fin false 0 0
  | .fin n m e =>
    if m = 0 then .inf n
    else if n then .nan false
    else
      let (m1, e1) := evenExp m e
      let big := 2 ^ 320 / m1
      let r := isqrt big
      .fin false (2 * r + (if r * r * m1 = 2 ^ 320 then 0 else 1)) (-(e1 / 2) - 160 - 1)

/-! ### Operations with their flags (R110, R111) -/

/-- NV of an operation: a signalling operand, or a NaN made from operands that are none. -/
def nvOf (args : List FVal) (res : FVal) : BitVec 5 :=
  ffIf (args.any FVal.isSnan || (res.isNan && !args.any FVal.isNan)) ffNv

/-- DZ: an infinite result from finite operands, before rounding. -/
def dzOf (args : List FVal) (res : FVal) : BitVec 5 := ffIf (res.isInf && args.all FVal.isFin) ffDz

/-- The encoded result of an exact value, its rounding flags and the flags of its operands. -/
def fpFinish (f : Fmt) (mode : Rm) (args : List FVal) (res : FVal) : Nat × BitVec 5 :=
  let r := roundEnc f mode res
  (r.1, r.2 ||| nvOf args res ||| dzOf args res)

def fpAdd (f : Fmt) (mode : Rm) (a b : Nat) : Nat × BitVec 5 :=
  let x := f.decode a; let y := f.decode b
  fpFinish f mode [x, y] (faddEx mode x y)
def fpMul (f : Fmt) (mode : Rm) (a b : Nat) : Nat × BitVec 5 :=
  let x := f.decode a; let y := f.decode b
  fpFinish f mode [x, y] (fmulEx x y)
/-- a·b + c rounded once (R110): a 0·∞ product sets NV even beside a quiet NaN (R335; log 24, DEDUCED). -/
def fpFma (f : Fmt) (mode : Rm) (a b c : Nat) : Nat × BitVec 5 :=
  let x := f.decode a; let y := f.decode b; let z := f.decode c
  let r := fpFinish f mode [x, y, z] (faddEx mode (fmulEx x y) z)
  (r.1, r.2 ||| nvOf [x, y] (fmulEx x y))
def fpDiv (f : Fmt) (mode : Rm) (a b : Nat) : Nat × BitVec 5 :=
  let x := f.decode a; let y := f.decode b
  fpFinish f mode [x, y] (fdivEx x y)

/-- x < y on values that are no NaN; −0 = +0. -/
def fltv : FVal → FVal → Bool
  | .inf a, .inf b => a && !b
  | .inf a, .fin _ _ _ => a
  | .fin _ _ _, .inf b => !b
  | .fin a m e, .fin b m' e' =>
    let lo := min e e'
    let x : Int := (m * 2 ^ (e - lo).toNat : Nat)
    let y : Int := (m' * 2 ^ (e' - lo).toNat : Nat)
    decide ((if a then -x else x) < (if b then -y else y))
  | _, _ => false
def feqv (x y : FVal) : Bool := !x.isNan && !y.isNan && !fltv x y && !fltv y x

/-- minimumNumber and maximumNumber, with −0 below +0 (R104). -/
def fpMinMax (f : Fmt) (isMax : Bool) (a b : Nat) : Nat × BitVec 5 :=
  let x := f.decode a
  let y := f.decode b
  let nv := ffIf (x.isSnan || y.isSnan) ffNv
  if x.isNan && y.isNan then (f.qnan, nv)
  else if x.isNan then (b, nv)
  else if y.isNan then (a, nv)
  else
    let less := fltv x y || (feqv x y && x.sign && !y.sign)
    (if less != isMax then a else b, nv)

/-! ### Conversions (R112 to R114) -/

/-- cvt_fp (R113) with the flags of R111. -/
def cvtFp (dt : Fmt) (mode : Rm) (nosat : Bool) (x : FVal) : Nat × BitVec 5 :=
  match x with
  | .nan s => (dt.qnan, ffIf (s || !dt.hasNan) ffNv)
  | .inf n =>
    if dt.ieee then (dt.encode (.inf n), 0)
    else if nosat then (dt.qnan, ffNv)
    else (dt.encode (dt.maxFinite n), ffNv)
  | .fin n m e =>
    let r := roundTo dt mode (.fin n m e)
    if !nosat && r.1.isInf then (dt.encode (dt.maxFinite n), ffOf ||| ffNx) else (dt.encode r.1, r.2)

/-- The bounds of an integer type. -/
def intMin (t : Ty) : Int := if t.isSigned then -(2 : Int) ^ (t.width - 1) else 0
def intMax (t : Ty) : Int := if t.isSigned then (2 : Int) ^ (t.width - 1) - 1 else (2 : Int) ^ t.width - 1

/-- A finite value rounded to an integral one. -/
def toIntegral (mode : Rm) (n : Bool) (m : Nat) (e : Int) : Int × Bool :=
  if 0 ≤ e then ((if n then -1 else 1) * ((m * 2 ^ e.toNat : Nat) : Int), false)
  else
    let sh := (-e).toNat
    let y := roundInt mode n (m / 2 ^ sh) (m % 2 ^ sh) sh
    ((if n then -1 else 1) * (y : Int), m % 2 ^ sh != 0)

/-- cvt_int from an FP source (R114): the integer, and NV or NX. -/
def cvtInt (t : Ty) (mode : Rm) (x : FVal) : Int × BitVec 5 :=
  match x with
  | .nan _ => (0, ffNv)
  | .inf n => (if n then intMin t else intMax t, ffNv)
  | .fin n m e =>
    let r := toIntegral mode n m e
    if r.1 < intMin t then (intMin t, ffNv)
    else if intMax t < r.1 then (intMax t, ffNv)
    else (r.1, ffIf r.2 ffNx)

/-- From an integer source (R114): clamps, or keeps the low bits. -/
def cvtIntInt (t : Ty) (nosat : Bool) (x : Int) : Int :=
  if intMin t ≤ x ∧ x ≤ intMax t then x
  else if nosat then
    let y := x.emod (2 ^ t.width)
    if t.isSigned && decide ((2 : Int) ^ (t.width - 1) ≤ y) then y - 2 ^ t.width else y
  else if x < intMin t then intMin t else intMax t

/-- The format of a floating-point type code (R81, R102); E8M0 and the integers have none. -/
def Ty.fmt : Ty → Fmt
  | .f16 => f16
  | .bf16 => bf16
  | .f64 => f64
  | .e4m3 => e4m3
  | .e5m2 => e5m2
  | .e2m1 => e2m1
  | .fa64 => fa64
  | _ => f32

/-- The value of an E8M0 code (R106). -/
def e8m0 (c : Nat) : FVal := if c % 256 = 255 then .nan false else .fin false 1 ((c % 256 : Nat) - 127)

/-- The integer that bits of a type hold. -/
def intOf (t : Ty) (x : Nat) : Int := if t.isSigned then signedOf t.width x else ((x % 2 ^ t.width : Nat) : Int)

/-- A converted integer as register bits: signed types are sign-extended to 32 bits (R112). -/
def intBits (t : Ty) (y : Int) : Nat := (y.emod (2 ^ (if t.width = 64 then 64 else 32))).toNat

/-- One conversion (R112 to R114): the destination's bits and the flags. -/
def convert (dt st : Ty) (mode : Rm) (nosat : Bool) (x : Nat) : Nat × BitVec 5 :=
  let x := x % 2 ^ st.width
  if st.isInt then
    if dt.isInt then (intBits dt (cvtIntInt dt nosat (intOf st x)), 0)
    else cvtFp (Ty.fmt dt) mode nosat (FVal.ofInt (intOf st x))
  else
    let v := if st = .e8m0 then e8m0 x else (Ty.fmt st).decode x
    if dt.isInt then
      let r := cvtInt dt mode v
      (intBits dt r.1, r.2)
    else cvtFp (Ty.fmt dt) mode nosat v

end Sys2Proof.Machine
end

