-- ==== Sys2Proof/Machine/Functions.lean ====
section
/-! DEFINITION. Machine/Functions.lean: the correctly rounded functions of the special-function unit (spec/05 R118).
Each is evaluated in fixed point far beyond the precision that any FP32 rounding needs, and is given an odd last bit,
so that the one rounding of R109 finds the exact function's place (log 11). -/

namespace Sys2Proof.Machine

/-- Bits after the point. -/
def fxP : Nat := 320
def fxOne : Nat := 2 ^ fxP
/-- floor(ln 2 · 2^320). -/
def fxLn2 : Nat := 0xb17217f7d1cf79abc9e3b39803f2f6af40f343267298b62d8a0d175b8baafa2be7b876206debac98
/-- floor(π/2 · 2^480). -/
def fxHalfPi : Nat := 0x1921fb54442d18469898cc51701b839a252049c1114cf98e804177d4c76273644a29410f31c6809bbdf2a33679a748636605614dbe4be286e9fc26ada

def fxMul (a b : Nat) : Nat := a * b / fxOne

/-- Σ t^k / k! from the term after k, n terms. -/
def expTerms (t : Nat) : Nat → Nat → Nat → Nat
  | 0, _, _ => 0
  | n + 1, k, term => term + expTerms t n (k + 1) (fxMul term t / (k + 1))
/-- e^t for 0 ≤ t < 1. (log 11, DEDUCED) -/
def fxExp (t : Nat) : Nat := expTerms t 90 0 fxOne

/-- Σ z^(2k+1) / (2k+1). -/
def atanhTerms (z2 : Nat) : Nat → Nat → Nat → Nat
  | 0, _, _ => 0
  | n + 1, k, pow => pow / (2 * k + 1) + atanhTerms z2 n (k + 1) (fxMul pow z2)
/-- ln y for 1 ≤ y < 2. (log 11, DEDUCED) -/
def fxLn (y : Nat) : Nat :=
  let z := (y - fxOne) * fxOne / (y + fxOne)
  2 * atanhTerms (fxMul z z) 110 0 z

/-- Alternating series of sine (from term k = 1) or cosine (k = 0), as positive and negative parts. -/
def trigTerms (r2 : Nat) : Nat → Nat → Nat → Nat × Nat
  | 0, _, _ => (0, 0)
  | n + 1, k, term =>
    let rest := trigTerms r2 n (k + 2) (fxMul term r2 / ((k + 1) * (k + 2)))
    (term + rest.2, rest.1)
/-- Sine in fixed point (R118; log 11, DEDUCED). -/
def fxSin (r : Nat) : Nat := let t := trigTerms (fxMul r r) 50 1 r; t.1 - t.2
/-- Cosine in fixed point (R118; log 11, DEDUCED). -/
def fxCos (r : Nat) : Nat := let t := trigTerms (fxMul r r) 50 0 fxOne; t.1 - t.2

/-- A fixed-point value with an odd last bit below it. (log 11, DEDUCED) -/
def fxVal (neg : Bool) (x : Nat) (e : Int) : FVal := .fin neg (2 * x + 1) (e - fxP - 1)

/-- 2^x for finite x (R118). -/
def fex2Val (n : Bool) (m : Nat) (e : Int) : FVal :=
  if m = 0 then .fin false 1 0
  else if 0 ≤ (m.log2 : Int) + e - 8 then (if n then .fin false 1 (-200) else .fin false 1 128)
  else
    -- |x| < 256 as a fixed-point number; every FP32 value is exact in 320 bits
    let X : Int := (if n then -1 else 1) * ((m * 2 ^ (e + fxP).toNat : Nat) : Int)
    let k := X / (fxOne : Int)
    let f := (X - k * fxOne).toNat
    if f = 0 then .fin false 1 k
    else fxVal false (fxExp (fxMul f fxLn2)) k

/-- log2 x for finite x > 0 (R118). -/
def flg2Val (m : Nat) (e : Int) : FVal :=
  let l := m.log2
  let k : Int := (l : Int) + e
  if m = 2 ^ l then FVal.ofInt k
  else
    let y := m * 2 ^ fxP / 2 ^ l
    let f : Int := (fxLn y * fxOne / fxLn2 : Nat)
    let r := k * fxOne + f
    fxVal (decide (r < 0)) r.natAbs 0

/-- x reduced by multiples of π/2: the multiple modulo 4 and the rest in fixed point. -/
def reduceQuarter (m : Nat) (e : Int) : Nat × Nat :=
  let X := m * 2 ^ (e + 480).toNat
  let k := X / fxHalfPi
  (k % 4, (X - k * fxHalfPi) / 2 ^ 160)

/-- sin of |x| for finite nonzero x, with its sign. -/
def sinVal (neg : Bool) (m : Nat) (e : Int) : FVal :=
  let (q, r) := reduceQuarter m e
  match q with
  | 0 => fxVal neg (fxSin r) 0
  | 1 => fxVal neg (fxCos r) 0
  | 2 => fxVal (!neg) (fxSin r) 0
  | _ => fxVal (!neg) (fxCos r) 0
def cosVal (m : Nat) (e : Int) : FVal :=
  let (q, r) := reduceQuarter m e
  match q with
  | 0 => fxVal false (fxCos r) 0
  | 1 => fxVal true (fxSin r) 0
  | 2 => fxVal true (fxCos r) 0
  | _ => fxVal false (fxSin r) 0

/-- tanh of |x| for finite nonzero x, with its sign; from 16 on it lies within 2^-40 of 1. -/
def tanhVal (neg : Bool) (m : Nat) (e : Int) : FVal :=
  if 0 ≤ (m.log2 : Int) + e - 4 then .fin neg (2 ^ 64 - 1) (-64)
  else
    let X := 2 * (m * 2 ^ (e + fxP).toNat)
    let k := X / fxLn2
    let E := fxExp (X - k * fxLn2) * 2 ^ k
    fxVal neg ((E - fxOne) * fxOne / (E + fxOne)) 0

/-- The functions of R118 on one FP32 operand, with the flags of R111. -/
inductive SfuOp where
  | rcp | rsq | sqt | ex2 | lg2 | sin | cos | tnh
deriving DecidableEq, Repr

/-- f(x), exact or with an odd last bit (R118). -/
def sfuExact (op : SfuOp) (x : FVal) : FVal :=
  match x with
  | .nan _ => .nan false
  | .inf n =>
    match op with
    | .rcp => .fin n 0 0
    | .rsq => frsqrtEx x
    | .sqt => fsqrtEx x
    | .ex2 => if n then .fin false 0 0 else .inf false
    | .lg2 => if n then .nan false else .inf false
    | .sin | .cos => .nan false
    | .tnh => .fin n 1 0
  | .fin n m e =>
    match op with
    | .rcp => fdivEx (.fin false 1 0) x
    | .rsq => frsqrtEx x
    | .sqt => fsqrtEx x
    | .ex2 => fex2Val n m e
    | .lg2 => if m = 0 then .inf true else if n then .nan false else flg2Val m e
    | .sin => if m = 0 then .fin n 0 0 else sinVal n m e
    | .cos => if m = 0 then .fin false 1 0 else cosVal m e
    | .tnh => if m = 0 then .fin n 0 0 else tanhVal n m e

/-- The functions of R118, rounded once, and their flags (log 11, DEDUCED). -/
def sfu (op : SfuOp) (mode : Rm) (x : Nat) : Nat × BitVec 5 :=
  let v := f32.decode x
  fpFinish f32 mode [v] (sfuExact op v)

end Sys2Proof.Machine
end

