-- ==== Sys2Proof/Machine/Operands.lean ====
section
/-! DEFINITION. Machine/Operands.lean: the operand forms of lane and uniform instructions (spec/04 R76 to R80), and the
ops that LRED, LPFX, ATOM and RED share, with their tree (spec/17 R369, spec/09 R203). -/

namespace Sys2Proof.Machine

/-! ### exec, leader, immediates (R10, R78, R79) -/

/-- exec: the selected lanes whose guard is true (R10, R78). -/
def Group.exec (g : Group) (sel : Mask) (gd : Guard) : Mask := Mask.ofPred (fun i => bit sel i && g.guard i gd)
/-- The guard of an instruction without one (R78). -/
def Guard.always : Guard := { g := 7, n := false }
/-- The lanes whose registers a uniform instruction reads and writes (R79): all 32, from the leader. -/
def srcLane (uni : Bool) (leader i : Nat) : Nat := if uni then leader else i
def dstLanes (uni : Bool) (ex : Mask) : Mask := if ex = 0 then 0 else if uni then allLanes else ex

/-! ### The ops of R90 and R369 -/

/-- x ⊕ y for the ops that combine lanes: integer ops modulo 2^w, .fadd rounded in rn, .fmin and .fmax of R104. -/
def laneOp (op : LaneOp) (w : Nat) (x y : Nat) : Nat × BitVec 5 :=
  match op with
  | .add => ((x + y) % 2 ^ w, 0)
  | .minS => (if signedOf w x ≤ signedOf w y then x else y, 0)
  | .maxS => (if signedOf w x ≥ signedOf w y then x else y, 0)
  | .minU => (min x y, 0)
  | .maxU => (max x y, 0)
  | .and => (x.land y, 0)
  | .or => (x.lor y, 0)
  | .xor => (x.xor y, 0)
  | .exch => (y, 0)
  | .cas => (y, 0)
  | .fadd => fpAdd f32 .rn x y
  | .fmin => fpMinMax f32 false x y
  | .fmax => fpMinMax f32 true x y

/-- The identity of an op (R369), widened for 64 bits. -/
def laneIdent (op : LaneOp) (w : Nat) : Nat :=
  match op with
  | .and | .minU => 2 ^ w - 1
  | .minS => 2 ^ (w - 1) - 1
  | .maxS => 2 ^ (w - 1)
  | .fadd => 0x80000000
  | .fmin | .fmax => 0x7FC00000
  | _ => 0

/-- One level of the tree: neighbours combined. -/
def treeUp (op : LaneOp) (w : Nat) : List Nat → List Nat × BitVec 5
  | x :: y :: rest =>
    let r := laneOp op w x y
    let t := treeUp op w rest
    (r.1 :: t.1, r.2 ||| t.2)
  | xs => (xs, 0)

/-- The levels node(1, ·), node(2, ·), … node(32, ·), and the flags of every node. -/
def treeLevels (op : LaneOp) (w : Nat) : Nat → List Nat → List (List Nat) × BitVec 5
  | 0, u => ([u], 0)
  | n + 1, u =>
    let up := treeUp op w u
    let r := treeLevels op w n up.1
    (u :: r.1, up.2 ||| r.2)

/-- node(32, 0) (R369). -/
def treeAll (op : LaneOp) (w : Nat) (u : List Nat) : Nat × BitVec 5 :=
  let t := treeLevels op w 5 u
  ((t.1.getD 5 []).getD 0 0, t.2)

/-- The exclusive prefix of position i (R369): node(w, 2w·floor(i / 2w)) for each bit w of i, from 16 down. -/
def treePrefix (op : LaneOp) (w : Nat) (levels : List (List Nat)) (i : Nat) : Nat × BitVec 5 :=
  [4, 3, 2, 1, 0].foldl (fun acc k =>
    if i / 2 ^ k % 2 = 1 then
      let r := laneOp op w acc.1 ((levels.getD k []).getD (2 * (i / 2 ^ (k + 1))) 0)
      (r.1, acc.2 ||| r.2)
    else acc) (laneIdent op w, 0)

/-! ### One read-modify-write of memory (R203, R204) -/

/-- Lane operands placed on the 32 positions, the identity elsewhere. -/
def treeInputs (op : LaneOp) (w : Nat) (ops : List (Nat × DWord × DWord)) : List Nat :=
  laneList.map (fun i => match tget ops i with
    | some (b, _) => b.toNat % 2 ^ w
    | none => laneIdent op w)

/-- An atomic on `old` for the lanes of `ops`: the new value and what each lane receives (R203). Ops 0–7 and 10–12
combine by the tree; .exch and .cas apply lane by lane in ascending order. For .cas the operands are compare (first)
and new (second). -/
def rmw (op : LaneOp) (w : Nat) (old : Nat) (ops : List (Nat × DWord × DWord)) : Nat × List (Nat × Nat) :=
  match op with
  | .exch => ops.foldl (fun acc e => (e.2.1.toNat % 2 ^ w, acc.2 ++ [(e.1, acc.1)])) (old, [])
  | .cas => ops.foldl (fun acc e =>
      (if acc.1 = e.2.1.toNat % 2 ^ w then e.2.2.toNat % 2 ^ w else acc.1, acc.2 ++ [(e.1, acc.1)])) (old, [])
  | _ =>
    let u := treeInputs op w ops
    let levels := (treeLevels op w 5 u).1
    let total := (levels.getD 5 []).getD 0 0
    ((laneOp op w old total).1,
      ops.map (fun e => (e.1, (laneOp op w old (treePrefix op w levels e.1).1).1)))

end Sys2Proof.Machine
end

