-- ==== Sys2Proof/Machine/Tokens.lean ====
section
/-! DEFINITION. Machine/Tokens.lean: counted tokens at the die L2s and at the homes (spec/08 R167 to R187): what a
holder answers, how requests escalate and how accesses are performed once their tokens are there. -/

namespace Sys2Proof.Machine

/-! ### Names -/

def sliceAgent (p d : Nat) (key : SectorKey) : Agent := .slice p (sliceNo d key)
def homeAgent (key : SectorKey) (pa : Nat) : Agent := .ctrl key.home (ctrlOf pa)
def Requester.agent (key : SectorKey) (pa : Nat) : Requester → Agent
  | .die p d _ => sliceAgent p d key
  | .home => homeAgent key pa
def selfReq (p d : Nat) (key : SectorKey) : Requester := .die p d (keySlice key)

/-- The packages whose L2s may hold a context's sectors (R185): those it spans, or the own one on a TZ-9620. -/
def State.domain (s : State) (p asid : Nat) : List Nat :=
  if Config.spansPackages s.part then
    match tget (s.pkg p).ctxs asid with
    | some c => c.spans.filter (fun q => thas s.pkgs q)
    | none => [p]
  else [p]

/-- Every die L2 of the domain, as package and die; a die held in reset has none (R292). -/
def State.domainDies (s : State) (p asid : Nat) : List (Nat × Nat) :=
  ((s.domain p asid).map (fun q => ((List.range (Config.computeDies s.part)).filter (fun d => !(d ∈ (s.pkg q).plat.deadDies))).map (fun d => (q, d)))).flatten

/-- The incarnation that a package's context runs at; 0 where it has none (R231). -/
def State.ctxInc (s : State) (p asid : Nat) : Nat :=
  match tget (s.pkg p).ctxs asid with
  | some c => c.inc
  | none => 0

/-! ### The coherence trace (R285) -/

def Requester.pkgNo : Requester → Nat
  | .die p _ _ => p
  | .home => 0
def Requester.dieNo : Requester → Nat
  | .die _ d _ => d
  | .home => 0
def Requester.sliceIdx : Requester → Nat
  | .die _ _ sl => sl
  | .home => 0

/-- One entry, where tracing is on and the filter admits the ASID. (log 73, DEDUCED) -/
def State.trace (s : State) (p c kind : Nat) (key : SectorKey) (r : Requester) (ser : BitVec 4) (scope : Nat) : State :=
  let t := (s.pkg p).plat.trctl
  if bit t 0 && (!bit t 11 || bits t 10 1 == key.asid) then
    let va := keyVa key
    let e : TraceEnt :=
      { w0 := BitVec.ofNat 32 (kind + 8 + 16 * ser.toNat + 256 * scope + 8192 * key.asid),
        w1 := BitVec.ofNat 32 (r.pkgNo + 16 * r.dieNo + 64 * r.sliceIdx),
        w2 := BitVec.ofNat 32 (va / 64), w3 := BitVec.ofNat 32 (va / 2 ^ 38) }
    s.updCtrl p c (fun k => { k with trace := tset k.trace k.trhead e, trhead := (k.trhead + 1) % Config.traceEntries })
  else s

/-! ### L2 sectors -/

def State.l2 (s : State) (p d : Nat) (key : SectorKey) : Option L2Sec := tget ((s.pkg p).die d).l2 key
/-- Writes an L2 entry; a count of 0 frees it (R168). -/
def State.setL2 (s : State) (p d : Nat) (key : SectorKey) (e : L2Sec) : State :=
  s.updDie p d (fun x => { x with l2 := if e.cnt = 0 then tdel x.l2 key else tset x.l2 key e })
def State.dropL2 (s : State) (p d : Nat) (key : SectorKey) : State := s.updDie p d (fun x => { x with l2 := tdel x.l2 key })

/-- An activation for another requester is in force at a die (R177), or a wipe forbids access (R266). -/
def State.barred (s : State) (p d : Nat) (key : SectorKey) : Bool :=
  let x := (s.pkg p).die d
  thas x.leases key || (match tget x.recalls key with | some r => r.wipe | none => false)

/-- The Read and Write rules of R168, with the write permission of R154. -/
def L2Sec.may (e : L2Sec) (write : Bool) : Bool :=
  e.dv && (if write then e.cnt == 64 && e.wr else decide (1 ≤ e.cnt))
def State.l2Ready (s : State) (p d : Nat) (key : SectorKey) (write : Bool) : Bool :=
  match s.l2 p d key with
  | some e => e.may write && !s.barred p d key
  | none => false

/-- Sends tokens from a die L2 as one TOK and takes them off its count. -/
def State.l2Send (s : State) (p d : Nat) (key : SectorKey) (e : L2Sec) (cnt : Nat) (own withData : Bool) (tgt : Agent) : State :=
  let e' : L2Sec := { e with cnt := e.cnt - cnt, own := e.own && !own, dirty := e.dirty && !own }
  (s.setL2 p d key e').send (sliceAgent p d key) tgt key.asid (s.ctxInc p key.asid) key e.pa
    (.tok cnt own (own && e.dirty) e.ser (if (own || withData) && e.dv then some e.data else none) e.psn e.wr)

/-- An eviction (R169): all tokens to the home, or to the requester of an activation in force (R177). -/
def State.evict (s : State) (p d : Nat) (key : SectorKey) : State :=
  match s.l2 p d key with
  | none => s
  | some e =>
    let tgt := match tget ((s.pkg p).die d).leases key with
      | some l => l.req.agent key e.pa
      | none => homeAgent key e.pa
    s.l2Send p d key e e.cnt e.own e.own tgt

/-! ### Requests (R175, R176) -/

/-- The predicted set beyond the home (R175). -/
def State.predicted (s : State) (p d : Nat) (key : SectorKey) : List (Nat × Nat) :=
  match ((s.pkg p).die d).pred.find? (fun e => e.1 == keySlice key && e.2.1 == key.asid && e.2.2.1 == keyVa key / 4096) with
  | some e => e.2.2.2.map (fun n => (n / 4, n % 4))
  | none => []

/-- Writes responders into the predictor: newer ones displace the oldest, at most three (R175). -/
def predWrite (pred : List (Nat × Nat × Nat × List Nat)) (sl asid region : Nat) (rs : List Nat) :
    List (Nat × Nat × Nat × List Nat) :=
  let old := match pred.find? (fun e => e.1 == sl && e.2.1 == asid && e.2.2.1 == region) with
    | some e => e.2.2.2
    | none => []
  let now := rs.foldl (fun l r => if r ∈ l then l else l ++ [r]) old
  let rest := pred.filter (fun e => !(e.1 == sl && e.2.1 == asid && e.2.2.1 == region))
  let mine := rest.filter (fun e => e.1 == sl)
  let rest := if Config.predictorEntries ≤ mine.length then
      (match mine.head? with | some x => rest.erase x | none => rest) else rest
  rest ++ [(sl, asid, region, now.drop (now.length - 3))]

def reqBody (write : Bool) (p d : Nat) (key : SectorKey) (num : Nat) : Body :=
  if write then .getx (selfReq p d key) num else .gets (selfReq p d key) num

def State.sendReq (s : State) (p d : Nat) (key : SectorKey) (r : Req) (tgt : Agent) : State :=
  s.send (sliceAgent p d key) tgt key.asid r.inc key r.pa (reqBody r.write p d key r.num) r.scope

/-- A translation at the home that permits writes is noted at the held sector (R154). -/
def State.grantWr (s : State) (p d : Nat) (key : SectorKey) (wr : Bool) : State :=
  match s.l2 p d key with
  | some e => if wr && !e.wr then s.setL2 p d key { e with wr := true } else s
  | none => s

/-- Step 1 of R176: the request to the home and the predicted set. -/
def State.startReq (s : State) (p d : Nat) (key : SectorKey) (pa : Nat) (wr write : Bool) (scope : Nat) : State :=
  let s := s.grantWr p d key wr
  let x := (s.pkg p).die d
  let go := !s.l2Ready p d key write && (match tget x.reqs key with
    | some r => write && !r.write
    | none => true)
  if !go then s
  else
    let r : Req := { write := write, step := 1, since := (s.pkg p).arith, num := x.reqNum, inc := s.ctxInc p key.asid,
                     pa := pa, wr := wr, responders := [], scope := scope, act := none }
    let s1 := s.updDie p d (fun x => { x with reqs := tset x.reqs key r, reqNum := x.reqNum + 1 })
    (s1.predicted p d key).foldl (fun s t => if t = (p, d) then s else s.sendReq p d key r (sliceAgent t.1 t.2 key))
      (s1.sendReq p d key r (homeAgent key pa))

/-- Step 2 of R176: every die L2 of the domain and the home. -/
def State.broadcastReq (s : State) (p d : Nat) (key : SectorKey) (r : Req) : State :=
  (s.domainDies p key.asid).foldl (fun s t => if t = (p, d) then s else s.sendReq p d key r (sliceAgent t.1 t.2 key))
    (s.sendReq p d key r (homeAgent key r.pa))

/-- Step 3 of R176: PREQ to the home. -/
def State.sendPreq (s : State) (p d : Nat) (key : SectorKey) (r : Req) : State :=
  s.send (sliceAgent p d key) (homeAgent key r.pa) key.asid r.inc key r.pa (.preq (selfReq p d key) r.write) r.scope

/-! ### L1s and acquires (R152, R153) -/

/-- The L1 that holds a sector for a group: its core's, or one of the octet under the fused attribute. -/
def l1Core (fused : Bool) (core va : Nat) : Nat :=
  if fused then core / 8 * 8 + (va / 512 % 8).xor (va / 4096 % 8) else core

/-- The cores whose scalar caches stand beside one L1: the core's own, or the octet's under the fused attribute. -/
def scalarCores (fused : Bool) (core : Nat) : List Nat := if fused then (List.range 8).map (fun i => core / 8 * 8 + i) else [core]
def Core.dropScalar (c : Core) (key : SectorKey) : Core := { c with scalar := tdel c.scalar key }
/-- A sector leaves the L1 that holds it for a core's group, and the scalar caches beside it. -/
def State.l1Drop (s : State) (p core : Nat) (fused : Bool) (key : SectorKey) : State :=
  (scalarCores fused core).foldl (fun s c => s.updCore p c (·.dropScalar key))
    (s.updCore p (l1Core fused core (keyVa key)) (fun c => { c with l1 := tdel c.l1 key }))
/-- Fills an L1 sector; the oldest gives way beyond 128 KiB. A scalar cache is filled beside it for a uniform load, and no
other scalar cache beside it keeps an older copy (R94, R362). (log 42, DESIGN CHOICE) (log 94, DEDUCED) -/
def State.l1Fill (s : State) (p core : Nat) (fused : Bool) (key : SectorKey) (d : SectorData) (ver : Option Nat) (uni : Bool) : State :=
  let x : L1Sec := { data := d, ver := ver }
  let s1 := (s.l1Drop p core fused key).updCore p (l1Core fused core (keyVa key)) (fun c =>
    let l := tset c.l1 key x
    { c with l1 := l.drop (l.length - 2048) })
  if uni then s1.updCore p core (fun c => { c with scalar := tset c.scalar key x }) else s1

/-- Scopes that reach beyond the block for the L1: a table entry counts as wider (R192). -/
def scopeWide (fused : Bool) (sc : Nat) : Bool := if fused then decide (4 ≤ sc) else decide (2 ≤ sc)

/-- The action of an acquire on the L1 (R152, R153) and on the scalar cache, which any scope from blk on invalidates (R362). -/
def State.acquireL1 (s : State) (p core asid : Nat) (fused : Bool) (sc : Nat) : State :=
  let s1 := if 2 ≤ sc then s.updCore p core (fun x => { x with scalar := x.scalar.filter (fun e => e.1.asid != asid) }) else s
  if !scopeWide fused sc then s1
  else (scalarCores fused core).foldl (fun s c => s.updCore p c (fun x => { x with l1 := x.l1.filter (fun e => e.1.asid != asid) })) s1

/-! ### Finishing accesses -/

/-- A sector of a cluster's version, over that of a version whose commit is under way (R250, R254). -/
def Cluster.verSec (c : Cluster) (key : SectorKey) : Option VSec :=
  let of_ := fun (v : Option Version) => v.bind (fun v => tget v.secs key)
  match of_ c.ver, of_ c.committing with
  | some x, some y => some { mask := x.mask ||| y.mask, data := secMerge y.data x.mask x.data }
  | some x, none => some x
  | none, y => y

/-- The bytes a group reads: its cluster's version where the version holds them (R250). -/
def State.versionView (s : State) (p g : Nat) (key : SectorKey) (d : SectorData) : SectorData :=
  match s.loc p g with
  | none => d
  | some l => match l.clu.verSec key with
      | some x => secMerge d x.mask x.data
      | none => d

/-- The stores of the cores that share an L1, where they have not reached the L2, are seen by its reads (R152, R153). (log 95, DEDUCED) -/
def State.forwarded (s : State) (p core : Nat) (fused : Bool) (key : SectorKey) (d : SectorData) : SectorData :=
  let k := s.pkg p
  let cores := scalarCores fused core
  let d1 := k.pends.foldl (fun d q => if decide (q.core ∈ cores) && q.key == key then
    (match q.acc.op with | .flush m x _ => secMerge d m x | _ => d) else d) d
  cores.foldl (fun d c => (k.core c).cb.foldl (fun d q => if q.key == key then secMerge d q.mask q.data else d) d) d1

/-- A deferred trap for an access of a group (R239). -/
def Acc.deferred (a : Acc) (cause : BitVec 8) : Deferred :=
  { lanes := allLanes, cause := cause, tpc := a.pc, taddr := a.ptr, lane := a.lane, whole := true }
def State.defer (s : State) (p : Nat) (a : Acc) (cause : BitVec 8) : State :=
  s.updGroup p a.gid (fun g => { (g.clearPend a.id) with deferred := g.deferred ++ [a.deferred cause] })

/-- Writes a loaded value into its lanes (R79 for a uniform load). -/
def Group.loadResult (g : Group) (a : Acc) (dst half : Nat) (sx uni : Bool) (v : Nat) : Group :=
  let g' := if uni then g.mapLanes (fun _ l => l.setLoaded (dst + half) a.bytes sx v)
    else g.onLanes (laneBit a.lane) (fun _ l => l.setLoaded (dst + half) a.bytes sx v)
  g'.clearPend a.id

def Group.atomResult (g : Group) (id : Nat) (dst : Nat) (w64 : Bool) (rs : List (Nat × Nat)) : Group :=
  (rs.foldl (fun g r => g.onLanes (laneBit r.1) (fun _ l =>
    if w64 then l.setX dst (BitVec.ofNat 64 r.2) else l.setV dst (BitVec.ofNat 32 r.2))) g).clearPend id

/-- A profiling record of 32 bytes, or its loss where it would overrun PRRP. -/
def State.profile (s : State) (p : Nat) (bytes : List Byte) : State :=
  let k := s.pkg p
  let sz := 2 ^ k.plat.prsize.toNat
  if sz < (k.plat.prwp.toNat + 32 + 2 ^ 32 - k.plat.prrp.toNat) % 2 ^ 32 then
    s.updPkg p (·.updPlat (fun x => { x with prdrop := satInc x.prdrop }))
  else
    let s1 := match physOf s.part (k.plat.prbase.toNat + k.plat.prwp.toNat % sz) with
      | .frame lin => { s with mem := writeBytes s.mem (cellOf p lin) bytes }
      | .host h => s.hostWrite h bytes
      | .hole => s
    s1.updPkg p (·.updPlat (fun x => { x with prwp := x.prwp + 32 }))

/-- The sampled-load record of R283: level and up to four hops; the cycles are free values. -/
def State.sampleRecord (s : State) (p : Nat) (a : Acc) (level : Nat) (hops : List Nat) : State :=
  let name := s.threadName p a.gid a.lane
  let hop := fun (i n : Nat) => n + 16 * (Config.hopCycles (s.draws + i)).toNat
  let hs := (List.range 4).map (fun i => if i < hops.length then hop i (hops.getD i 0) else 0)
  let bytes := leBytes 4 name.n0.toNat ++ leBytes 4 name.n1.toNat ++ leBytes 4 name.n2.toNat ++ leBytes 7 a.pc.toNat ++
    leBytes 1 (if a.replayed then 6 else level) ++ (hs.map (leBytes 3)).flatten
  ({ s with draws := s.draws + 4 } : State).profile p bytes

/-- A load's data is there: write it, fill the L1, apply the acquire (R152, R269). -/
def State.finishLoad (s : State) (p : Nat) (q : Pend) (d : SectorData) (psn : Bool) (level : Nat) (hops : List Nat) : State :=
  match q.acc.op with
  | .load dst half sx uni =>
    if psn then s.defer p q.acc 0x07
    else
      let l := s.loc p q.acc.gid
      let fused := match l with | some l => l.node.desc.fused | none => false
      let ver := match l with | some l => (if l.clu.ver.isSome then some l.blk.cluster else none) | none => none
      let d1 := s.forwarded p q.core fused q.key d
      let d2 := s.versionView p q.acc.gid q.key d1
      let s1 := if q.txn.isSome then s else s.l1Fill p q.core fused q.key d1 ver uni
      let s2 := s1.updGroup p q.acc.gid (fun g => g.loadResult q.acc dst half sx uni (secGet d2 (q.acc.va % 64) q.acc.bytes))
      let s3 := if q.acc.acq then s2.acquireL1 p q.core q.key.asid fused q.acc.scope else s2
      if q.acc.sample then s3.sampleRecord p q.acc level hops else s3
  | _ => s

/-- An access that a FENCE held the later ones for is performed: the fence's own acquire follows it, before any of them
(R152, R342). -/
def State.fenceEnds (s : State) (p : Nat) (q : Pend) : State :=
  match q.fenced with
  | some sc =>
    let fused := match s.loc p q.acc.gid with | some l => l.node.desc.fused | none => false
    s.acquireL1 p q.core q.key.asid fused sc
  | none => s

/-! ### Performing accesses at an L2 -/

/-- The agents that a load passes on the way from its die to an agent of a kind (2 a slice, 5 a controller) at a package and
die: a die-to-die link, or a Yuson Link port (R283). (log 96, DEDUCED) -/
def hopsTo (p d q t kind : Nat) : List Nat := [1, 2] ++ (if q != p then [4] else if t != d then [3] else []) ++ [kind]
/-- The level that served a load and its hops: a die L2 that sent tokens, else the home's memory (R283). (log 96, DEDUCED) -/
def State.servedBy (s : State) (p d : Nat) (q : Pend) : Nat × List Nat :=
  let rs := match tget ((s.pkg p).die d).reqs q.key with | some r => r.responders | none => []
  match rs.head? with
  | some n => (if n / 4 = p then 2 else 3, hopsTo p d (n / 4) (n % 4) 2)
  | none => (4, hopsTo p d q.key.home (ctrlOf q.pa / 8) 5)

/-- Performs one access with its rights at the L2 (R168, R202, R269). -/
def State.performL2 (s : State) (p d : Nat) (q : Pend) (e : L2Sec) : State :=
  let fused := match s.loc p q.acc.gid with | some l => l.node.desc.fused | none => false
  match q.acc.op with
  | .load _ _ _ _ => let w := s.servedBy p d q; s.finishLoad p q e.data e.psn w.1 w.2
  | .store v => s.setL2 p d q.key { e with data := secPut e.data (q.acc.va % 64) q.acc.bytes v.toNat, dirty := e.own }
  | .flush m x psn =>
    s.setL2 p d q.key { e with data := secMerge e.data m x, dirty := e.own, psn := psn || (e.psn && m != BitVec.allOnes 64) }
  | .atom op w64 ops dst =>
    if e.psn && dst.isSome then s.defer p q.acc 0x07
    else
      let n := if w64 then 8 else 4
      let r := rmw op (8 * n) (secGet e.data (q.acc.va % 64) n) ops
      let s1 := s.setL2 p d q.key { e with data := secPut e.data (q.acc.va % 64) n r.1, dirty := e.own }
      let s2 := s1.l1Drop p q.core fused q.key
      let s3 := if q.acc.acq then s2.acquireL1 p q.core q.key.asid fused q.acc.scope else s2
      match dst with
      | some reg => s3.updGroup p q.acc.gid (fun g => g.atomResult q.acc.id reg w64 r.2)
      | none => s3
  | .fetch => s

/-- Performs, in order, the waiting accesses of a die to a sector that now have their rights; an access waits behind
an earlier one of its core to the same sector. -/
def State.serveList (s : State) (p d : Nat) (key : SectorKey) : List Pend → List Nat → State
  | [], _ => s
  | q :: qs, blocked =>
    if q.die == d && q.key == key && q.txn.isNone then
      match s.l2 p d key with
      | some e =>
        if e.may q.write && !s.barred p d key && !(q.core ∈ blocked) then
          (((s.performL2 p d q e).fenceEnds p q).updPkg p (fun k => { k with pends := k.pends.filter (fun r => r.acc.id != q.acc.id) })).serveList p d key qs blocked
        else s.serveList p d key qs (q.core :: blocked)
      | none => s.serveList p d key qs (q.core :: blocked)
    else s.serveList p d key qs blocked

/-- Ends a request whose accesses are done: the predictor learns, an activation is given back (R175, R177); or asks
again for what is left. -/
def State.settle (s : State) (p d : Nat) (key : SectorKey) : State :=
  match tget ((s.pkg p).die d).reqs key with
  | none => s
  | some r =>
    let left := (s.pkg p).pends.filter (fun q => q.die == d && q.key == key && q.txn.isNone)
    -- a persistent read is satisfied by the owner token and valid data (R177)
    let whole := r.write || r.act.isNone || (match s.l2 p d key with | some e => e.own | none => false)
    if !(s.l2Ready p d key r.write && whole) then s
    else
      let s1 := s.updDie p d (fun x => { x with
        reqs := tdel x.reqs key,
        pred := predWrite x.pred (keySlice key) key.asid (keyVa key / 4096) (r.responders.filter (fun n => n != 4 * p + d)) })
      let s2 := match r.act with
        | some a => s1.send (sliceAgent p d key) (homeAgent key r.pa) key.asid r.inc key r.pa (.pdeact (selfReq p d key) a) r.scope
        | none => s1
      match left.find? (fun q => q.write) with
      | some q => if r.write then s2 else s2.startReq p d key q.pa true true q.acc.scope
      | none => s2

/-- Serves a sector at a die after its state changed. -/
def State.serve (s : State) (p d : Nat) (key : SectorKey) : State :=
  (s.serveList p d key (s.pkg p).pends []).settle p d key

/-! ### Homes: the persistent-request table (R171, R177, R178) -/

def Ctrl.psec (t : Ctrl) (key : SectorKey) : Option PSec := t.psecs.find? (fun x => x.key == key)
def Ctrl.setPsec (t : Ctrl) (x : PSec) : Ctrl :=
  if t.psecs.any (fun y => y.key == x.key) then { t with psecs := t.psecs.map (fun y => if y.key == x.key then x else y) }
  else { t with psecs := t.psecs ++ [x] }
def Ctrl.dropPsec (t : Ctrl) (key : SectorKey) : Ctrl := { t with psecs := t.psecs.filter (fun y => y.key != key) }
def PSec.fresh (key : SectorKey) (pa : Nat) : PSec :=
  { key := key, pa := pa, active := none, act := 0, started := 0, lastPact := 0, lastRefresh := 0, round := [], queue := [],
    consol := false, own := 0, ownOwner := false }

def State.homeCtrl (s : State) (key : SectorKey) (pa : Nat) : Ctrl := (s.pkg key.home).ctrl (ctrlOf pa)
def State.updHomeCtrl (s : State) (key : SectorKey) (pa : Nat) (f : Ctrl → Ctrl) : State := s.updCtrl key.home (ctrlOf pa) f
def State.homeSec (s : State) (key : SectorKey) (pa : Nat) : HomeSec := (s.pkg key.home).homeSec pa
/-- Writes a sector's home state; while some of its tokens are out, the name they are out under stands with it. -/
def State.setHomeSec (s : State) (key : SectorKey) (pa : Nat) (h : HomeSec) : State :=
  s.updPkg key.home (·.setHome pa { h with name := if h.mts = 1 then { home := 0, asid := 0, sec := 0 } else key })
def State.homeTag (s : State) (key : SectorKey) : Nat := keyTag (s.pkg key.home) key.asid

/-- A recreation or wipe of a sector is in progress at its home. -/
def State.recr? (s : State) (key : SectorKey) (pa : Nat) : Option Recr :=
  (s.homeCtrl key pa).recrs.find? (fun r => r.pa / 64 == pa / 64)
/-- A wipe recreation of a sector holds every request for it (R266). -/
def State.wiping (s : State) (key : SectorKey) (pa : Nat) : Bool := match s.recr? key pa with | some r => r.wipe | none => false

/-- Entries of a controller's partial-token table in use (R171). -/
def State.partialUsed (s : State) (p c : Nat) : Nat :=
  ((s.pkg p).home.filter (fun e => (e.2.mts == 2 || e.2.mts == 3) && ctrlOf (e.1 * 64) == c)).length

/-- The order in which a round serves requests (R178): the home's own last. -/
def Requester.rank : Requester → Nat
  | .die p d sl => (p * 4 + d) * 32 + sl
  | .home => 4096
def insertReq (r : PReq) : List PReq → List PReq
  | [] => [r]
  | x :: xs => if r.req.rank < x.req.rank then r :: x :: xs else x :: insertReq r xs
def sortReqs (l : List PReq) : List PReq := l.foldr insertReq []

/-- PACT to every die L2 of the domain (R172). -/
def State.sendPact (s : State) (x : PSec) (a : PReq) : State :=
  let s1 := s.updHomeCtrl x.key x.pa (fun t => match t.psec x.key with
    | some y => t.setPsec { y with lastPact := s.memClk }
    | none => t)
  (s.domainDies x.key.home x.key.asid).foldl (fun s t =>
    s.send (homeAgent x.key x.pa) (sliceAgent t.1 t.2 x.key) x.key.asid a.inc x.key x.pa (.pact a.req a.write x.act) a.scope) s1

/-! ### Recreation (R180, R182, R266) -/

/-- The die L2s that a recall asks: none for a sector that no context has named (all its tokens are at the home). -/
def State.recallDies (s : State) (key : SectorKey) : List (Nat × Nat) := if key.asid = 0 then [] else s.domainDies key.home key.asid

/-- Starts a wipe recreation (R266); the trace names the requester and the scope of the access that met the word (R285).
(log 58, DEDUCED) -/
def State.startWipe (s : State) (key : SectorKey) (pa : Nat) (who : Requester := .home) (scope : Nat := 0) : State :=
  if s.wiping key pa then s
  else
    let r : Recr := { key := key, pa := pa, wipe := true, ser := 0, held := false, stage := 1, started := s.now,
                      lastRecall := s.memClk, replied := [], newest := none, psn := false, inc := s.ctxInc key.home key.asid }
    let s1 := s.updHomeCtrl key pa (fun t => { t with recrs := t.recrs.filter (fun x => x.pa / 64 != pa / 64) ++ [r] })
    let s2 := (s1.bump key.home (unitCtrl (ctrlOf pa)) wHunc).trace key.home (ctrlOf pa) 3 key who 0 scope
    let s3 := s2.setHomeSec key pa { mts := 0, ser := (s.homeSec key pa).ser, psn := (s.homeSec key pa).psn, cnt := 0 }
    (s.recallDies key).foldl (fun s t =>
      s.send (homeAgent key pa) (sliceAgent t.1 t.2 key) key.asid r.inc key pa (.recall 0 true)) s3

/-- The home reads a codeword before it answers; an uncorrectable one starts a wipe recreation. -/
def State.homeReadable (s : State) (key : SectorKey) (pa : Nat) (who : Requester := .home) (scope : Nat := 0) : Bool × State :=
  let r := s.readCodeword key.home pa
  if r.1 then (false, r.2.startWipe key pa who scope) else (true, r.2)

/-- A wipe recreation holds a request that reaches the home (R266). -/
def State.holdReq (s : State) (m : Msg) : State := s.updHomeCtrl m.key m.pa (fun t => { t with wipeReqs := t.wipeReqs ++ [m] })

/-- The home's data for a sector and whether it is poisoned (R170, R182, R23). -/
def State.homeCopy (s : State) (key : SectorKey) (pa : Nat) : SectorData × Bool :=
  (homeData s key.home pa (s.homeTag key), (s.homeSec key pa).psn || (s.pkg key.home).isWithdrawn pa)

/-- Write permission of a page as the home's translation gives it; what a TOK tells its receiver (R154). -/
def State.homeWr (s : State) (key : SectorKey) : Bool :=
  match (s.translate key.home key.asid (keyVa key) true).1 with
  | .frame _ _ wr _ => wr
  | _ => false

/-- Sends tokens from the home and updates the metadata byte and the count (R170, R171, R173). -/
def State.homeSend (s : State) (key : SectorKey) (pa cnt : Nat) (own withData : Bool) (tgt : Requester) (scope : Nat) : State :=
  let h := s.homeSec key pa
  let left := h.count - cnt
  let stillOwner := h.owner && !own
  let h' : HomeSec := { h with mts := if left = 0 then 0 else if stillOwner then 3 else 2, cnt := left }
  let d := s.homeCopy key pa
  let s1 := (s.setHomeSec key pa h').send (homeAgent key pa) (tgt.agent key pa) key.asid (s.ctxInc key.home key.asid) key pa
    (.tok cnt own false h.ser (if own || withData then some d.1 else none) d.2 (s.homeWr key)) scope
  if own then s1.trace key.home (ctrlOf pa) 1 key tgt h.ser scope else s1

/-- The home answers an activation from its own tokens (R177): all of them for a write, the owner token for a read. -/
def State.homeAnswer (s : State) (x : PSec) (a : PReq) : State :=
  let h := s.homeSec x.key x.pa
  match a.req with
  | .home =>
    -- its own request: what it holds counts at once (R171)
    s.updHomeCtrl x.key x.pa (fun t => match t.psec x.key with
      | some y => t.setPsec { y with own := h.count, ownOwner := h.owner }
      | none => t)
  | r =>
    if h.count = 0 || (!a.write && !h.owner) then s
    else
      -- tokens with data: the codeword is read first (R265)
      let rd := if h.owner then s.homeReadable x.key x.pa r a.scope else (true, s)
      if !rd.1 then rd.2
      else rd.2.homeSend x.key x.pa (if a.write then h.count else 1) h.owner (!a.write) r a.scope

/-! ### Operations at the home with all 64 tokens (R160, R185, R202, R204, R224) -/

/-- Performs a write or a read-modify-write on memory's copy; the result is the old value (empty for a write). -/
def State.homePerform (s : State) (key : SectorKey) (pa : Nat) (op : HomeOp) : List Byte × State :=
  let tag := s.homeTag key
  let d := homeData s key.home pa tag
  match op with
  | .read va n => (leBytes n (secGet d (va % 64) n), s)
  | .write va bs =>
    let s1 := s.homeWrite key.home pa tag (secPut d (va % 64) bs.length (leNat bs))
    let h := s1.homeSec key pa
    ([], if bs.length = 64 then s1.setHomeSec key pa { h with psn := false } else s1)
  | .atom va op w64 ops =>
    let n := if w64 then 8 else 4
    let old := secGet d (va % 64) n
    let r := rmw op (8 * n) old ops
    (leBytes n old, s.homeWrite key.home pa tag (secPut d (va % 64) n r.1))

/-- The root port completes the AtomicOp that an operation on host memory is sent as, or it is none: ops other than integer
.add, .exch and .cas are a read and a write (R204). -/
def State.hostAtomicOk (s : State) (p : Nat) (op : HomeOp) : Bool :=
  match op with
  | .atom _ .add _ _ | .atom _ .exch _ _ | .atom _ .cas _ _ => (s.pkg p).plat.rootAtomics
  | _ => true

/-- A read-modify-write or write of host memory (R204). (log 74, DEDUCED) -/
def State.hostPerform (s : State) (addr : Nat) (op : HomeOp) : List Byte × State :=
  match op with
  | .read _ n => (readBytes s.mem (hostCell addr) n, s)
  | .write _ bs => ([], s.hostWrite addr bs)
  | .atom _ op w64 ops =>
    let n := if w64 then 8 else 4
    let old := leNat (readBytes s.mem (hostCell addr) n)
    (leBytes n old, s.hostWrite addr (leBytes n (rmw op (8 * n) old ops).1))

/-- Answers an uncached access and keeps the result in the reply cache for two lifetime bounds (R217). -/
def State.homeReply (s : State) (c : Nat) (m : Msg) (core txn : Nat) (result : List Byte) (st : Nat) : State :=
  let e : ReplyEnt := { pkg := m.src.pkg, core := core, txn := txn, result := result, st := st, since := s.now }
  (s.updCtrl m.dst.pkg c (fun t => { t with replies := t.replies ++ [e] })).send m.dst m.src m.asid m.inc m.key m.pa
    (.uncachedReply txn result st)

/-- The bytes of a sector that an operation writes, all 64 or some. -/
def HomeOp.whole : HomeOp → Bool
  | .write _ bs => bs.length == 64
  | _ => false

/-- Performs one waiting operation with all 64 tokens at home and answers it. A poisoned sector gives a read and a far atomic
with a reply poison, and does not change (R23, R269). -/
def State.homeServe (s : State) (w : HomeWait) : State :=
  let psn := (s.homeCopy w.key w.pa).2
  let c := ctrlOf w.pa
  let data := match w.reply with | some m => m.key | none => w.key
  let r := s.homePerform data w.pa w.op
  match w.reply with
  | none => r.2
  | some m => match m.body with
    | .farAtomic core txn _ _ _ _ reply =>
      if reply && psn then s.homeReply c m core txn [] 1 else r.2.homeReply c m core txn (if reply then r.1 else []) 0
    | .uncachedWrite core txn _ _ => r.2.homeReply c m core txn [] 0
    | .uncachedRead _ txn _ _ => r.2.send m.dst m.src m.asid m.inc m.key m.pa (.uncachedReply txn (if psn then [] else r.1) (Config.b2n psn))
    | _ => r.2

/-- Performs the waiting operations of a sector whose tokens the home has all gathered, and answers them. -/
def State.homeRun (s : State) (key : SectorKey) (pa : Nat) : State :=
  let mine := (s.homeCtrl key pa).waits.filter (fun w => w.key == key)
  mine.foldl State.homeServe (s.updHomeCtrl key pa (fun t => { t with waits := t.waits.filter (fun w => w.key != key) }))

/-- The home's own active request is satisfied with all 64 tokens: state 01, and its operations run (R171, R185). -/
def State.ownRequest (s : State) (key : SectorKey) (pa : Nat) : State :=
  let h := s.homeSec key pa
  let done := fun (t : Ctrl) => match t.psec key with
    | some x => t.setPsec { x with active := none, consol := false }
    | none => t
  let s1 := s.setHomeSec key pa { h with mts := 1, cnt := 64 }
  -- the codeword is read first (R265); a wipe leaves the request active, and serves it when it ends (R266)
  let rd := if (s1.homeCtrl key pa).waits.any (fun w => w.key == key) then s1.homeReadable key pa else (true, s1)
  if rd.1 then (rd.2.homeRun key pa).updHomeCtrl key pa done else rd.2

/-- Activates the next request of a sector: the round's next, or a new round of what is queued (R178). A request of the
home's own that finds all 64 tokens there is satisfied at once, and the next one follows. -/
def State.activateFrom (s : State) (key : SectorKey) (pa : Nat) : Nat → State
  | 0 => s
  | fuel + 1 =>
    match (s.homeCtrl key pa).psec key with
    | none => s
    | some x =>
      let (round, queue) := if x.round.isEmpty then (sortReqs x.queue, []) else (x.round, x.queue)
      match round with
      | [] => s.updHomeCtrl key pa (·.dropPsec key)
      | a :: rest =>
        let t := s.homeCtrl key pa
        let x' : PSec := { x with active := some a, act := t.acts + 1, started := s.memClk, lastPact := s.memClk,
                                  lastRefresh := s.memClk, round := rest, queue := queue, own := 0, ownOwner := false }
        let s1 := s.updHomeCtrl key pa (fun t => { t.setPsec x' with acts := t.acts + 1 })
        let s2 := (s1.bump key.home (unitCtrl (ctrlOf pa)) wPact).trace key.home (ctrlOf pa) 0 key a.req (s.homeSec key pa).ser a.scope
        let s3 := (s2.sendPact x' a).homeAnswer x' a
        if a.req == .home && (s.homeSec key pa).count == 64 then
          let s4 := s3.ownRequest key pa
          if s4.wiping key pa then s4 else s4.activateFrom key pa fuel
        else s3

/-- A round and a queue name each requester once, so the home's own requests end this within four. -/
def State.activateNext (s : State) (key : SectorKey) (pa : Nat) : State := s.activateFrom key pa 4

/-- Queues a persistent request (R177): a repeat is the same request, the active one's is a refresh, and a full
table drops it. -/
def State.queuePreq (s : State) (key : SectorKey) (pa : Nat) (r : PReq) : State :=
  let t := s.homeCtrl key pa
  let same := fun (y : PReq) => y.req == r.req
  match t.psec key with
  | some x =>
    match x.active with
    | some a =>
      if a.req == r.req then s.updHomeCtrl key pa (·.setPsec { x with lastRefresh := s.memClk })
      else if (x.round ++ x.queue).any same then s
      else if Config.preqQueued ≤ (t.psecs.map (fun y => y.round.length + y.queue.length)).sum then s
      else s.updHomeCtrl key pa (·.setPsec { x with queue := x.queue ++ [r] })
    | none =>
      if (x.round ++ x.queue).any same then s
      else
        let s1 := s.updHomeCtrl key pa (·.setPsec { x with queue := x.queue ++ [r] })
        if s.wiping key pa then s1 else s1.activateNext key pa
  | none =>
    if Config.preqSectors ≤ t.psecs.length then s
    else
      let s1 := s.updHomeCtrl key pa (·.setPsec { PSec.fresh key pa with queue := [r] })
      if s.wiping key pa then s1 else s1.activateNext key pa

/-- The activation of a sector ends and the next begins. -/
def State.endActive (s : State) (key : SectorKey) (pa : Nat) : State :=
  (s.updHomeCtrl key pa (fun t => match t.psec key with
    | some x => t.setPsec { x with active := none, consol := false }
    | none => t)).activateNext key pa

/-- The name under which a sector's tokens are out: an uncached mapping of a frame gathers those of its cacheable one (R160). -/
def State.tokenName (s : State) (key : SectorKey) (pa : Nat) : SectorKey :=
  let h := s.homeSec key pa
  if h.mts = 1 then key else h.name

/-- The home's own persistent write request for a sector (R185). -/
def State.ownPreq (s : State) (key : SectorKey) (pa inc scope : Nat) : State :=
  s.queuePreq key pa { req := .home, write := true, inc := inc, scope := scope }

/-- An operation of the home itself waits for a persistent write request of the home's own (R185). -/
def State.homeOp (s : State) (key : SectorKey) (pa : Nat) (op : HomeOp) (reply : Option Msg) (inc scope : Nat) : State :=
  let name := s.tokenName key pa
  (s.updHomeCtrl key pa (fun t => { t with waits := t.waits ++ [{ key := name, pa := pa, op := op, reply := reply, inc := inc }] })).ownPreq
    name pa inc scope

/-- The home's own active request has all 64 tokens: state 01, its operations run, the next request follows. -/
def State.homeSatisfied (s : State) (key : SectorKey) (pa : Nat) : State :=
  match (s.homeCtrl key pa).psec key with
  | some x => match x.active with
    | some a =>
      if a.req == .home && x.own == 64 then
        let s1 := s.ownRequest key pa
        if s1.wiping key pa then s1 else s1.activateNext key pa
      else s
    | none => s
  | none => s

/-- Starts collecting a sector's tokens by the home itself (R171): the valid entry with the highest count, at most eight at
once. -/
def State.consolidate (s : State) (p c : Nat) : State :=
  let t := (s.pkg p).ctrl c
  if 8 ≤ (t.psecs.filter (·.consol)).length || Config.preqSectors ≤ t.psecs.length then s
  else
    let cands := (s.pkg p).home.filter (fun e => (e.2.mts == 2 || e.2.mts == 3) && ctrlOf (e.1 * 64) == c &&
      !t.psecs.any (fun x => x.pa / 64 == e.1))
    let best := cands.foldl (fun (b : Option (Nat × HomeSec)) e => match b with
      | none => some e
      | some x => if x.2.cnt < e.2.cnt then some e else some x) none
    match best with
    | none => s
    | some (sec, h) =>
      let s1 := (s.bump p (unitCtrl c) wCons).ownPreq h.name (sec * 64) (s.ctxInc p h.name.asid) 0
      s1.updHomeCtrl h.name (sec * 64) (fun t => match t.psec h.name with
        | some x => t.setPsec { x with consol := true }
        | none => t)

/-- A token message that needs an entry of the full partial-token table waits in the absorb buffer, or, that full too, where
it is; the home consolidates (R171). -/
def State.absorb (s : State) (m : Msg) (write : Bool) : State :=
  let p := m.key.home
  let c := ctrlOf m.pa
  (if ((s.pkg p).ctrl c).absorb.length < Config.absorbEntries then
    s.updCtrl p c (fun t => { t with absorb := t.absorb ++ [{ msg := m, write := write }] })
   else { s with fabric := s.fabric ++ [m] }).consolidate p c

/-- Tokens arrive at their home (R170, R171, R174, R177, R180, R186). A wipe discards them all (R266). -/
def State.tokHome (s : State) (m : Msg) (cnt : Nat) (own dirty : Bool) (ser : BitVec 4) (data : Option SectorData)
    (psn write : Bool) : State :=
  let key := m.key
  let pa := m.pa
  let c := ctrlOf pa
  let h := s.homeSec key pa
  let active := (((s.homeCtrl key pa).psec key).bind (fun x => x.active.map (fun a => (x, a))))
  let tot := h.count + cnt
  -- the tokens that stay here, once an activation has taken its own (R177)
  let kept := match active with
    | some (_, a) => if a.req == .home || a.write then 0 else if own || h.owner then tot - 1 else tot
    | none => if tot = 64 then 0 else tot
  if s.wiping key pa then s
  else if h.ser != ser then s.bump key.home (unitCtrl c) wSdisc
  else if h.mts == 0 && kept != 0 && decide (Config.pttEntries ≤ s.partialUsed key.home c) then s.absorb m write
  else
    -- data of the owner token, where it differs from memory's copy (R168)
    let s1 := match data with
      | some d => if own && dirty && write then s.homeWrite key.home pa (s.homeTag key) d else s
      | none => s
    -- the poison goes with the owner's data: a whole write by the holder of all tokens has cleared it (R182)
    let s2 := if own && data.isSome && write then s1.setHomeSec key pa { h with psn := psn } else s1
    let h2 := s2.homeSec key pa
    let seen := fun (s : State) => if own then s.trace key.home c 1 key .home ser m.scope else s
    let h3 : HomeSec := { h2 with mts := if tot = 64 then 1 else if own || h2.owner then 3 else 2, cnt := tot }
    match active with
    | some (x, a) =>
      if a.req == .home then
        ((seen s2).updHomeCtrl key pa (·.setPsec { x with own := x.own + cnt, ownOwner := x.ownOwner || own })).homeSatisfied key pa
      else (seen (s2.setHomeSec key pa h3)).homeAnswer x a
    | none => seen (s2.setHomeSec key pa h3)

/-! ### Requests and tokens as they arrive (R173, R174) -/

/-- The frame of a sector is still the one that a request names: a request on its way when the page was unmapped reaches no
frame any more (R157, R159). -/
def State.sameFrame (s : State) (key : SectorKey) (pa : Nat) : Bool × State :=
  let r := s.translate key.home key.asid (keyVa key) false
  match r.1 with
  | .frame _ lin _ _ => (lin / 64 == pa / 64, r.2)
  | _ => (false, r.2)

/-- A transient request at the home (R173); none is answered while an activation is in force (R177), and a wipe holds it (R266). -/
def State.homeRequest (s : State) (m : Msg) (r : Requester) (write : Bool) : State :=
  let key := m.key
  let pa := m.pa
  let active := match (s.homeCtrl key pa).psec key with | some x => x.active.isSome | none => false
  let tr := s.sameFrame key pa
  let s := tr.2
  if !tr.1 then s
  else if s.wiping key pa then s.holdReq m
  else if active || (s.recr? key pa).isSome then s
  else
    let rd := s.homeReadable key pa r m.scope
    if !rd.1 then rd.2.holdReq m
    else
      let s := rd.2
      let h := s.homeSec key pa
      if h.mts == 0 then s
      else if write then s.homeSend key pa h.count h.owner false r m.scope
      else if h.mts == 1 then
        (if s.partialUsed key.home (ctrlOf pa) < Config.pttEntries then s.homeSend key pa 1 false true r m.scope
         else s.homeSend key pa 64 true true r m.scope)
      else if h.mts == 3 then
        (if 2 ≤ h.cnt then s.homeSend key pa 1 false true r m.scope else s.homeSend key pa h.cnt true true r m.scope)
      else s

/-- A transient request at a die L2 (R173). -/
def State.l2Request (s : State) (p d : Nat) (m : Msg) (r : Requester) (write : Bool) : State :=
  if s.barred p d m.key || r == selfReq p d m.key then s
  else match s.l2 p d m.key with
    | none => s
    | some e =>
      let tgt := r.agent m.key m.pa
      if write then s.l2Send p d m.key e e.cnt e.own e.own tgt
      else if e.own && e.dv then
        (if 2 ≤ e.cnt then s.l2Send p d m.key e 1 false true tgt else s.l2Send p d m.key e 1 true true tgt)
      else s

/-- What an activation in force directs of the tokens a die holds (R177). -/
def State.leaseDirect (s : State) (p d : Nat) (key : SectorKey) : State :=
  match tget ((s.pkg p).die d).leases key, s.l2 p d key with
  | some l, some e =>
    if l.write then s.l2Send p d key e e.cnt e.own e.own (l.req.agent key e.pa)
    else if e.own && e.dv then s.l2Send p d key e 1 true true (l.req.agent key e.pa) else s
  | _, _ => s

/-- Room for a new sector in its slice (R12, R174): where the slice is full, a sector that no request or activation names is
evicted; none can be freed when every one is named. The spec gives no sets, so a slice is one (log 97, DESIGN CHOICE). -/
def State.roomFor (s : State) (p d : Nat) (key : SectorKey) : Option State :=
  let x := (s.pkg p).die d
  let mine := x.l2.filter (fun e => keySlice e.1 == keySlice key)
  if mine.length < Config.sliceSectors then some s
  else (mine.find? (fun e => !thas x.reqs e.1 && !thas x.leases e.1)).map (fun e => s.evict p d e.1)

/-- Tokens arrive at a die L2 (R173, R174, R177, R181). -/
def State.tokL2 (s : State) (p d : Nat) (m : Msg) (cnt : Nat) (own dirty : Bool) (ser : BitVec 4)
    (data : Option SectorData) (psn wr : Bool) : State :=
  let key := m.key
  let x := (s.pkg p).die d
  let sdisc := fun (s : State) => s.bump key.home (unitCtrl (ctrlOf m.pa)) wSdisc
  match tget x.recalls key with
  | some r => if r.wipe then s else if r.ser != ser then sdisc s else take s x sdisc
  | none => take s x sdisc
where
  take (s : State) (x : Die) (sdisc : State → State) : State :=
    let key := m.key
    let who := match m.src with | .slice q n => [4 * q + n / 32] | _ => []
    let learn := fun (r : Req) => { r with responders := who.foldl addOnce r.responders }
    let note := fun (s : State) => s.updDie p d (fun x => { x with reqs := tmod x.reqs key learn })
    -- the permission that the requester's translation gave (R154)
    let wr := wr || (match tget x.reqs key with | some r => r.wr | none => false)
    match s.l2 p d key with
    | some e =>
      if e.ser != ser then sdisc s
      else
        let e' : L2Sec := { e with
          cnt := e.cnt + cnt, own := e.own || own, dirty := if own then dirty else e.dirty,
          dv := e.dv || data.isSome, data := (match data with | some dd => if own || !e.dv then dd else e.data | none => e.data),
          psn := e.psn || (psn && data.isSome), wr := e.wr || wr }
        ((note (s.setL2 p d key e')).leaseDirect p d key).serve p d key
    | none =>
      match s.roomFor p d key with
      | none => s.send (sliceAgent p d key) (homeAgent key m.pa) m.asid m.inc key m.pa m.body
      | some s =>
        let e' : L2Sec := {
          cnt := cnt, own := own, ser := ser, dv := data.isSome, dirty := (own && dirty), wr := wr,
          psn := (psn && data.isSome), pa := m.pa, data := data.getD 0 }
        ((note (s.setL2 p d key e')).leaseDirect p d key).serve p d key

end Sys2Proof.Machine
end

