-- ==== Sys2Proof/Machine/Coherent.lean ====
section
/-! DEFINITION. Machine/Coherent.lean: accesses of agents that hold no tokens of their own across steps: command
processors, journals and channel units, and the control blocks and records of bulk transfer engines. Each is performed in
one step at the sector's owner, and a write reaches every valid copy at once (log 15, DEDUCED). -/

namespace Sys2Proof.Machine

/-- The messages on their way: in the fabric, in egress queues, in replay buffers, in absorb buffers, without a path. -/
def State.messages (s : State) : List Msg :=
  s.fabric ++ (s.pkgs.map (fun k =>
    (k.2.ports.map (fun p => p.2.egress ++ (p.2.replay.map (fun f => f.pkts.map (·.msg))).flatten)).flatten ++
      (k.2.ctrls.map (fun c => c.2.absorb.map (·.msg))).flatten ++ k.2.noPath)).flatten

/-- An owner's data in a message, and whether it is poisoned. -/
def Body.ownerData : Body → Option (SectorData × Bool)
  | .tok _ true _ _ (some d) psn _ => some (d, psn)
  | .rrep _ _ _ _ (some d) psn => some (d, psn)
  | _ => none

/-- The newest data of a sector and its poison: its owner's, in an L2, in flight, at a recreation, or memory's copy (R168, R269). -/
def State.cohData (s : State) (key : SectorKey) (pa : Nat) : SectorData × Bool :=
  let owners := (s.pkgs.map (fun k => k.2.dies.filterMap (fun d => match tget d.2.l2 key with
    | some e => if e.own && e.dv then some (e.data, e.psn) else none
    | none => none))).flatten
  match owners.head? with
  | some x => x
  | none =>
    match (s.messages.filterMap (fun m => if m.key == key then m.body.ownerData else none)).head? with
    | some x => x
    | none =>
      match s.recr? key pa with
      | some r => match r.newest with
        | some d => (d, r.psn)
        | none => s.homeCopy key pa
      | none => s.homeCopy key pa

/-- A write of all 64 bytes clears the poison (R182). -/
def Body.patch (b : Body) (off n v : Nat) : Body :=
  match b with
  | .tok c o dt sr (some d) ps w => .tok c o dt sr (some (secPut d off n v)) (ps && n != 64) w
  | .rrep p d sr w (some x) ps => .rrep p d sr w (some (secPut x off n v)) (ps && n != 64)
  | b => b
def Msg.patch (key : SectorKey) (off n v : Nat) (m : Msg) : Msg :=
  if m.key == key then
    let m' := { m with body := m.body.patch off n v }
    if m.checkOk then { m' with check := m'.code } else m'
  else m

/-- Writes n bytes at an offset of a sector into every valid copy, wherever it stands or travels: what the sector's holders
have once the home has gathered all tokens, written, and given them back. (log 15, DEDUCED) (log 43, DEDUCED) -/
def State.cohPut (s : State) (key : SectorKey) (pa off n v : Nat) : State :=
  let whole := n == 64
  let fixL2 := fun (e : L2Sec) => if e.dv then { e with data := secPut e.data off n v, psn := e.psn && !whole } else e
  let fixDie := fun (d : Die) => { d with l2 := tmod d.l2 key fixL2 }
  let fixFlit := fun (f : Flit) => { f with pkts := f.pkts.map (fun x => { x with msg := x.msg.patch key off n v }) }
  let fixPort := fun (t : Port) => { t with egress := t.egress.map (Msg.patch key off n v), replay := t.replay.map fixFlit }
  let fixRecr : Recr → Recr := fun r => if r.key == key then { r with newest := r.newest.map (fun d => secPut d off n v), psn := r.psn && !whole } else r
  let fixCtrl : Ctrl → Ctrl := fun t =>
    { t with recrs := t.recrs.map fixRecr, absorb := t.absorb.map (fun a => { a with msg := a.msg.patch key off n v }) }
  let fixPkg : Pkg → Pkg := fun k => { k with
    dies := k.dies.map (fun e => (e.1, fixDie e.2)), ports := k.ports.map (fun e => (e.1, fixPort e.2)),
    ctrls := k.ctrls.map (fun e => (e.1, fixCtrl e.2)), noPath := k.noPath.map (Msg.patch key off n v) }
  let s1 : State := { s with pkgs := s.pkgs.map (fun e => (e.1, fixPkg e.2)), fabric := s.fabric.map (Msg.patch key off n v) }
  let s2 := if whole then s1.setHomeSec key pa { s1.homeSec key pa with psn := false } else s1
  s2.homeWrite key.home pa (s.homeTag key) (secPut (homeData s key.home pa (s.homeTag key)) off n v)

/-- The name of the sector of an address for a requester in package p (R151, R155). -/
def State.keyOf (s : State) (p asid va : Nat) : SectorKey :=
  { home := (match s.homeOf p asid va with | some h => h.pkg | none => p), asid := asid, sec := va / 64 }

/-- What an access by virtual address finds. -/
inductive VaRes where
  | ok (bs : List Byte)
  | fault (k : FltKind) (va : Nat)
  | misplaced (va : Nat)
  | poisoned (va : Nat)
deriving DecidableEq, Repr

/-- The bytes left in the sector of an address, at most n. -/
def chunk (va n : Nat) : Nat := min n (64 - va % 64)

/-- Reads n bytes at a virtual address, sector by sector. (log 15, DEDUCED) -/
def State.vaRead (s : State) (p asid : Nat) : Nat → Nat → Nat → VaRes × State
  | 0, _, _ => (.ok [], s)
  | fuel + 1, va, n =>
    if n = 0 then (.ok [], s)
    else
      let m := chunk va n
      let r := s.translate p asid va false
      match r.1 with
      | .fault k => (.fault k va, r.2)
      | .misplaced => (.misplaced va, r.2)
      | .poisoned => (.poisoned va, r.2)
      | .host _ a =>
        let rest := r.2.vaRead p asid fuel (va + m) (n - m)
        match rest.1 with
        | .ok bs => (.ok (readBytes s.mem (hostCell a) m ++ bs), rest.2)
        | e => (e, rest.2)
      | .frame _ lin _ _ =>
        let key := s.tokenName (s.keyOf p asid va) (lin / 64 * 64)
        -- memory's copy is decoded before it is read (R265)
        let rd := r.2.homeReadable key (lin / 64 * 64)
        let d := rd.2.cohData key (lin / 64 * 64)
        if d.2 || !rd.1 then (.poisoned va, rd.2)
        else
          let rest := rd.2.vaRead p asid fuel (va + m) (n - m)
          match rest.1 with
          | .ok bs => (.ok (leBytes m (secGet d.1 (va % 64) m) ++ bs), rest.2)
          | e => (e, rest.2)

/-- Checks that every sector of a range can be written. -/
def State.vaWritable (s : State) (p asid : Nat) : Nat → Nat → Nat → VaRes × State
  | 0, _, _ => (.ok [], s)
  | fuel + 1, va, n =>
    if n = 0 then (.ok [], s)
    else
      let m := chunk va n
      let r := s.translate p asid va true
      match r.1 with
      | .fault k => (.fault k va, r.2)
      | .misplaced => (.misplaced va, r.2)
      | .poisoned => (.poisoned va, r.2)
      | _ => r.2.vaWritable p asid fuel (va + m) (n - m)

/-- Writes bytes at a virtual address whose sectors are all writable. -/
def State.vaPut (s : State) (p asid : Nat) : Nat → Nat → List Byte → State
  | 0, _, _ => s
  | fuel + 1, va, bs =>
    if bs.isEmpty then s
    else
      let m := chunk va bs.length
      let s1 := match (s.translate p asid va true).1 with
        | .frame _ lin _ _ => s.cohPut (s.tokenName (s.keyOf p asid va) (lin / 64 * 64)) (lin / 64 * 64) (va % 64) m (leNat (bs.take m))
        | .host _ a => s.hostWrite a (bs.take m)
        | _ => s
      s1.vaPut p asid fuel (va + m) (bs.drop m)

/-- All bytes or none: a write whose translation fails anywhere changes nothing. (log 15, DEDUCED) -/
def State.vaWrite (s : State) (p asid va : Nat) (bs : List Byte) : VaRes × State :=
  let w := s.vaWritable p asid (bs.length + 1) va bs.length
  match w.1 with
  | .ok _ => (.ok [], w.2.vaPut p asid (bs.length + 1) va bs)
  | e => (e, w.2)

/-- The bounds check of the command processor: a global entry of the context (R44, R143). -/
def cpBound (c : Ctx) (ptr : DWord) (n : Nat) (perm : Perm) : Bool :=
  match tget c.bounds (ridOf ptr) with
  | some b => ridOf ptr != 0 && ridOf ptr != 0xFE && ridOf ptr != 0xFF && b.v && b.space == 0 && decide (b.base ≤ vaOf ptr) &&
      decide (vaOf ptr + n - 1 ≤ b.limit) && b.grants perm
  | none => false

/-- A fault record of an agent without a thread here (R291). -/
def State.agentFault (s : State) (p asid : Nat) (kind : FltKind) (write : Bool) (va : Nat) : State :=
  s.updPkg p (fun k => k.faultRec (k.ownerFn asid)
    { asid := asid, kind := kind, write := write, nothread := true, va := va, name := Name3.zero })

end Sys2Proof.Machine
end

