-- ==== Sys2Proof/Machine/Nodes.lean ====
section
/-! DEFINITION. Machine/Nodes.lean: how nodes end (spec/03 R52, R54, R58), the writes of the command processor (R49),
and how blocks and clusters leave a core (R59, R66, R247). -/

namespace Sys2Proof.Machine

/-- The group of an access that no group made. -/
def noGroup : Nat := 2 ^ 40

/-! ### Blocks leave -/

/-- A group that has ended keeps its slot, registers and private window until its last access has completed
(R333, R149). -/
def Pkg.groupHeld (k : Pkg) (g : Nat) : Bool :=
  (match tget k.groups g with | some x => x.alive | none => false) ||
    k.pends.any (fun q => q.acc.gid == g) || k.olog.any (fun o => o.gid == g)

/-- Removes a block with its groups, its outstanding accesses, log entries and queued engine operations; a running
engine operation completes into a tile that is then unbound (R59, R138). (log 79, DEDUCED) -/
def Pkg.dropBlock (k : Pkg) (b : Nat) : Pkg :=
  let gs := k.groupsOf b
  let fixCore := fun (c : Core) => { c with
    queue := c.queue.filter (· != b),
    eng := { c.eng with queue := c.eng.queue.filter (fun o => o.blk != b) } }
  let k1 := k
  { k1 with
    groups := k1.groups.filter (fun e => e.2.blk != b), blocks := tdel k1.blocks b,
    cores := k1.cores.map (fun e => (e.1, fixCore e.2)),
    pends := k1.pends.filter (fun q => !(q.acc.gid ∈ gs)),
    olog := k1.olog.filter (fun o => !(o.gid ∈ gs)) }

def Pkg.dropBlocks (k : Pkg) (bs : List Nat) : Pkg := bs.foldl Pkg.dropBlock k

/-- Drops a whole cluster. -/
def Pkg.dropCluster (k : Pkg) (c : Nat) : Pkg :=
  match tget k.clusters c with
  | some x => let k' := k.dropBlocks x.blocks; { k' with clusters := tdel k'.clusters c }
  | none => k

/-- Drops a cluster's blocks and leaves it ready to be placed again from its launch record (R247, R65). -/
def Pkg.restartCluster (k : Pkg) (c : Nat) : Pkg :=
  match tget k.clusters c with
  | none => k
  | some x =>
    (k.dropBlocks x.blocks).updCluster c (fun y => { y with
      blocks := [], bars := [], arrived := [], ready := true, endCommit := false, committing := none,
      ver := y.ver.map (fun _ => { secs := [], log := [] }) })

/-- Discards a version (R256): the cluster waits to be resumed from its checkpoint, or from its launch record. -/
def Pkg.discardCluster (k : Pkg) (c : Nat) : Pkg :=
  match tget k.clusters c with
  | none => k
  | some x =>
    match x.ckpt with
    | none => k.restartCluster c
    | some ck =>
      let k1 := k.dropBlocks x.blocks
      let saved := fun (b : Block) => { b with state := if b.state == .done then .done else .saved }
      let k2 : Pkg := { k1 with
        groups := ck.groups.foldl (fun t e => tset t e.1 e.2) k1.groups,
        blocks := ck.blocks.foldl (fun t e => tset t e.1 (saved e.2)) k1.blocks,
        olog := k1.olog ++ ck.olog.map (fun o => { o with waiting := false, accs := o.accs.map (fun a => { a with replayed := true }) }) }
      k2.updCluster c (fun y => { y with
        blocks := ck.blocks.map (·.1), bars := ck.bars, arrived := [], ready := true, endCommit := false,
        committing := none, discardAfter := none, ver := y.ver.map (fun _ => { secs := [], log := [] }) })

/-- The struck words that a checkpoint of a cluster reads (R253). -/
def Pkg.ckptWord (k : Pkg) (c : Nat) (w : SramWord) : Bool :=
  let inBlk := fun (b : Nat) => match tget k.blocks b with | some x => x.cluster == c | none => false
  let inGrp := fun (g : Nat) => match tget k.groups g with | some x => inBlk x.blk | none => false
  match w with
  | .reg g _ _ => inGrp g
  | .pred g _ _ => inGrp g
  | .scratch b _ => inBlk b
  | .fullBit b _ => inBlk b
  | .tile b _ _ => inBlk b
  | _ => false

/-- A cluster's blocks are written anew from an image or a launch record: their struck words, and those of a dropped
version, are no more (R262). -/
def State.freshWords (s : State) (p c : Nat) : State :=
  let k := s.pkg p
  let gone := fun (x : Strike) => x.pkg == p && (k.ckptWord c x.word || (match x.word with
    | .version c' _ => c' == c
    | .redLog c' => c' == c
    | _ => false))
  if s.strikes.isEmpty then s else { s with strikes := s.strikes.filter (fun x => !gone x) }

/-- A relaunch (R247) and a discard (R256) of a resident cluster. -/
def State.restart (s : State) (p c : Nat) : State := (s.freshWords p c).updPkg p (·.restartCluster c)
def State.discardVersion (s : State) (p c : Nat) : State := (s.freshWords p c).updPkg p (·.discardCluster c)

/-! ### Writes of the command processor (R49, R54) -/

/-- What became of such a write: performed, lost, or waiting for a page. -/
inductive Wrote where
  | done
  | lost
  | waits
deriving DecidableEq, Repr

/-- Tries a write of a report record or result word. A lost one is named in an error-report record of kind 6. -/
def State.cpTry (s : State) (p asid : Nat) (ptr : DWord) (bs : List Byte) (goOn : CpThen) : Wrote × State :=
  let lose := fun (s : State) => s.updPkg p (fun k => k.report (k.ownerFn asid) (errRec 6 asid 0 0 0 (vaOf ptr) 0 Name3.zero))
  match tget (s.pkg p).ctxs asid with
  | none => (.lost, lose s)
  | some c =>
    if !cpBound c ptr bs.length .wr then (.lost, lose s)
    else
      let w := s.vaWrite p asid (vaOf ptr) bs
      match w.1 with
      | .fault k va =>
        (.waits, (w.2.agentFault p asid k true va).updPkg p (fun x => { x with
          cpWrites := x.cpWrites ++ [{ asid := asid, ptr := ptr, bytes := bs, page := va / 65536, andThen := goOn }] }))
      | .misplaced _ | .poisoned _ => (.lost, lose w.2)
      | _ => (.done, w.2)

/-- A report record (R54). -/
def reportBytes (status : Nat) (tag lid blocks : Nat) : List Byte :=
  leBytes 4 (status % 256) ++ leBytes 4 tag ++ leBytes 4 lid ++ leBytes 4 blocks

/-! ### Nodes end -/

/-- A node waits for nothing more (R52, R58). -/
def Node.clear (n : Node) : Bool := n.waitsFor.isEmpty && n.edges.all (fun e => e.tile.isSome)
def Node.incomplete (n : Node) : Bool := n.status.isNone
def Node.depends (n : Node) (on : Nat) : Bool := decide (on ∈ n.waitsFor) || n.edges.any (fun e => e.prod == on)

/-- Graphs, phases and jobs of a queue whose last node has ended are counted (R49, R44). -/
def Pkg.countGroups (k : Pkg) (q : Nat) : Pkg :=
  let open_ := k.nodes.filter (fun e => e.2.q == q && e.2.incomplete)
  let x := k.queue q
  let gDone := x.openG.filter (fun g => !open_.any (fun e => e.2.graph == g.1))
  let pDone := x.openP.filter (fun f => !open_.any (fun e => decide (e.2.ord ≤ f.2)))
  let jDone := x.openJ.filter (fun f => !open_.any (fun e => decide (e.2.ord ≤ f.2)))
  k.updQueue q (fun x => { x with
    openG := x.openG.filter (fun g => !(gDone.any (fun y => y.1 == g.1))), gcnt := x.gcnt + BitVec.ofNat 32 gDone.length,
    openP := x.openP.filter (fun g => !(pDone.any (fun y => y.1 == g.1))), pcnt := x.pcnt + BitVec.ofNat 32 pDone.length,
    openJ := x.openJ.filter (fun g => !(jDone.any (fun y => y.1 == g.1))), jcnt := x.jcnt + BitVec.ofNat 32 jDone.length })

/-- Starts COPY nodes that wait for nothing: the engine of the die with the shortest queue (R48, R316). -/
def Pkg.shortestBte (part : Part) (k : Pkg) (die : Nat) : Option Nat :=
  let cands := (List.range (8 * Config.computeDies part)).filter (fun e => (die == 0xFF || e / 8 == die) &&
    decide ((k.bte e).length < Config.bteQueue))
  cands.foldl (fun best e => match best with
    | none => some e
    | some b => if (k.bte e).length < (k.bte b).length then some e else some b) none

/-- A context whose nodes may start (R233, R247). (log 65, DEDUCED) -/
def Pkg.starts (k : Pkg) (asid : Nat) : Bool :=
  match tget k.ctxs asid with
  | some c => !c.killed && !c.error
  | none => false

/-- Ready COPY nodes start where an engine has room (R54, R316; log 65, DEDUCED). -/
def Pkg.startCopies (part : Part) (k : Pkg) : Pkg :=
  let ready := (k.nodes.filter (fun e => e.2.kind == .copy && e.2.incomplete && e.2.clear && e.2.started.isEmpty && !e.2.cancelled &&
    k.starts e.2.asid)).map (·.1)
  ready.foldl (fun k nid => match tget k.nodes nid with
    | none => k
    | some n => match k.shortestBte part n.die with
      | none => k
      | some e =>
        let op : BteOp := { id := k.uid, asid := n.asid, inc := n.inc, blk := none, node := some nid, gid := noGroup, lane := 0, ccb := n.ccb,
                            die := e / 8, cancelled := false, wait := none, done := 0 }
        ({ k with btes := tset k.btes e (k.bte e ++ [op]), uid := k.uid + 1 }).updNode nid (fun n => { n with started := [0] })) k

/-- The accounting of an ended node: QLCNT, the queue's failure, its dependents (R44, R54). The list names the nodes
that end with it: status 0x01 for dependents of a node not complete, 0x00 for empty nodes that now wait for nothing. (log 17, DEDUCED) -/
def Pkg.countNode (k : Pkg) (nid : Nat) : Pkg × List (Nat × Nat) :=
  match tget k.nodes nid with
  | none => (k, [])
  | some n =>
    let st := n.status.getD 0
    let k1 := k.updQueue n.q (fun x => { x with lcnt := x.lcnt + 1, failed := x.failed || st != 0 })
    let fix := fun (m : Node) => { m with waitsFor := m.waitsFor.filter (· != nid), edges := m.edges.filter (fun e => e.prod != nid) }
    let broken := (k1.nodes.filter (fun e => e.2.incomplete && e.2.depends nid)).map (·.1)
    let k2 := if st = 0 then { k1 with nodes := k1.nodes.map (fun e => (e.1, fix e.2)) } else k1
    let k3 := if k2.blocks.any (fun e => e.2.node == nid) then k2
      else { k2 with nodes := tdel k2.nodes nid, clusters := k2.clusters.filter (fun e => e.2.node != nid),
                     slices := k2.slices.filter (fun e => e.2.node != nid) }
    let live := (k3.nodes.filter (fun e => e.2.incomplete)).map (fun e => e.2)
    let kept := fun (tag : Nat) => if tag % 2 = 0 then tag != 2 * n.seq
      else live.any (fun m => m.seq == tag / 2 || decide (tag / 2 ∈ m.tileOf))
    let k4 := k3.updCtx n.asid (fun c => { c with sched := c.sched.filter (fun e => decide (2 ^ 40 ≤ e.1) || kept e.1) })
    let k5 := k4.countGroups n.q
    if st = 0 then
      (k5, (k5.nodes.filter (fun e => e.2.kind == .empty && e.2.incomplete && e.2.clear && e.2.edges.isEmpty)).map (fun e => (e.1, 0)))
    else (k5, broken.map (fun b => (b, 1)))

/-- Ends nodes with their statuses, and in turn every node that ends with them. -/
def State.endNodes (p : Nat) : Nat → List (Nat × Nat) → State → State
  | 0, _, s => s
  | _, [], s => s
  | fuel + 1, (nid, st) :: work, s =>
    match tget (s.pkg p).nodes nid with
    | none => State.endNodes p fuel work s
    | some n =>
      if n.status.isSome then State.endNodes p fuel work s
      else
        let s1 := s.updNode p nid (fun n => { n with status := some st })
        let w := if n.report = 0 then (.done, s1)
          else s1.cpTry p n.asid n.report (reportBytes st n.tag.toNat n.lid n.done.length) (.node nid st)
        match w.1 with
        | .waits => State.endNodes p fuel work w.2
        | _ =>
          let c := (w.2.pkg p).countNode nid
          State.endNodes p fuel (work ++ c.2) (w.2.updPkg p (fun _ => c.1.startCopies s.part))

def lehrFuel : Nat := 8192
/-- One node ends with a status, and what depends on it follows (R54; log 29, DEDUCED). -/
def State.endNode (s : State) (p nid status : Nat) : State := State.endNodes p lehrFuel [(nid, status)] s

/-- A node's record has landed or is lost: the rest of its end. -/
def State.afterWrite (s : State) (p : Nat) (t : CpThen) : State :=
  match t with
  | .nothing => s
  | .node nid _ =>
    let c := (s.pkg p).countNode nid
    State.endNodes p lehrFuel c.2 (s.updPkg p (fun _ => c.1.startCopies s.part))

def State.cpWrite (s : State) (p asid : Nat) (ptr : DWord) (bs : List Byte) : State := (s.cpTry p asid ptr bs .nothing).2

/-! ### Context errors (R247) -/

/-- A context error in one package: dispatch stops, the groups stand, the nodes end with status 0x05, the queues stay
blocked. -/
def State.errorIn (s : State) (q asid : Nat) : State :=
  let s1 := s.updCtx q asid (fun c => { c with error := true })
  let nodes := ((s1.pkg q).nodes.filter (fun e => e.2.asid == asid && e.2.incomplete)).map (fun e => (e.1, 5))
  let s2 := State.endNodes q lehrFuel nodes s1
  let block := fun (x : Queue) => if bits x.ctl 11 2 == asid && x.state == 1 then { x with state := 2 } else x
  s2.updPkg q (fun k => { k with queues := k.queues.map (fun e => (e.1, block e.2)) })

/-- A context error, in every package the context spans; one record names it (R247, R431). -/
def State.contextError (s : State) (p asid cause va : Nat) (pc : Addr) (name : Name3) : State :=
  match tget (s.pkg p).ctxs asid with
  | none => s
  | some c =>
    if c.error then s
    else
      let s1 := s.updPkg p (fun k => k.report (k.ownerFn asid) (errRec 1 asid cause 0 0 va pc name))
      (c.spans.filter (fun q => thas s.pkgs q)).foldl (fun s q => s.errorIn q asid) s1

/-- The fault mode of a cluster that took an unhandled trap or consumed an uncorrectable error (R247, R256, R257). -/
def State.faultMode (s : State) (p cluster cause va : Nat) (pc : Addr) (name : Name3) : State :=
  let k := s.pkg p
  match tget k.clusters cluster with
  | none => s
  | some c => match tget k.nodes c.node with
    | none => s
    | some n =>
      if n.desc.fault = 1 then
        if 2 ≤ c.relaunches then s.contextError p n.asid cause va pc name
        else (s.restart p cluster).updCluster p cluster (fun c => { c with relaunches := c.relaunches + 1 })
      else if n.desc.fault = 2 then
        if c.committing.isSome then s.updCluster p cluster (fun c => { c with discardAfter := some true })
        else if 2 ≤ c.discards then s.contextError p n.asid cause va pc name
        else (s.discardVersion p cluster).updCluster p cluster (fun c => { c with discards := c.discards + 1 })
      else s.contextError p n.asid cause va pc name

end Sys2Proof.Machine
end

