-- ==== Sys2Proof/Machine/Ops.lean ====
section
/-! DEFINITION. Machine/Ops.lean: the operations that every issue shares: taking a trap and returning from one
(spec/11 R239 to R248), halting (spec/13 R273 to R279), minimum-PC selection and fairness (spec/02 R31 to R35), and one
issue of one instruction with its checks in the order of R241. -/

namespace Sys2Proof.Machine

/-! ### Selection (R31, R32) -/

/-- The lowest PC of a group's live lanes: where its next boundary stands. -/
def Group.lowPc (g : Group) (m : Mask) : Addr :=
  (Mask.lanes m).foldl (fun best i => if (g.lane i).pc < best then (g.lane i).pc else best) (BitVec.allOnes 56)
def Group.atPc (g : Group) (m : Mask) (a : Addr) : Mask := Mask.ofPred (fun i => bit m i && (g.lane i).pc == a)

/-- The lanes that take part in selection: in a handler, its lanes that have not returned (R244). -/
def Group.eligible (g : Group) : Mask :=
  match g.handler with
  | some h => g.live &&& h.lanes &&& ~~~ h.returned
  | none => g.live

/-- select() of R32. -/
def Group.select (g : Group) : Group × Addr × Mask :=
  let live := g.eligible
  let plain := fun (g : Group) => let m := g.lowPc live; (g, m, g.atPc live m)
  if g.handler.isSome then plain g
  else if g.fair.slice then
    let in_ := live &&& g.fair.set
    let out := live &&& ~~~ g.fair.set
    let ms := g.lowPc in_
    if in_ == 0 || g.fair.n == 0 || (out != 0 && decide (ms ≤ g.lowPc out)) then
      plain { g with fair := { g.fair with slice := false, cnt := 0 } }
    else (g, ms, g.atPc in_ ms)
  else plain g

/-- hand_off of R32. -/
def Group.handOff (g : Group) (addr : Addr) (w : Mask) (len : Nat) : Group :=
  let above := Mask.ofPred (fun i => bit w i && decide (addr < (g.lane i).pc))
  if above == 0 || len == 0 then { g with fair := { g.fair with slice := false, cnt := 0 } }
  else
    let b := g.lowPc above
    { g with fair := { g.fair with set := g.atPc w b, slice := true, n := len, cnt := 0 } }

/-! ### Debugger stops (R245, R273, R277) -/

/-- A debugger is attached to the context: ATT of the owner's window that serves it (R272). -/
def Pkg.attached (k : Pkg) (asid : Nat) : Bool :=
  match tget k.ctxs asid with
  | some c => let d := (k.fn c.fn).dbgctl; bit d 10 && bits d 9 0 == asid
  | none => false

/-- STOPW: the extent that a stop halts (R272). -/
def Pkg.stopw (k : Pkg) (asid : Nat) : Nat :=
  match tget k.ctxs asid with
  | some c => bits (k.fn c.fn).dbgctl 12 11
  | none => 0

/-- Writes a stop record while the queue has room; the first into an empty queue sends vector 3 (R273). -/
def Pkg.pushStop (k : Pkg) (asid : Nat) (r : StopRec) : Pkg :=
  match tget k.ctxs asid with
  | none => k
  | some c =>
    if c.stops.length < Config.stopQueue then
      let k1 := k.updCtx asid (fun c => { c with stops := c.stops ++ [r] })
      if c.stops.isEmpty then k1.msix c.fn 3 else k1
    else k

/-- The groups of an extent around a group: 0 group, 1 block, 2 cluster, 3 context (R272). -/
def Pkg.extent (k : Pkg) (g lvl : Nat) : List Nat :=
  match tget k.groups g with
  | none => []
  | some gr =>
    match lvl with
    | 0 => [g]
    | 1 => k.groupsOf gr.blk
    | 2 => (match tget k.blocks gr.blk with | some b => k.groupsOfCluster b.cluster | none => [g])
    | _ => (match k.asidOfGroup g with | some a => k.groupsOfCtx a | none => [g])

/-- Halts one group with a cause and a record (R277). -/
def State.haltGroup (s : State) (p g : Nat) (cause : BitVec 8) (pc : Addr) (lanes : Mask) (lane : Nat) : State :=
  match tget (s.pkg p).groups g with
  | none => s
  | some gr =>
    if gr.halted && cause == 0x14 then s
    else
      let name := s.threadName p g lane
      let asid := ((s.pkg p).asidOfGroup g).getD 0
      (s.updPkg p (fun k => k.pushStop asid { name := name, cause := cause, pc := pc, lanes := lanes })).updGroup p g
        (fun x => { x with halted := true, haltedAt := if x.halted then x.haltedAt else (s.pkg p).arith, step := none })

/-- HALT to every package of the pod (R227). -/
def State.broadcastHalt (s : State) (p : Nat) (b : Body) : State :=
  (s.pod.filter (· != p)).foldl (fun s q => s.send (.cp p) (.chan q) 0 0 noKey 0 b) s

/-- Dispatch of the context stops in this package, which counts as halted (R277, R227). -/
def State.haltContext (s : State) (p asid : Nat) : State :=
  let s1 := s.updCtx p asid (fun c => { c with haltedSince := some (c.haltedSince.getD s.now) })
  if (s1.pkg p).halted then s1
  else (s1.updPkg p (fun k => { k with halted := true, chan := { k.chan with lastHalt := s.now } })).broadcastHalt p .halt

/-- Halts every other group of an extent at its boundary with cause 0x14 (R277). -/
def State.haltOthers (s : State) (p g lvl : Nat) : State :=
  let k := s.pkg p
  let others := (k.extent g lvl).filter (· != g)
  let s1 := others.foldl (fun s o => match tget (s.pkg p).groups o with
    | some x => if x.alive then s.haltGroup p o 0x14 x.select.2.1 x.select.2.2 (Mask.lowest x.select.2.2) else s
    | none => s) s
  if lvl = 3 then s1.haltContext p ((k.asidOfGroup g).getD 0) else s1

/-! ### Taking a trap -/

/-- Causes that a device trap handler may receive (R240, R243). -/
def handlerCause (c : BitVec 8) : Bool :=
  decide (1 ≤ c.toNat) && decide (c.toNat ≤ 0x10) && c != 0x06 && c != 0x07 && c != 0x0F

/-- A cause is delivered to the handler when its EN bit is 1, ENTRY is nonzero and the group is not in its handler
(R243). -/
def Loc.delivers (l : Loc) (c : BitVec 8) : Bool :=
  handlerCause c && bit l.ctx.trapEn c.toNat && l.ctx.trapPc != 0 && l.grp.handler.isNone

/-- A rewrite of the trap words of the context is in progress (R289). -/
def Pkg.rewriting (k : Pkg) (asid : Nat) : Bool :=
  match tget k.ctxs asid with
  | some c => let f := k.fn c.fn; f.busy && bits f.ctxcmd 1 0 == 2 && bits f.ctxcmd 11 2 == asid
  | none => false

/-- An unhandled trap (R245): an attached debugger halts the extent of STOPW; otherwise the driver is told and the
cluster's fault mode decides (R247). -/
def State.unhandled (s : State) (l : Loc) (lanes : Mask) (cause : BitVec 8) (tpc : Addr) (taddr : DWord) (lane : Nat) : State :=
  let k := s.pkg l.p
  if k.attached l.asid then
    (s.haltGroup l.p l.g cause tpc lanes lane).haltOthers l.p l.g (k.stopw l.asid)
  else
    let name := s.threadName l.p l.g lane
    let s1 := s.updPkg l.p (fun k => k.report l.ctx.fn (errRec 2 l.asid cause.toNat 0 0 (vaOf taddr) tpc name))
    s1.faultMode l.p l.blk.cluster cause.toNat (vaOf taddr) tpc name

/-- Taking a trap, the one operation for every cause: delivery to the device trap handler (R243, R244), or the
unhandled path (R245). `lanes` are the selected lanes of the trapping issue. (log 75, DEDUCED) -/
def State.takeTrap (s : State) (l : Loc) (lanes : Mask) (cause : BitVec 8) (tpc : Addr) (taddr : DWord) (lane : Nat)
    (code : BitVec 9) : State :=
  if l.delivers cause then
    if (s.pkg l.p).rewriting l.asid then
      s.updGroup l.p l.g (fun g => { g with holds := (g.holds.filter (fun h => h.addr != tpc)) ++
        [{ kind := .trapWords, addr := tpc, lanes := lanes, since := (s.pkg l.p).arith, counted := some (s.pkg l.p).arith, wdog := (s.pkg l.p).arith, hung := false, data := [] }] })
    else
      let entry : Addr := l.ctx.trapPc.extractLsb' 0 56
      let h : Handler := { lanes := lanes, returned := 0, cause := cause, lane := BitVec.ofNat 5 lane, code := code,
                           tpc := tpc.setWidth 64, taddr := taddr }
      s.updGroup l.p l.g (fun g => { (g.onLanes lanes (fun _ x => x.setPc entry)) with
        handler := some h, holds := g.holds.filter (fun x => x.addr != tpc) })
  else s.unhandled l lanes cause tpc taddr lane

/-- The return (R244): each executing lane goes to s.tpc[55:0]; the handler ends when every handler lane has
returned or exited. -/
def Group.endHandler (g : Group) : Group :=
  match g.handler with
  | some h => if laneList.all (fun i => !bit h.lanes i || bit h.returned i || !(g.lane i).live) then { g with handler := none } else g
  | none => g

def Group.trapReturn (g : Group) (ex : Mask) : Group × Tab Nat Addr :=
  match g.handler with
  | some h => ({ g with handler := some { h with returned := h.returned ||| ex } },
      (Mask.lanes ex).map (fun i => (i, h.tpc.extractLsb' 0 56)))
  | none => (g, [])

/-! ### Fairness (R32 to R34) -/

/-- The wait of a group at an address, if it has one. -/
def Group.hold? (g : Group) (addr : Addr) : Option Hold := g.holds.find? (fun h => h.addr == addr)
/-- The wait at an address is over (R33; log 76, DEDUCED). -/
def Group.dropHold (g : Group) (addr : Addr) : Group := { g with holds := g.holds.filter (fun h => h.addr != addr) }

/-- While a blocking wait or a stall holds the selected lanes and others wait, the count advances by one for every 16
clocks, in a slice too; when it expires the held instruction is left unissued and a slice begins (R33). A wait for a register or a fetch
holds no issued instruction. -/
def Group.credit (g : Group) (now : Nat) : Group :=
  let addr := g.select.2.1
  let w := g.live &&& ~~~ g.select.2.2
  if g.handler.isSome || w == 0 then g
  else match g.hold? addr with
    | none => g
    | some h => match (if h.kind == .pending || h.kind == .fetch then none else h.counted) with
      | none => g
      | some t =>
        let n := (now - t) / 16
        let mark := fun (g : Group) (m : Option Nat) => { g with holds := g.holds.map (fun x => if x.addr == addr then { x with counted := m } else x) }
        let c := g.select.1.fair.cnt + n
        let g1 := { g.select.1 with fair := { g.select.1.fair with cnt := c } }
        if decide (0 < g.fair.len) && decide (g.fair.len ≤ c) then
          let g2 := { g1.handOff addr w g.fair.len with retries := 0 }
          mark g2 (if g2.fair.slice then none else some now)
        else mark g1 (some (t + 16 * n))

/-- update(addr, W, yielded) of R32, after the issue. The count stands still in a handler (R244). (log 38, DEDUCED) -/
def Group.fairUpdate (g : Group) (addr : Addr) (w : Mask) (yielded : Bool) : Group :=
  let f := g.fair
  if f.slice then
    let g1 := { g with fair := { f with n := f.n - 1 } }
    if yielded then g1.handOff addr w (f.n - 1) else g1
  else
    let c := if w != 0 then f.cnt + 1 else 0
    let g1 := { g with fair := { f with cnt := c } }
    if yielded then g1.handOff addr w (if f.len > 0 then f.len else 256)
    else if f.len > 0 && c == f.len then g1.handOff addr w f.len
    else g1

/-! ### Retirement of quadrants and cores (R20, R21, R260) -/

def Pkg.coresInService (part : Part) (k : Pkg) : List Nat :=
  (List.range (Config.cores part)).filter (fun c => !(k.core c).retired && !((c / 64) ∈ k.plat.deadDies))

def residentState (b : BlkState) : Bool := b == .resident || b == .draining || b == .saving
/-- The block of a group is resident, so that its core can act for it (R163). -/
def Pkg.groupResident (k : Pkg) (g : Nat) : Bool :=
  match tget k.groups g with
  | some x => match tget k.blocks x.blk with | some b => residentState b.state | none => false
  | none => false

/-- Slots of a core that groups of resident blocks occupy. -/
def Pkg.usedSlots (k : Pkg) (core : Nat) : List Nat :=
  (k.groups.filter (fun e => e.2.core == core && k.groupHeld e.1 &&
    (match tget k.blocks e.2.blk with | some b => residentState b.state | none => false))).map (fun e => e.2.slot)
def Pkg.freeSlots (k : Pkg) (core : Nat) : List Nat :=
  (List.range Config.groupSlots).filter (fun sl => !((sl / 8) ∈ (k.core core).retiredQuads) && !(sl ∈ k.usedSlots core))

/-- The blocks that move with a block: its cluster, or its whole die slice (R28, R29). -/
def Pkg.unitClusters (k : Pkg) (c : Nat) : List Nat :=
  match k.slices.find? (fun e => decide (c ∈ e.2.clusters)) with
  | some e => e.2.clusters
  | none => [c]
def Pkg.blocksOfClusters (k : Pkg) (cs : List Nat) : List Nat :=
  (k.blocks.filter (fun e => decide (e.2.cluster ∈ cs))).map (·.1)

/-- A block leaves its core: resident ones begin to save, queued ones return to the Lehr (R21, R64, R65). (log 89, DEDUCED) -/
def Pkg.beginSave (k : Pkg) (c : Nat) : Pkg :=
  (k.blocksOfClusters (k.unitClusters c)).foldl (fun k b =>
    match tget k.blocks b with
    | none => k
    | some x =>
      if x.state == .resident || x.state == .draining then k.updBlock b (fun b => { b with state := .saving })
      else k) k

/-- A cluster whose blocks are all queued goes back to the Lehr: unstarted, or with the image it was saved with (R64). -/
def Pkg.unqueue (k : Pkg) (c : Nat) : Pkg :=
  match tget k.clusters c with
  | none => k
  | some x =>
    if x.blocks.any (fun b => !(k.groupsOf b).isEmpty) then
      let leave := fun (y : Core) => { y with queue := y.queue.filter (fun b => !(decide (b ∈ x.blocks))) }
      let back := fun (k : Pkg) (b : Nat) => k.updBlock b (fun y => if y.state == .queued then { y with state := .saved } else y)
      ((x.blocks.foldl back { k with cores := k.cores.map (fun e => (e.1, leave e.2)) })).updCluster c (fun y => { y with ready := true })
    else if x.relaunches = 0 && x.discards = 0 && x.ckpt.isNone then
      let k1 := k.dropBlocks x.blocks
      let k2 : Pkg := { k1 with clusters := tdel k1.clusters c }
      k2.updNode x.node (fun n => { n with started := n.started.filter (· != x.index) })
    else k.restartCluster c

/-- A retirement under way: its capacity figures, health register, message and log entry follow when the work has moved (R21). -/
def Pkg.retiring (k : Pkg) (code unit : Nat) : Pkg := k.updPlat (fun p => { p with retiring := p.retiring ++ [(code, unit)] })

/-- A core retires: its blocks are saved and re-queued, queued ones return (steps 1 and 2 of R21). -/
def Pkg.retireCore (k : Pkg) (core : Nat) : Pkg :=
  if (k.core core).retired then k
  else
    let here := (k.blocks.filter (fun e => e.2.core == core))
    let k1 := k.updCore core (fun c => { c with retired := true, queue := [] })
    let k2 := (here.filter (fun e => residentState e.2.state)).foldl (fun k e => k.beginSave e.2.cluster) k1
    let k3 := (here.filter (fun e => e.2.state == .queued)).foldl (fun k e => k.unqueue e.2.cluster) k2
    k3.retiring 0x02 core

/-- A quadrant retires: no group issues there any more, its groups move to the others of the core once they are drained
(R193), and queued blocks that the core takes no longer return; a second one retires the core (R20, R21, R260). R21 does not say
whether that second retirement is reported once or twice: both are reported, 0x01 and then 0x02 (log 100, DESIGN CHOICE). -/
def Pkg.retireQuad (k : Pkg) (core quad : Nat) : Pkg :=
  if quad ∈ (k.core core).retiredQuads || (k.core core).retired then k
  else
    let k1 := (k.updCore core (fun c => { c with retiredQuads := c.retiredQuads ++ [quad] })).retiring 0x01 (4 * core + quad)
    if 2 ≤ (k1.core core).retiredQuads.length then k1.retireCore core
    else
      let big := fun (b : Block) => match tget k1.nodes b.node with | some n => decide (24 < n.desc.groups) | none => false
      (k1.blocks.filter (fun e => e.2.core == core && e.2.state == .queued && big e.2)).foldl (fun k e => k.unqueue e.2.cluster) k1

/-! ### Soft errors that an issue meets (R258, R259, R262) -/

/-- Physical lanes of a logical lane's two copies (R258). -/
def copiesOf (i : Nat) : List Nat := [i, 32 + (i + 1) % 32]

/-- The physical lanes that an issue uses for a logical lane: both copies, or, unchecked, the lane of one half (R40, R258); a
uniform instruction uses the uniform pipe (R41). -/
def physLanes (uni checked : Bool) (i : Nat) : List Nat := if uni then [64, 65] else if checked then copiesOf i else [i, 32 + i]
/-- A faulty lane, or pipe, that this issue would use. -/
def State.laneHit (s : State) (l : Loc) (uni : Bool) (sel : Mask) : Option LaneFault :=
  s.laneFaults.find? (fun f => f.pkg == l.p && f.quad == quadOf l.core l.grp.slot && f.left != some 0 &&
    (Mask.lanes sel).any (fun i => decide (f.lane ∈ physLanes uni l.checked i)))
/-- One disturbed issue of a faulty lane has been spent. -/
def State.useFault (s : State) (f : LaneFault) : State :=
  { s with laneFaults := s.laneFaults.map (fun x => if x = f then { x with left := x.left.map (· - 1) } else x) }

/-- A mismatch (R259): nothing is written, the instruction runs again; the third retires the quadrant (R260). -/
def State.mismatch (s : State) (l : Loc) (f : LaneFault) : State :=
  let s2 := (s.useFault f).bump l.p (unitCore l.core) wLcmp
  if l.grp.retries < 2 then s2.updGroup l.p l.g (fun g => { g with retries := g.retries + 1 })
  else (s2.updGroup l.p l.g (fun g => { g with retries := 0 })).updPkg l.p (·.retireQuad l.core (l.grp.slot / 8))

/-- A faulty lane of an unchecked launch adds an error to registers, which nothing detects (R261). (log 98, DESIGN CHOICE) -/
def State.disturb (s : State) (p g : Nat) (lanes : Mask) (uni : Bool) (rs : List Nat) : State :=
  let err := fun (i r : Nat) => Config.laneError (s.draws + 128 * (if uni then 0 else i) + r)
  let s1 := s.updGroup p g (fun x => x.onLanes lanes (fun i y => rs.foldl (fun y r => y.setV r (x.v i r ^^^ err i r)) y))
  { s1 with draws := s.draws + 4096 }
/-- Source registers that a disturbed issue read wrong have their values again, where nothing has written them. -/
def State.undisturb (s : State) (p : Nat) (wrong right : Group) (g : Nat) (rs : List Nat) : State :=
  s.updGroup p g (fun x => x.onLanes allLanes (fun i y => rs.foldl (fun y r =>
    if x.v i r == wrong.v i r then y.setV r (right.v i r) else y) y))

/-- The struck words that an instruction reads (R262). (log 43, DEDUCED) -/
def State.struck (s : State) (p : Nat) (w : SramWord) : Option Strike := s.strikes.find? (fun x => x.pkg == p && x.word == w)
/-- A register is checked per 64-bit word; the model names the register itself. (log 43, DEDUCED) -/
def State.readWords (s : State) (p unit : Nat) (ws : List SramWord) : Bool × State :=
  ws.foldl (fun acc w => match acc.2.struck p w with
    | none => acc
    | some x =>
      if x.double then (true, acc.2.bump p unit wSunc)
      else (acc.1, ({ acc.2 with strikes := acc.2.strikes.filter (fun y => y != x) } : State).bump p unit wScor)) (false, s)
/-- A whole write replaces the stored value and its check bits (R262). (log 43, DEDUCED) -/
def State.mend (s : State) (p : Nat) (ws : List SramWord) : State :=
  if s.strikes.isEmpty then s else { s with strikes := s.strikes.filter (fun x => !(x.pkg == p && ws.contains x.word)) }

/-! ### One issue -/

/-- What the checks before an instruction's own traps need to know of it (R95, R241). -/
structure Form where
  gd : Guard := Guard.always
  uni : Bool := false
  /-- Registers read and written, pairs as two numbers. -/
  srcs : List Nat := []
  dsts : List Nat := []
  /-- Predicates read beside the guard, and predicates written. -/
  preds : List Nat := []
  pdsts : List Nat := []
  /-- Needs the FP64 unit (R5). -/
  needF64 : Bool := false
  /-- The role it is bound to (R38). -/
  needRole : Option Nat := none
  /-- Further conditions for cause 0x01 that need the state. -/
  bad : Bool := false

/-- The issue in progress. -/
structure Iss where
  loc : Loc
  addr : Addr
  sel : Mask
  ex : Mask
  words : Word × Option Word

/-- The leader lane of an issue (R10). -/
def Iss.leader (i : Iss) : Nat := Mask.lowest i.ex
def Iss.g (i : Iss) : Group := i.loc.grp

/-- What an issue does to fairness beyond the update of R32: nothing, a YIELD (R34), or a write of s.fair (R35). -/
inductive Hand where
  | keep
  | yield
  | set (len : Nat)
deriving DecidableEq, Repr

/-- What an instruction's operation comes to. -/
inductive Res where
  /-- Its effect, PCs written otherwise than by advancing, lanes that a watchpoint matched, and what fairness sees. -/
  | done (s : State) (pcs : Tab Nat Addr) (watched : Mask) (hand : Hand)
  /-- A trap of its entry's list: cause, s.taddr, the lane at fault, TRAP's code. -/
  | trap (cause : BitVec 8) (taddr : DWord) (lane : Option Nat) (code : BitVec 9)
  /-- A wait that holds it at its address (R33). -/
  | wait (kind : WaitKind) (data : List Nat) (s : State)
  /-- A trap beside which something was counted: an uncorrectable word (R262). -/
  | fail (cause : BitVec 8) (taddr : DWord) (lane : Option Nat) (s : State)

def Res.ok (s : State) : Res := .done s [] 0 .keep
def Res.bad (cause : BitVec 8) : Res := .trap cause 0 none 0
def Res.badAt (cause : BitVec 8) (taddr : DWord) (lane : Nat) : Res := .trap cause taddr (some lane) 0

/-- The address after an instruction (R75). -/
def nextPc (a : Addr) (words : Word × Option Word) : Addr := if words.2.isSome then a + 8 else a + 4

/-- Holds an issued instruction at its address: the beginning of the wait is kept while it goes on. (log 76, DEDUCED) -/
def State.hold (s : State) (i : Iss) (kind : WaitKind) (data : List Nat) : State :=
  let now := (s.pkg i.loc.p).arith
  s.updGroup i.loc.p i.loc.g (fun g =>
    let h : Hold := match g.hold? i.addr with
      | some h => if h.kind == kind then { h with lanes := i.sel, counted := some (h.counted.getD now), data := data }
          else { kind := kind, addr := i.addr, lanes := i.sel, since := now, counted := some now, wdog := now, hung := false, data := data }
      | none => { kind := kind, addr := i.addr, lanes := i.sel, since := now, counted := some now, wdog := now, hung := false, data := data }
    let g1 := g.dropHold i.addr
    { g1 with holds := g1.holds ++ [h], retries := 0, skipBp := false, readySince := s.turns })

/-- The lanes that waited at an issue (R32). (log 76, DEDUCED) -/
def Iss.waited (i : Iss) : Mask := i.loc.grp.live &&& ~~~ i.sel

/-- Fairness after an issue: the update of R32, and a write of s.fair from the next issue on (R35). -/
def Group.afterIssue (g : Group) (i : Iss) (hand : Hand) : Group :=
  let g1 := if i.loc.grp.step.isSome || i.loc.grp.handler.isSome then g else g.fairUpdate i.addr i.waited (hand == .yield)
  match hand with
  | .set len => { g1 with fair := { g1.fair with len := len, cnt := 0, slice := false } }
  | _ => g1

/-- An issue retires: PCs advance, the wait ends, fairness and r count it (R31, R32, R64); a debugger's step is not
counted (R279). -/
def State.retire (s : State) (i : Iss) (pcs : Tab Nat Addr) (hand : Hand) : State :=
  let next := nextPc i.addr i.words
  let s1 := s.updGroup i.loc.p i.loc.g (fun g =>
    let g1 := g.onLanes i.sel (fun n x => if x.live then x.setPc ((tget pcs n).getD next) else x)
    let g2 := { (g1.dropHold i.addr) with retries := 0, skipBp := false, readySince := s.turns }
    (g2.afterIssue i hand).endHandler)
  s1.updBlock i.loc.p i.loc.grp.blk (fun b => { b with r := b.r + 1 })

/-- A debugger's step is over: BUSY falls (R279). -/
def State.stepOver (s : State) (l : Loc) : State :=
  (s.updGroup l.p l.g (fun g => { g with step := none })).updFn l.p l.ctx.fn (fun f => { f with dbgBusy := false, dbgRes := 0 })
/-- The stop that ends a step: cause 0x13, and the extent of STOPW halts (R277, R279). -/
def State.stepStop (s : State) (l : Loc) (addr : Addr) (lanes : Mask) : State :=
  (s.haltGroup l.p l.g 0x13 addr lanes (Mask.lowest lanes)).haltOthers l.p l.g ((s.pkg l.p).stopw l.asid)

/-- The end of a debugger's step with its after trap 0x13 (R279), or a watchpoint's 0x12 (R276). (log 75, DEDUCED) -/
def State.afterTraps (s : State) (i : Iss) (watched : Mask) : State :=
  match s.loc i.loc.p i.loc.g with
  | none => s
  | some l =>
    let stepping := i.loc.grp.step.isSome
    let s2 := if stepping then s.stepOver l else s
    let l2 : Loc := { l with grp := { l.grp with step := none } }
    if watched != 0 then s2.takeTrap l2 watched 0x12 i.addr 0 (Mask.lowest watched) 0
    else if stepping then s2.stepStop l i.addr i.sel
    else s2

/-- The words of register memory that an instruction reads: source registers of its lanes and predicates (R262). -/
def Form.guards (f : Form) (i : Iss) : List SramWord :=
  if f.gd.g = 7 then [] else (Mask.lanes i.sel).map (fun n => SramWord.pred i.loc.g n f.gd.g.toNat)
def Form.words (f : Form) (i : Iss) : List SramWord :=
  let lanes := if f.uni then [i.leader] else Mask.lanes i.ex
  (lanes.map (fun n => (f.srcs.filter (· != 0)).map (fun r => SramWord.reg i.loc.g n r) ++
    (f.preds.filter (· < 7)).map (fun q => SramWord.pred i.loc.g n q))).flatten ++ f.guards i
/-- The words that an instruction replaces whole (R262). -/
def Form.written (f : Form) (i : Iss) : List SramWord :=
  let lanes := if f.uni then laneList else Mask.lanes i.ex
  (lanes.map (fun n => (f.dsts.filter (fun r => !(f.srcs.contains r))).map (fun r => SramWord.reg i.loc.g n r) ++
    (f.pdsts.filter (fun q => !(f.preds.contains q))).map (fun q => SramWord.pred i.loc.g n q))).flatten

/-- A group whose issue waits for a register of the scoreboard (R162). -/
def Form.pending (f : Form) (g : Group) : Bool := (f.srcs ++ f.dsts).any g.isPending
/-- The first register that it waits for (R284). -/
def Form.needs (f : Form) (g : Group) : List Nat := ((f.srcs ++ f.dsts).filter g.isPending).take 1

/-- A trap taken at an issue. A step in progress ends in it, with the stop 0x13 where the handler receives the trap (R279). (log 68, DEDUCED) -/
def State.trapAt (s : State) (i : Iss) (cause : BitVec 8) (tpc : Addr) (taddr : DWord) (lane : Nat) (code : BitVec 9) : State :=
  let s0 := s.updGroup i.loc.p i.loc.g (fun g => { g with retries := 0, skipBp := false })
  let take := fun (s : State) => s.takeTrap i.loc i.sel cause tpc taddr lane code
  if i.loc.grp.step.isNone || (i.loc.delivers cause && (s.pkg i.loc.p).rewriting i.loc.asid) then take s0
  else if i.loc.delivers cause then (take (s0.stepOver i.loc)).stepStop i.loc i.addr i.sel
  else take (s0.stepOver i.loc)
def State.issueTrap (s : State) (i : Iss) (cause : BitVec 8) (taddr : DWord) (lane : Option Nat) (code : BitVec 9) : State :=
  s.trapAt i cause i.addr taddr (lane.getD (if i.ex = 0 then Mask.lowest i.sel else i.leader)) code

/-- Waits of instructions that have acted already, arrived at a barrier or signed: their operands were read when they did. -/
def Hold.acted (h : Hold) : Bool := (h.kind == .bar && h.data.head? == some 1) || h.kind == .ksgn || h.kind == .clin

/-- The words that this issue of it consumes. -/
def Form.reads (f : Form) (i : Iss) : List SramWord := if (i.loc.grp.hold? i.addr).any (·.acted) then [] else f.words i

/-- One issue of an instruction (R95, R241, R262): decode traps, then its own in its order, then uncorrectable operands, then
its effect, then the after traps. With an empty exec only the PCs advance (R78). `hit` are the lanes that a fault of an
unchecked launch disturbs (R261). (log 68, DEDUCED) -/
def State.issueRun (s : State) (f : Form) (body : Iss → State → Res) (i : Iss) (hit : Mask) : State :=
  let l := i.loc
  if f.bad || (f.srcs ++ f.dsts).any (fun r => decide (l.node.desc.regs ≤ r)) then s.issueTrap i 0x01 0 none 0
  else if f.needF64 && !Config.hasF64 s.part then s.issueTrap i 0x02 0 none 0
  else if (match f.needRole with | some r => l.role != r | none => false) then s.issueTrap i 0x03 0 none 0
  else if i.ex = 0 then
    let rd := s.readWords l.p (unitCore l.core) (f.guards i)
    if rd.1 then rd.2.issueTrap i 0x07 0 none 0 else (rd.2.retire i [] .keep).afterTraps i 0
  else if f.pending l.grp then s.hold i .pending (f.needs l.grp)
  else
    let ws := f.reads i
    let rd := s.readWords l.p (unitCore l.core) ws
    match body i s with
    | .trap c a n code => s.issueTrap i c a n code
    | .fail c a n s' => s'.issueTrap i c a n 0
    | .wait k d s' => if rd.1 then rd.2.issueTrap i 0x07 0 none 0 else (s'.readWords l.p (unitCore l.core) ws).2.hold i k d
    | .done s' pcs w y =>
      if rd.1 then rd.2.issueTrap i 0x07 0 none 0
      else
        let s1 := if hit = 0 then s' else s'.disturb l.p l.g hit f.uni f.dsts
        ((((s1.readWords l.p (unitCore l.core) ws).2).mend l.p (f.written i)).retire i pcs y).afterTraps i w

/-- An issue with its lanes compared (R258, R259), or, unchecked, disturbed by a fault (R261). -/
def issueWith (f : Loc → Form) (body : Iss → State → Res) (s : State) : Host.Outcome State Fault Refusal :=
  match s.cur with
  | .issue p g addr sel words =>
    match s.loc p g with
    | none => .next s
    | some l =>
      let f := f l
      let i := fun (l : Loc) => ({ loc := l, addr := addr, sel := sel, ex := l.grp.exec sel f.gd, words := words } : Iss)
      match s.laneHit l f.uni sel with
      | none => .next (s.issueRun f body (i l) 0)
      | some x =>
        if l.checked then .next (s.mismatch l x)
        else
          let hit := if f.uni then allLanes else sel &&& Mask.ofPred (fun n => decide (x.lane ∈ physLanes f.uni false n))
          let s1 := (s.useFault x).disturb p g hit f.uni f.srcs
          match s1.loc p g with
          | none => .next s
          | some l1 => .next ((s1.issueRun f body (i l1) hit).undisturb p l1.grp l.grp g (f.srcs.filter (fun r => !f.dsts.contains r)))
  | _ => .next s

/-- An instruction whose form does not depend on the state. -/
def issue (f : Form) (body : Iss → State → Res) (s : State) : Host.Outcome State Fault Refusal := issueWith (fun _ => f) body s

/-- Applies f to the group that issues. -/
def Iss.upd (i : Iss) (s : State) (f : Group → Group) : State := s.updGroup i.loc.p i.loc.g f
/-- Per-lane effect: f gives the new lane from the group before the issue; a uniform instruction computes it from the
leader and writes all lanes (R10, R79). -/
def Iss.lanes (i : Iss) (s : State) (uni : Bool) (f : Nat → Lane → Lane) : State :=
  let ld := i.leader
  i.upd s (fun g => g.onLanes (dstLanes uni i.ex) (fun n x => f (srcLane uni ld n) x))

/-- The registers of a pair field. -/
def pairOf (r : Reg) : List Nat := [r.toNat, r.toNat + 1]
def one (r : Reg) : List Nat := [r.toNat]
def sized (w64 : Bool) (r : Reg) : List Nat := if w64 then pairOf r else one r

end Sys2Proof.Machine
end

