-- ==== Sys2Proof/Machine/Ring.lean ====
section
/-! DEFINITION. Machine/Ring.lean: reading command rings (spec/03 R44 to R47, R49, R52): stops, the packet at the read
pointer, and what every packet's meaning shares. -/

namespace Sys2Proof.Machine

def Queue.asid (q : Queue) : Nat := bits q.ctl 11 2
def Queue.size (q : Queue) : Nat := bits q.ctl 16 12
def Queue.en (q : Queue) : Bool := bit q.ctl 0
/-- The ring's capacity in 16-byte units (R45). -/
def Queue.units (q : Queue) : Nat := 2 ^ (q.size - 4)
def Queue.base (q : Queue) : DWord := q.baseh ++ q.basel
def Queue.index (q : Queue) : Nat := q.rd.toNat % q.units

/-- The stops that concern the ring, the write pointer or the context: QRP stays where it is (R46). -/
def ringStop (err : Nat) : Bool := err == 3 || err == 4 || err == 6

/-- A queue stops: EN is left, STATE = 3, QRP at the packet (R46). -/
def Queue.stop (x : Queue) (err : Nat) : Queue :=
  { x with state := 3, err := err, hold := none, got := [], parts := [], rp := if ringStop err then x.rp else x.rd }
def State.stopQueue (s : State) (p q err : Nat) : State := s.updQueue p q (·.stop err)

/-- Reads bytes of the ring through the context's bounds and translation (R44). -/
def State.ringRead (s : State) (p q off n : Nat) : Option (List Byte) :=
  let x := (s.pkg p).queue q
  match tget (s.pkg p).ctxs x.asid with
  | none => none
  | some c =>
    let ptr := addOff x.base off
    if !cpBound c ptr n .rd then none
    else match (s.vaRead p x.asid (n + 1) (vaOf ptr) n).1 with
      | .ok bs => some bs
      | _ => none

/-- Words of a byte list. -/
def wordsOf (bs : List Byte) : List Word := (List.range (bs.length / 4)).map (fun i => wordOf (bs.drop (4 * i)))

/-- The packet at the read pointer: nothing complete there yet, a stop, or a command with its units. -/
inductive RingPacket where
  | none
  | stop (err : Nat)
  | run (i : Instr) (units : Nat)
deriving DecidableEq, Repr

def State.ringPacket (s : State) (p q : Nat) : RingPacket :=
  let x := (s.pkg p).queue q
  let avail := (x.wp - x.rd).toNat
  if avail = 0 then .none
  else match s.ringRead p q (16 * x.index) 16 with
    | none => .stop 0x03
    | some hd =>
      let h := PktHdr.ofWords (wordOf hd) (wordOf (hd.drop 4))
      if h.op = 0 ∨ h.op > 0x17 then .stop 0x01
      else if x.index + h.units > x.units then .stop 0x02
      else if avail < h.units then .none
      else match s.ringRead p q (16 * x.index) (16 * max 1 h.units) with
        | none => .stop 0x03
        | some bs => match decodePacket (wordsOf bs) with
          | .ok i n => .run i n
          | .badOpcode => .stop 0x01
          | .malformed => .stop 0x02

/-- The depth of IF and LOOP nesting in force (R44, R46). -/
def Queue.depth (q : Queue) : Nat := q.nest.length

/-- The packet is consumed: the read pointer passes it, and QRP follows unless a LOOP holds it (R49). -/
def Queue.consume (x : Queue) (units : Nat) : Queue :=
  let rd := x.rd + BitVec.ofNat 32 units
  let looped := x.nest.any (fun n => match n with | .loopBlk _ _ _ => true | .ifBlk _ => false)
  { x with rd := rd, rp := if looped then x.rp else rd, hold := none, got := [], parts := [], state := if x.en then 1 else 0 }
def State.consume (s : State) (p q units : Nat) : State := s.updQueue p q (·.consume units)

/-- Earlier nodes of a queue that are not complete (R52). -/
def Pkg.openNodes (k : Pkg) (q : Nat) : List Nat := (k.nodes.filter (fun e => e.2.q == q && e.2.incomplete)).map (·.1)

def State.holdQueue (s : State) (p q : Nat) (h : QHold) : State := s.updQueue p q (fun x => { x with hold := some h, state := 2 })

/-- A packet inside a skipped stretch: only the structure counts (R49, R59). On the way to a closing PHASE the structures that
begin and end are followed, so that what comes after the PHASE stands at its own depth. -/
def skipStep (x : Queue) (i : Instr) (units : Nat) : Queue :=
  let go := fun (sk : Option SkipTo) => ({ x with skip := sk } : Queue).consume units
  match x.skip with
  | none => x
  | some (.elseOrEnd d) =>
    (match i with
     | .ifPkt .. => go (some (.elseOrEnd (d + 1)))
     | .elsePkt _ => if d = 0 then ({ x with skip := none, nest := x.nest.dropLast ++ [.ifBlk true] } : Queue).consume units else go x.skip
     | .endIf _ => if d = 0 then ({ x with skip := none, nest := x.nest.dropLast } : Queue).consume units else go (some (.elseOrEnd (d - 1)))
     | _ => go x.skip)
  | some (.endIf d) =>
    (match i with
     | .ifPkt .. => go (some (.endIf (d + 1)))
     | .endIf _ => if d = 0 then ({ x with skip := none, nest := x.nest.dropLast } : Queue).consume units else go (some (.endIf (d - 1)))
     | _ => go x.skip)
  | some (.loopEnd d) =>
    (match i with
     | .loop .. => go (some (.loopEnd (d + 1)))
     | .loopEnd _ => if d = 0 then ({ x with skip := none, nest := x.nest.dropLast } : Queue).consume units else go (some (.loopEnd (d - 1)))
     | _ => go x.skip)
  | some .jobEnd =>
    let nest := fun (n : List Nest) => ({ x with nest := n } : Queue).consume units
    (match i with
     | .phase true _ => { x with skip := none }
     | .ifPkt .. => nest (x.nest ++ [.ifBlk false])
     | .elsePkt _ => nest (match x.nest.getLast? with | some (.ifBlk _) => x.nest.dropLast ++ [.ifBlk true] | _ => x.nest)
     | .loop .. => nest (x.nest ++ [.loopBlk (x.rd + BitVec.ofNat 32 units).toNat 1 x.rd.toNat])
     | .endIf _ | .loopEnd _ => nest x.nest.dropLast
     | .graphEnd _ => ({ x with graph := none } : Queue).consume units
     | _ => go x.skip)

/-- What a packet's own operation comes to. -/
inductive PRes where
  | done (s : State)
  | stop (err : Nat) (s : State)
  | wait (h : QHold) (s : State)

/-- The body of one packet at its queue: q, the units, the queue and its context. -/
structure Pk where
  p : Nat
  q : Nat
  units : Nat
  x : Queue
  ctx : Ctx

/-- Runs one packet (R46, R49, R52): inside a skipped stretch it is passed over; inside a graph only some may stand;
one that must drain waits for the earlier nodes; then its effect, and it is consumed. -/
def packetWith (p q units : Nat) (i : Instr) (inGraph drains : Bool) (body : Pk → State → PRes) (s : State) : State :=
  let x := (s.pkg p).queue q
  match tget (s.pkg p).ctxs x.asid with
  | none => s.stopQueue p q 0x03
  | some c =>
    let s0 := if x.skip.isSome then s.updQueue p q (fun x => skipStep x i units) else s
    if (s0.pkg p |>.queue q).skip.isSome || (x.skip.isSome && (s0.pkg p |>.queue q).rd != x.rd) then s0
    else
      let x := (s0.pkg p).queue q
      if x.graph.isSome && !inGraph then s0.stopQueue p q 0x05
      else if drains && !((s0.pkg p).openNodes q).isEmpty then s0.holdQueue p q .drain
      else match body { p := p, q := q, units := units, x := x, ctx := c } s0 with
        | .done s1 => s1.consume p q units
        | .stop e s1 => s1.stopQueue p q e
        | .wait h s1 => s1.holdQueue p q h

/-- The meaning of a packet row: the packet that `cur` names. -/
def packet (i : Instr) (inGraph drains : Bool) (body : Pk → State → PRes) (s : State) : Host.Outcome State Fault Refusal :=
  match s.cur with
  | .packet p q units => .next (packetWith p q units i inGraph drains body s)
  | _ => .next s

/-- A queue that may read (R44, R45, R296, R247). -/
def State.queueReads (s : State) (p q : Nat) : Bool :=
  let k := s.pkg p
  let x := k.queue q
  x.en && x.state != 3 && x.hold.isNone && !k.plat.d3hot && k.plat.ready &&
    (match tget k.ctxs x.asid with | some c => !c.error && !c.killed | none => false)

end Sys2Proof.Machine
end

