-- ==== Sys2Proof/Machine/Access.lean ====
section
/-! DEFINITION. Machine/Access.lean: what every access of a thread to global or private memory shares: its checks and
addresses (spec/07 R141 to R149), watchpoints (spec/13 R276), the order among a group's accesses (spec/07 R162, spec/09 R190),
the combining buffer (R152), the operand log (R161), and versions (spec/11 R249 to R255). -/

namespace Sys2Proof.Machine

/-! ### Watchpoints (R276) -/

inductive WatchOp where
  | ld | st | atom
deriving DecidableEq, Repr

def WatchOp.bit : WatchOp → Nat
  | .ld => 1
  | .st => 2
  | .atom => 3

/-- Watchpoint n as the registers hold it, by word from 0x8200. -/
def Ctx.watched (c : Ctx) (op : WatchOp) (va n : Nat) : Bool :=
  (List.range 4).any (fun w =>
    let r := fun (j : Nat) => tgetD c.bp (64 + 8 * w + j) 0
    let lo := vaOf (r 2 ++ r 1)
    let hi := vaOf (r 4 ++ r 3)
    Sys2Proof.bit (r 0) 0 && Sys2Proof.bit (r 0) op.bit && decide (va ≤ hi) && decide (lo ≤ va + n - 1))

/-! ### Addresses of the lanes of an instruction -/

/-- The access address of [xa + off] in a lane (R141). -/
def Iss.ptr (i : Iss) (a : Reg) (off : Int) (lane : Nat) : DWord := addOff (i.g.x lane a.toNat) off

/-- The checks of the access of a lane at [xa + off] (R141 to R143, R149). -/
def Iss.check (i : Iss) (a : Reg) (off : Int) (n : Nat) (perm : Perm) (lane : Nat) : Checked :=
  checkAt i.loc.ctx i.loc.node (i.g.x lane a.toNat) off n perm

/-- The first cause of an address check, over all lanes, in the order 0x04, 0x05, 0x0E, with the lowest lane at fault
(R142, R143, R149). -/
def firstBad (lanes : List Nat) (check : Nat → Checked) : Option (BitVec 8 × Nat) :=
  let bad := lanes.filterMap (fun j => match check j with
    | .bad c => some (c, j)
    | .ok _ _ => none)
  match bad.find? (fun e => e.1 == 0x04) with
  | some e => some e
  | none => match bad.find? (fun e => e.1 == 0x05) with
    | some e => some e
    | none => bad.head?

/-- One memory event of a lane: an 8-byte private access is two (R149). -/
structure Want where
  lane : Nat
  ptr : DWord
  va : Nat
  n : Nat
  half : Nat
  priv : Bool
deriving DecidableEq, Repr

/-- The events of checked lanes to global and private memory; argument space makes none. -/
def Iss.wants (i : Iss) (lanes : List Nat) (ptr : Nat → DWord) (check : Nat → Checked) (n : Nat) : List Want :=
  (lanes.map (fun j =>
    let a := vaOf (ptr j)
    match check j with
    | .ok .global _ => [{ lane := j, ptr := ptr j, va := a, n := n, half := 0, priv := false : Want }]
    | .ok .priv b =>
      let w := i.g.window
      if n = 8 then
        [{ lane := j, ptr := ptr j, va := privVa b a j w, n := 4, half := 0, priv := true },
         { lane := j, ptr := ptr j, va := privVa b (a + 4) j w, n := 4, half := 1, priv := true }]
      else [{ lane := j, ptr := ptr j, va := privVa b a j w, n := n, half := 0, priv := true }]
    | _ => [])).flatten

/-- The lanes of watched global accesses. -/
def Iss.watchMask (i : Iss) (op : WatchOp) (ws : List Want) : Mask :=
  ws.foldl (fun m w => if !w.priv && i.loc.ctx.watched op w.va w.n then m ||| laneBit w.lane else m) 0

/-! ### Order among the accesses of a group -/

def Pend.isFlush (q : Pend) : Bool :=
  match q.acc.op with
  | .flush _ _ _ => true
  | _ => false

/-- A faulted acquire of a group stands in the operand log: every later access waits for its replay (R162). -/
def State.acqLogged (s : State) (p g : Nat) : Bool := (s.pkg p).olog.any (fun o => o.gid == g && o.accs.any (·.acq))

/-- Every later access of a group, to whatever space, waits: behind an acquire, in flight or in the operand log, and behind an
access that a FENCE after it orders (R162, R190, R342). (log 41, DEDUCED) -/
def State.orderWait (s : State) (p g : Nat) : Bool :=
  (s.pkg p).pends.any (fun q => q.acc.gid == g && (q.acc.acq || q.fenced.isSome)) || s.acqLogged p g

/-- An access that names no sector, to the scratchpad, a channel or an engine, waits behind those alone (R162, R190). -/
def Iss.ordered (i : Iss) (s : State) (r : Res) : Res := if s.orderWait i.loc.p i.loc.g then .wait .pending [] s else r

/-- A later access of a group waits behind those, behind its own access to the same sector, and behind an operand-log entry of
the same page (R162, R190). (log 41, DEDUCED) -/
def State.mustWait (s : State) (l : Loc) (ws : List Want) : Bool :=
  let k := s.pkg l.p
  s.orderWait l.p l.g ||
  k.pends.any (fun q => q.acc.gid == l.g && ws.any (fun w => q.key.asid == l.asid && q.key.sec == w.va / 64)) ||
  k.olog.any (fun o => o.gid == l.g && o.accs.any (fun a => ws.any (fun w => w.va / 65536 == a.va / 65536)))

def Pkg.pendsOf (k : Pkg) (core : Nat) : Nat := (k.pends.filter (fun q => q.core == core)).length
def Pkg.ologOf (k : Pkg) (core : Nat) : Nat := (k.olog.filter (fun o => o.core == core)).length

/-! ### L2 words struck by an error (R262) -/

/-- Two sectors of one 512-byte line (R151). -/
def sameLine (a b : SectorKey) : Bool := a.home == b.home && a.asid == b.asid && a.sec / 8 == b.sec / 8
def SramWord.isTagOf (d : Nat) (key : SectorKey) : SramWord → Bool
  | .l2tag d' k => d' == d && sameLine k key
  | _ => false

/-- What an access to an L2 sector does with a struck word of it, or of its line's tag. -/
def State.checkL2 (s : State) (p d : Nat) (key : SectorKey) : State :=
  let unit := unitSlice (sliceNo d key)
  let mendAll := fun (s : State) (w : SramWord) => { s with strikes := s.strikes.filter (fun x => !(x.pkg == p && x.word == w)) }
  match s.l2 p d key with
  | none => s
  | some e =>
    match s.strikes.find? (fun x => x.pkg == p && x.word.isTagOf d key) with
    | some x => if x.double then
        ((mendAll s x.word).bump p unit wSunc).updDie p d (fun y => { y with l2 := y.l2.filter (fun z => !sameLine z.1 key) }) else (mendAll s x.word).bump p unit wScor
    | none => match s.struck p (.l2 d key) with
      | none => s
      | some x =>
        let s1 := mendAll s x.word
        if !x.double then s1.bump p unit wScor
        else
          let s2 := s1.bump p unit wSunc
          if e.own && e.dirty then s2.setL2 p d key { e with psn := true }
          else if e.own then
            let h := s2.homeCopy key e.pa
            s2.setL2 p d key { e with data := h.1, psn := h.2 }
          else s2.setL2 p d key { e with dv := false }

/-! ### Requests and pending accesses -/

/-- Adds an access to the outstanding-transaction table and asks for its tokens; where they are there, it is performed in its
turn (R13, R176). (log 6, DEDUCED) -/
def State.addPend (s : State) (p : Nat) (q : Pend) (wr : Bool) : State :=
  ((s.updPkg p (fun k => { k with pends := k.pends ++ [q] })).startReq p q.die q.key q.pa wr q.write q.acc.scope).serve p q.die q.key

/-- The scoreboard entries of an access (R162). -/
def State.holdRegs (s : State) (p g : Nat) (rs : List Nat) (lanes : Mask) (pc : Addr) (acc : Nat) : State :=
  s.updGroup p g (fun x => { x with
    pend := x.pend ++ (rs.filter (· != 0)).map (fun r => { reg := r, lanes := lanes, pc := pc, acc := acc : Pending }) })

/-- An access that the home performs: the message and the entry that waits for its reply (R217). -/
def State.addUncached (s : State) (p : Nat) (q : Pend) (ctrl : Nat) (body : Nat → Body) : State :=
  let txn := q.acc.id % 65536
  let q' : Pend := { q with txn := some txn, sent := (s.pkg p).arith, sends := 1 }
  (s.updPkg p (fun k => { k with pends := k.pends ++ [q'] })).send (.core p q.core) (.ctrl q.key.home ctrl) q.key.asid
    (s.ctxInc p q.key.asid) q.key q.pa (body txn) q.acc.scope

def State.takeId (s : State) (p : Nat) : Nat × State := ((s.pkg p).uid, s.updPkg p (fun k => { k with uid := k.uid + 1 }))

/-! ### The combining buffer (R152) -/

/-- A struck word of a combining-buffer sector that is written out: an uncorrectable one poisons it (R262). -/
def State.checkCb (s : State) (p core : Nat) (key : SectorKey) : Bool × State :=
  match s.struck p (.cb core key) with
  | none => (false, s)
  | some x =>
    let s1 : State := { s with strikes := s.strikes.filter (fun y => y != x) }
    (x.double, s1.bump p (unitCore core) (if x.double then wSunc else wScor))

/-- The check code of a sector's store, over the bytes that it writes (R216). -/
def CbSec.code (c : CbSec) (inc : Nat) : Word :=
  checkCode (keyVa c.key) (((List.range 64).filter (bit c.mask)).map (fun i => BitVec.ofNat 8 (secGet c.data i 1))) c.key.asid inc
def CbSec.put (c : CbSec) (inc off n val : Nat) : CbSec :=
  let x := { c with mask := c.mask ||| byteMask off n, data := secPut c.data off n val }
  { x with check := x.code inc }

/-- The L2 slice tests the check code of a sending; one that fails is dropped and counted, and the buffer keeps the sector (R216). -/
def State.cbTest (s : State) (p core : Nat) (c : CbSec) : Bool × State :=
  let now := (s.pkg p).arith
  let code := c.code (s.ctxInc p c.key.asid)
  let later := match c.sent with | some t => decide (now < t + 1024) | none => false
  if later then (false, s)
  else if c.check == code then (true, s)
  else
    let fix := fun (x : CbSec) => if x.key == c.key then { x with check := code, sent := some now } else x
    (false, (s.updCore p core (fun x => { x with cb := x.cb.map fix })).bump p (unitSlice (sliceNo (dieOfCore core) c.key)) wDrop)

/-- A sector leaves the combining buffer, once its slice accepts it: performed at once with all 64 tokens, or as an access that waits for them, in its
turn behind earlier writes to the sector. A struck sector is written poisoned (R262). -/
def State.cbFlush (s : State) (p core : Nat) (key : SectorKey) : State :=
  match ((s.pkg p).core core).cb.find? (fun c => c.key == key) with
  | none => s
  | some c =>
    let t := s.cbTest p core c
    let s := t.2
    if !t.1 then s
    else
    let d := dieOfCore core
    let ck := s.checkCb p core key
    let s1 := ck.2.updCore p core (fun x => { x with cb := x.cb.filter (fun y => y.key != key) })
    let id := s1.takeId p
    let acc : Acc :=
      { id := id.1, gid := noGroup, lane := 0, pc := 0, words := (0, none), op := .flush c.mask c.data (c.poisoned || ck.1), bytes := 64, ptr := 0,
        va := keyVa key, priv := false, acq := false, rel := false, scope := 0, sample := false, replayed := false }
    let q : Pend :=
      { acc := acc, core := core, die := d, key := key, pa := c.pa, write := true, txn := none, sent := 0, sends := 0,
        fenced := none }
    let s2 := id.2.checkL2 p d key
    let earlier := (s2.pkg p).pends.any (fun y => y.die == d && y.key == key && y.write)
    match s2.l2 p d key with
    | some e => if s2.l2Ready p d key true && !earlier then s2.performL2 p d q e else s2.addPend p q true
    | none => s2.addPend p q true

/-- Drains the combining buffers of cores of one context's sectors. -/
def State.cbDrain (s : State) (p asid : Nat) (cores : List Nat) : State :=
  cores.foldl (fun s c => ((((s.pkg p).core c).cb.filter (fun x => x.key.asid == asid)).map (·.key)).foldl
    (fun s k => s.cbFlush p c k) s) s

/-- The other cores that share the L1 write out what they buffer of a sector, so that its writes keep their order (R153, R198).
(log 95, DEDUCED) -/
def State.cbOthers (s : State) (p core : Nat) (fused : Bool) (key : SectorKey) : State :=
  ((scalarCores fused core).filter (· != core)).foldl (fun s c => s.cbFlush p c key) s

/-- Stores bytes into the combining buffer; beyond 32 sectors the oldest leaves. A store updates any L1 copy, and no scalar
cache beside it keeps an older one. (log 42, DESIGN CHOICE) (log 94, DEDUCED) -/
def State.cbStore (s : State) (p core : Nat) (fused : Bool) (key : SectorKey) (pa off n val : Nat) : State :=
  let s0 := (scalarCores fused core).foldl (fun s c => s.updCore p c (·.dropScalar key)) (s.cbOthers p core fused key)
  let s1 := s0.updCore p (l1Core fused core (keyVa key)) (fun x => { x with l1 := tmod x.l1 key (fun y => { y with data := secPut y.data off n val }) })
  let cb := ((s1.pkg p).core core).cb
  match cb.find? (fun c => c.key == key) with
  | some _ =>
    let put := fun (c : CbSec) => if c.key == key then c.put (s1.ctxInc p key.asid) off n val else c
    s1.updCore p core (fun x => { x with cb := x.cb.map put })
  | none =>
    let s2 := if Config.cbSectors ≤ cb.length then
        (match cb.head? with | some o => s1.cbFlush p core o.key | none => s1) else s1
    let c : CbSec := { key := key, pa := pa, mask := 0, data := 0, poisoned := false, sent := none, check := 0 }
    s2.updCore p core (fun x => { x with cb := x.cb ++ [c.put (s1.ctxInc p key.asid) off n val] })

/-- The cores whose combining buffers a release of a scope drains (R152, R153). -/
def Loc.drainCores (l : Loc) (sc : Nat) : List Nat :=
  if l.node.desc.fused then (if 4 ≤ sc then (List.range 8).map (fun i => l.core / 8 * 8 + i) else [])
  else if 2 ≤ sc then [l.core] else []

def State.cbClear (s : State) (p asid : Nat) (cores : List Nat) : Bool :=
  cores.all (fun c => !((s.pkg p).core c).cb.any (fun x => x.key.asid == asid)) &&
    !(s.pkg p).pends.any (fun q => decide (q.core ∈ cores) && q.isFlush && q.key.asid == asid)

/-- A release may be performed: the group's log entries are replayed and its accesses performed, at every scope (R162, R190);
from blk scope on the combining buffers its scope names are drained (R152, R194). (log 83, DEDUCED) -/
def State.released (s : State) (l : Loc) (sc : Nat) : Bool :=
  let k := s.pkg l.p
  !k.olog.any (fun o => o.gid == l.g) && !k.pends.any (fun q => q.acc.gid == l.g) &&
    (sc < 2 || s.cbClear l.p l.asid (l.drainCores sc))

/-- Starts a release at a scope; the Bool says that it may be performed now (R152, R194). (log 83, DEDUCED) -/
def State.release (s : State) (l : Loc) (sc : Nat) : Bool × State :=
  let s1 := s.cbDrain l.p l.asid (l.drainCores sc)
  (s1.released l sc, s1)

/-- An acquire at a scope (R152, R194). (log 83, DEDUCED) -/
def State.acquire (s : State) (l : Loc) (sc : Nat) : State := s.acquireL1 l.p l.core l.asid l.node.desc.fused sc

/-- The fixed scopes of R194. -/
def scBlk : Nat := 2
def scClu : Nat := 3
def scDie : Nat := 4
def scPod : Nat := 6

/-! ### The operand log (R161) -/

/-- The distinct pages of accesses, each with the kind of its fault. -/
def faultPages (fs : List (Acc × FltKind)) : List (Nat × FltKind) :=
  fs.foldl (fun l f => if l.any (fun e => e.1 == f.1.va / 65536) then l else l ++ [(f.1.va / 65536, f.2)]) []

def pageFaultKind (priv : Bool) (k : FltKind) : FltKind :=
  match k with
  | .notPresent => if priv then .privateGrowth else k
  | k => k

/-- One fault record per page, in the name of the lowest faulting lane (R291). -/
def State.faultRecords (s : State) (p g asid : Nat) (write : Bool) (fs : List (Acc × FltKind)) : State :=
  (faultPages fs).foldl (fun s e =>
    match fs.find? (fun f => f.1.va / 65536 == e.1) with
    | some f => s.updPkg p (fun k => k.faultRec (k.ownerFn asid)
        { asid := asid, kind := e.2, write := write, nothread := false, va := f.1.va, name := s.threadName p g f.1.lane })
    | none => s) s

/-- Faulting accesses of one instruction enter the log as one entry, and the driver is told (R161). -/
def State.logFaults (s : State) (l : Loc) (write : Bool) (fs : List (Acc × FltKind)) : State :=
  match fs with
  | [] => s
  | (a, k) :: _ =>
    let id := s.takeId l.p
    let e : OLog := { id := id.1, asid := l.asid, gid := l.g, core := l.core, kind := k, page := a.va / 65536, write := write,
                      accs := fs.map (·.1), waiting := true }
    (id.2.updPkg l.p (fun x => { x with olog := x.olog ++ [e] })).faultRecords l.p l.g l.asid write fs

/-! ### What an access finds at issue -/

/-- A load: its value with the level that served it, an access that waits, or why it cannot be made. A wait names the
sector, its physical address, the permission, whether the home performs it, and the controller. -/
inductive Plan where
  | value (v level : Nat)
  | wait (key : SectorKey) (pa : Nat) (wr uncached : Bool) (ctrl : Nat)
  | fault (k : FltKind)
  | misplaced
  | poisoned
deriving DecidableEq, Repr

def Loc.verSec (l : Loc) (key : SectorKey) : Option VSec := l.clu.verSec key
def Loc.fillVer (l : Loc) : Option Nat := if l.clu.ver.isSome then some l.blk.cluster else none

/-- The home performs accesses to NC pages and host memory, and on a TZ-9620 those to another package (R2, R160). -/
def State.atHome (s : State) (p home : Nat) (nc : Bool) : Bool := nc || (!Config.spansPackages s.part && home != p)

/-- Where an access that found no sector here goes. -/
def State.miss (s : State) (l : Loc) (key : SectorKey) (va : Nat) (write priv : Bool) : Plan × State :=
  let ctrl := match s.homeOf l.p l.asid va with | some h => h.ctrl va | none => 0
  let r := s.translate l.p l.asid va write
  match r.1 with
  | .fault k => (.fault (pageFaultKind priv k), r.2)
  | .misplaced => (.misplaced, r.2)
  | .poisoned => (.poisoned, r.2)
  | .host _ a => (.wait key a false true ctrl, r.2)
  | .frame h lin wr nc => (.wait key (lin / 64 * 64) wr (s.atHome l.p h nc) ctrl, r.2)

/-- An L1 or scalar-cache word struck twice is dropped with its sector and fetched again (R262). -/
def State.checkL1 (s : State) (p core : Nat) (uni : Bool) (key : SectorKey) : State :=
  let w : SramWord := if uni then .scalar core key else .l1 core key
  match s.struck p w with
  | none => s
  | some x =>
    let s1 : State := { s with strikes := s.strikes.filter (fun y => y != x) }
    let drop := fun (c : Core) => if uni then c.dropScalar key else { c with l1 := tdel c.l1 key }
    if x.double then (s1.bump p (unitCore core) wSunc).updCore p core drop else s1.bump p (unitCore core) wScor

/-- A sector of a cluster's version is read: an uncorrectable word of it is consumed, which discards the version (R256, R262). -/
def State.readVersion (s : State) (p d c : Nat) (key : SectorKey) (holds : Bool) : Bool × State :=
  if holds then s.readWords p (unitSlice (sliceNo d key)) [.version c key] else (false, s)

/-- A load of one event (R152, R250): the version, the scalar cache of a uniform load (R94, R362), the L1, the own die's L2, or
a wait. (log 94, DEDUCED) -/
def State.planLoad (s : State) (l : Loc) (uni : Bool) (w : Want) : Plan × State :=
  let key := s.keyOf l.p l.asid w.va
  let off := w.va % 64
  let fused := l.node.desc.fused
  let c1 := l1Core fused l.core w.va
  let s0 := if uni then s.checkL1 l.p l.core true key else s
  let rv := ((s0.checkL1 l.p c1 false key).checkL2 l.p l.die key).readVersion l.p l.die l.blk.cluster key (!w.priv && (l.verSec key).isSome)
  let s1 := rv.2
  let overlay := fun (d : SectorData) =>
    let d1 := s1.forwarded l.p l.core fused key d
    match (if w.priv then none else l.verSec key) with
    | some x => secMerge d1 x.mask x.data
    | none => d1
  let covered := match (if w.priv then none else l.verSec key) with
    | some x => (x.mask &&& byteMask off w.n) == byteMask off w.n
    | none => false
  if rv.1 then (.poisoned, s1)
  else if covered then (.value (secGet (overlay 0) off w.n) 1, s1)
  else
    let held := fun (t : Tab SectorKey L1Sec) => match tget t key with
      | some x => if x.ver.isNone || x.ver == l.fillVer then some x.data else none
      | none => none
    match (if uni then held ((s1.pkg l.p).core l.core).scalar else none).orElse (fun _ => held ((s1.pkg l.p).core c1).l1) with
    | some d => (.value (secGet (overlay d) off w.n) 0, s1)
    | none =>
      match s1.l2 l.p l.die key with
      | some e =>
        if s1.l2Ready l.p l.die key false then
          (if e.psn then (.poisoned, s1)
           else (.value (secGet (overlay e.data) off w.n) 1,
             s1.l1Fill l.p l.core fused key (s1.forwarded l.p l.core fused key e.data) l.fillVer uni))
        else s1.miss l key w.va false w.priv
      | none => s1.miss l key w.va false w.priv

/-- A store or atomic of one event: a sector whose write permission the own L2 knows needs no translation (R154). -/
def State.planWrite (s : State) (l : Loc) (va : Nat) (priv : Bool) : Plan × State :=
  let key := s.keyOf l.p l.asid va
  let s1 := s.checkL2 l.p l.die key
  match s1.l2 l.p l.die key with
  | some e => if e.wr then (.wait key e.pa true false (ctrlOf e.pa), s1) else s1.miss l key va true priv
  | none => s1.miss l key va true priv

def Plan.isMisplaced : Plan → Bool
  | .misplaced => true
  | _ => false
def Plan.isPoisoned : Plan → Bool
  | .poisoned => true
  | _ => false
def Plan.isUncached : Plan → Bool
  | .wait _ _ _ u _ => u
  | _ => false
def Plan.isWait : Plan → Bool
  | .wait .. => true
  | _ => false

/-- The plans of a list of events, in order. -/
def State.plans {α : Type} (s : State) (f : State → α → Plan × State) (ws : List α) : List (α × Plan) × State :=
  ws.foldl (fun acc w => let r := f acc.2 w; (acc.1 ++ [(w, r.1)], r.2)) ([], s)

/-! ### Versions (R249 to R255) -/

def Version.empty : Version := { secs := [], log := [] }
def Version.bytes (v : Version) : Nat := 64 * v.secs.length + 16 * v.log.length
/-- A cluster's quota in bytes (R249). -/
def Desc.quota (d : Desc) : Nat := 1024 * (if d.quotaKiB = 0 then 4096 else d.quotaKiB)

/-- A write of n bytes into the version. -/
def Version.put (v : Version) (key : SectorKey) (off n val : Nat) : Version :=
  let x := (tget v.secs key).getD { mask := 0, data := 0 }
  { v with secs := tset v.secs key { mask := x.mask ||| byteMask off n, data := secPut x.data off n val } }

/-- The sectors a version would gain. -/
def Version.grow (v : Version) (keys : List SectorKey) : Nat :=
  (keys.foldl addOnce []).filter (fun k => !thas v.secs k) |>.length

def State.updVersion (s : State) (p c : Nat) (f : Version → Version) : State :=
  s.updCluster p c (fun x => { x with ver := x.ver.map f })

/-- A group of a cluster is halted: its version, its commit and its discard wait until resume (R257, R278). -/
def Pkg.clusterHalted (k : Pkg) (c : Nat) : Bool :=
  (k.groupsOfCluster c).any (fun g => match tget k.groups g with | some y => y.halted | none => false)

/-- Blocks of a cluster hold engine operations or log entries that a checkpoint waits for (R253). -/
def Pkg.engineBusy (k : Pkg) (b : Nat) : Bool :=
  (match tget k.blocks b with | some x => !x.stream.isEmpty || !x.held.isEmpty | none => false) ||
  k.cores.any (fun e => e.2.eng.queue.any (fun o => o.blk == b) ||
    (match e.2.eng.run with | some o => o.blk == b | none => false)) ||
  k.btes.any (fun e => e.2.any (fun o => o.blk == some b))

/-- What a checkpoint of a cluster waits for: its engine operations, log entries and accesses (R253). One that a write brings
about after its issue does not wait for the tile stores and the replaying entries that hold such writes (R255). (log 51, DEDUCED) -/
def Pkg.clusterBusy (k : Pkg) (c : Nat) (afterIssue : Bool) : Bool :=
  match tget k.clusters c with
  | none => false
  | some x => x.blocks.any (fun b =>
      let mine := fun (gid : Nat) => match tget k.groups gid with | some g => g.blk == b | none => false
      k.cores.any (fun e => e.2.eng.queue.any (fun o => o.blk == b) || (match e.2.eng.run with | some o => o.blk == b | none => false)) ||
      (match tget k.blocks b with | some y => y.stream.any (fun o => !(afterIssue && o.store)) || !y.held.isEmpty | none => false) ||
      k.olog.any (fun o => mine o.gid && !(afterIssue && o.accs.any (·.replayed))) || k.pends.any (fun q => mine q.acc.gid))

/-- Takes a checkpoint of a cluster as its groups and blocks stand, and starts the commit of its version (R253, R254,
R255). -/
def Pkg.checkpoint (k : Pkg) (c : Nat) : Pkg :=
  match tget k.clusters c with
  | none => k
  | some x =>
    let ck : Ckpt := {
      groups := k.groups.filter (fun e => decide (e.2.blk ∈ x.blocks)),
      blocks := k.blocks.filter (fun e => decide (e.1 ∈ x.blocks)), bars := x.bars,
      olog := k.olog.filter (fun o => match tget k.groups o.gid with | some g => decide (g.blk ∈ x.blocks) | none => false) }
    k.updCluster c (fun x => { x with ckpt := some ck, committing := x.ver, ver := x.ver.map (fun _ => Version.empty), arrived := [] })

/-- The struck words of a cluster's version and reduction log (R262). -/
def State.versionStrikes (s : State) (p c : Nat) : List SramWord :=
  (s.strikes.filter (fun x => x.pkg == p && (match x.word with
    | .version c' _ => c' == c
    | .redLog c' => c' == c
    | _ => false))).map (·.word)
def State.clearVersion (s : State) (p c : Nat) : State :=
  { s with strikes := s.strikes.filter (fun x => !(x.pkg == p && (match x.word with
    | .version c' _ => c' == c
    | .redLog c' => c' == c
    | _ => false))) }

/-- An error that the cluster as a whole consumes (R248). -/
def State.consume7 (s : State) (p c : Nat) : State := s.faultMode p c 7 0 0 Name3.zero

/-- What must be good before a checkpoint: the words it reads, and the codes of the version (the commit's first pass,
R254). -/
def State.ckptChecked (s : State) (p c : Nat) : Bool × State :=
  let k := s.pkg p
  match tget k.clusters c with
  | none => (false, s)
  | some x =>
    let core := ((x.blocks.filterMap (tget k.blocks)).map (·.core)).headD 0
    let rd := s.readWords p (unitCore core) ((s.strikes.filter (fun e => e.pkg == p && k.ckptWord c e.word)).map (·.word))
    if rd.1 then (false, rd.2.consume7 p c)
    else
      let rv := rd.2.readWords p (unitSlice (32 * x.die)) (s.versionStrikes p c)
      if rv.1 then (false, (rv.2.clearVersion p c).consume7 p c) else (true, rv.2)

/-- A quota checkpoint (R255). (log 51, DEDUCED) -/
def State.quotaCheckpoint (s : State) (p c : Nat) : State :=
  let rd := s.ckptChecked p c
  if rd.1 then rd.2.updPkg p (·.checkpoint c) else rd.2

/-- What a write that adds sectors and log entries to a version comes to: room; cause 0x08 when it cannot fit an empty
one; or a quota checkpoint, after which it issues again (R255). -/
inductive Room where
  | fits
  | never
  | waits (s : State)

/-- Room in a version for the sectors and log entries of one write (R249, R251, R255; log 51, DEDUCED). -/
def State.versionRoom (s : State) (l : Loc) (keys : List SectorKey) (entries : Nat) : Room :=
  match l.clu.ver with
  | none => .fits
  | some v =>
    let quota := l.node.desc.quota
    let full := v.bytes + 64 * v.grow keys + 16 * entries > quota
    let stalled := l.grp.holds.any (fun h => h.kind == .quota)
    -- what the quota has stalled goes on after the commit
    if l.clu.committing.isSome && (stalled || full) then .waits s
    else if !full then .fits
    else if v.secs.isEmpty && v.log.isEmpty then .never
    else if (s.pkg l.p).clusterBusy l.blk.cluster false || (s.pkg l.p).clusterHalted l.blk.cluster then .waits s
    else .waits (s.quotaCheckpoint l.p l.blk.cluster)

end Sys2Proof.Machine
end

