-- ==== Sys2Proof/Machine/Forms.lean ====
section
/-! DEFINITION. Machine/Forms.lean: the operand shapes that instructions share: one value per executing lane from that
lane's registers, or once from the leader for a uniform form (spec/04 R76 to R79, spec/15 R297). -/

namespace Sys2Proof.Machine

abbrev Out := Host.Outcome State Fault Refusal

/-- Registers a form reads: single ones and pairs. -/
def regs (rs : List Reg) : List Nat := (rs.map one).flatten
def pairs (rs : List Reg) : List Nat := (rs.map pairOf).flatten

/-- An instruction that gives each executing lane a new lane from its source lane n of the group g. -/
def perLane (f : Form) (eff : Group → Nat → Lane → Lane) (s : State) : Out :=
  issue f (fun i s => .ok (i.lanes s f.uni (eff i.g))) s

/-- As perLane, with the executing lanes and the leader at hand (operations across lanes). -/
def acrossLanes (f : Form) (eff : Iss → Nat → Lane → Lane) (s : State) : Out :=
  issue f (fun i s => .ok (i.lanes s f.uni (eff i))) s

/-- The 32-bit value of a register as a number. -/
def Group.n (g : Group) (i : Nat) (r : Reg) : Nat := (g.v i r.toNat).toNat
def Group.nx (g : Group) (i : Nat) (r : Reg) : Nat := (g.x i r.toNat).toNat
/-- A 32-bit or 64-bit operand. -/
def Group.nw (g : Group) (w64 : Bool) (i : Nat) (r : Reg) : Nat := if w64 then g.nx i r else g.n i r

/-- Writes a number to a register or pair. -/
def Lane.put (l : Lane) (w64 : Bool) (d : Reg) (y : Nat) : Lane :=
  if w64 then l.setX d.toNat (BitVec.ofNat 64 y) else l.setV d.toNat (BitVec.ofNat 32 y)

/-- A floating-point result with its flags. -/
def Lane.putF (l : Lane) (w64 : Bool) (d : Reg) (r : Nat × BitVec 5) : Lane := (l.put w64 d r.1).orFf r.2

end Sys2Proof.Machine
end

