-- ==== Sys2Proof/Machine/GlobalMemory.lean ====
section
/-! DEFINITION. Machine/GlobalMemory.lean: loads, stores, atomics, fences, prefetch and cache control (spec/04 R91; spec/15
R304 to R307, R321, spec/16 R341, spec/17 R361, spec/18 R381, spec/19 R390, R399). -/

namespace Sys2Proof.Machine

/-! ### What a list of planned events comes to -/

/-- The wait for room in the outstanding-transaction table and the operand log (R13, R33, R161), where it is needed. -/
def tableFull (s : State) (l : Loc) (waits faults : Nat) : Bool :=
  let k := s.pkg l.p
  (waits != 0 && decide (Config.otEntries < k.pendsOf l.core + waits)) ||
    (faults != 0 && decide (Config.ologEntries ≤ k.ologOf l.core))

def faultsOf (ps : List ((Acc × Want) × Plan)) : List (Acc × FltKind) :=
  ps.filterMap (fun e => match e.2 with | .fault k => some (e.1.1, k) | _ => none)

/-- Common fields of an event's access. -/
def Iss.acc (i : Iss) (id : Nat) (w : Want) (op : AccOp) (acq rel : Bool) (sc : Nat) : Acc :=
  { id := id, gid := i.loc.g, lane := w.lane, pc := i.addr, words := i.words, op := op, bytes := w.n, ptr := w.ptr, va := w.va,
    priv := w.priv, acq := acq, rel := rel, scope := sc, sample := false, replayed := false }

def Iss.pendOf (i : Iss) (a : Acc) (key : SectorKey) (pa : Nat) (write : Bool) : Pend :=
  { acc := a, core := i.loc.core, die := i.loc.die, key := key, pa := pa, write := write, txn := none, sent := 0, sends := 0,
    fenced := none }

/-- Access ids for a list of events. -/
def State.takeIds (s : State) (p n : Nat) : Nat × State :=
  ((s.pkg p).uid, s.updPkg p (fun k => { k with uid := k.uid + n }))

/-! ### LD -/

structure LoadForm where
  uni : Bool
  d : Nat
  a : Reg
  size : Size
  sx : Bool
  acq : Bool
  sc : Nat
  off : Int

/-- The N-th LD of a core is sampled (R283); the Bool says that this one is. -/
def State.sampleTick (s : State) (p core : Nat) : Bool × State :=
  let n := bits (s.pkg p).plat.smpctl 15 0
  if n = 0 then (false, s)
  else
    let c := ((s.pkg p).core core).samples + 1
    (decide (n ≤ c), s.updCore p core (fun x => { x with samples := if n ≤ c then 0 else c }))

/-- Applies one planned load. -/
def State.applyLoad (s : State) (i : Iss) (m : LoadForm) (sampled : Bool) (e : (Acc × Want) × Plan) : State :=
  let a := e.1.1
  let w := e.1.2
  let rs := if m.size == .b64 && !w.priv then [m.d, m.d + 1] else [m.d + w.half]
  let lanes := if m.uni then allLanes else laneBit w.lane
  let tag := sampled && w.lane == i.leader && w.half == 0
  match e.2 with
  | .value v level =>
    let s1 := s.updGroup i.loc.p i.loc.g (fun g => g.loadResult a m.d w.half m.sx m.uni v)
    if tag then s1.sampleRecord i.loc.p a level (if level = 0 then [1] else [1, 2]) else s1
  | .wait key pa wr unc ctrl =>
    let q := i.pendOf { a with sample := tag } key pa false
    let s1 := s.holdRegs i.loc.p i.loc.g rs lanes i.addr a.id
    if unc then s1.addUncached i.loc.p q ctrl (fun txn => .uncachedRead i.loc.core txn a.va a.bytes) else s1.addPend i.loc.p q wr
  | .fault _ => s.holdRegs i.loc.p i.loc.g rs lanes i.addr a.id
  | _ => s

/-- Loads from argument space read the node's copy (R144). -/
def Iss.argLoad (i : Iss) (s : State) (m : LoadForm) (lanes : List Nat) (ptr : Nat → DWord) (check : Nat → Checked) : State :=
  lanes.foldl (fun s j => match check j with
    | .ok .arg _ =>
      let v := leNat ((i.loc.node.args.drop (vaOf (ptr j))).take m.size.bytes)
      i.upd s (fun g => g.onLanes (if m.uni then allLanes else laneBit j) (fun _ x => x.setLoaded m.d m.size.bytes m.sx v))
    | _ => s) s

/-- A sampled load of argument space has a record of its own (R283): the spec names no level that serves it, so the level is a
free value (log 96, DEDUCED). -/
def Iss.argSample (i : Iss) (s : State) (m : LoadForm) (sampled : Bool) (ptr : Nat → DWord) (check : Nat → Checked) : State :=
  match check i.leader with
  | .ok .arg _ =>
    let w : Want := { lane := i.leader, ptr := ptr i.leader, va := vaOf (ptr i.leader), n := m.size.bytes, half := 0, priv := false }
    if sampled then s.sampleRecord i.loc.p (i.acc 0 w (.load m.d 0 m.sx m.uni) m.acq false m.sc) (Config.argLevel s.draws).toNat [1] else s
  | _ => s

/-- R362, R363. -/
def loadBody (m : LoadForm) (i : Iss) (s : State) : Res :=
  let l := i.loc
  let lanes := if m.uni then [i.leader] else Mask.lanes i.ex
  let n := m.size.bytes
  let ptr := i.ptr m.a m.off
  let check := i.check m.a m.off n .rd
  if l.versioned && m.acq && 4 ≤ m.sc then .bad 0x08
  else match firstBad lanes check with
    | some (c, j) => .badAt c (ptr j) j
    | none =>
      let ws := i.wants lanes ptr check n
      if s.mustWait l ws then .wait .pending [] s
      else
        let ids := s.takeIds l.p ws.length
        let op := fun (w : Want) => AccOp.load m.d w.half m.sx m.uni
        let evs := ws.mapIdx (fun k w => (i.acc (ids.1 + k) w (op w) m.acq false m.sc, w))
        let r := ids.2.plans (fun s e => s.planLoad l m.uni e.2) evs
        match r.1.find? (fun e => e.2.isMisplaced) with
        | some e => .badAt 0x0F e.1.1.ptr e.1.2.lane
        | none => match r.1.find? (fun e => e.2.isPoisoned) with
          | some e => .badAt 0x07 e.1.1.ptr e.1.2.lane
          | none =>
            let fs := faultsOf r.1
            if tableFull s l (r.1.filter (fun e => e.2.isWait)).length fs.length then .wait .table [] s
            else
              let smp := r.2.sampleTick l.p l.core
              let s1 := r.1.foldl (fun s e => s.applyLoad i m smp.1 e) smp.2
              let mark := fun (f : Acc × FltKind) => ({ f.1 with sample := smp.1 && f.1.lane == i.leader && f.1.ptr == ptr i.leader }, f.2)
              let s2 := (i.argSample (i.argLoad s1 m lanes ptr check) m smp.1 ptr check).logFaults l false (fs.map mark)
              let s3 := if m.acq then s2.acquireL1 l.p l.core l.asid l.node.desc.fused m.sc else s2
              .done s3 [] (i.watchMask .ld ws) .keep

def execLd (u : Bool) (gd : Guard) (d a : Reg) (size : Size) (sx acq : Bool) (sc : BitVec 5) (off : BitVec 10) (s : State) : Out :=
  issue { gd := gd, uni := u, srcs := pairOf a, dsts := sized (size == .b64) d }
    (loadBody { uni := u, d := d.toNat, a := a, size := size, sx := sx, acq := acq, sc := sc.toNat, off := off.toInt }) s

/-! ### ST -/

/-- The part of a stored value that an event writes. -/
def Want.part (w : Want) (v : DWord) : DWord := if w.half = 1 then v >>> 32 else v

/-- Applies one planned store. -/
def State.applyStore (s : State) (i : Iss) (e : (Acc × Want) × Plan) : State :=
  let l := i.loc
  let a := e.1.1
  let w := e.1.2
  let v : Nat := match a.op with | .store v => v.toNat | _ => 0
  match e.2 with
  | .wait key pa _ unc ctrl =>
    if l.versioned && !w.priv then s.updVersion l.p l.blk.cluster (fun x => x.put key (a.va % 64) a.bytes v)
    else if unc then
      let bs := match a.op with | .flush _ x _ => sectorBytes x | _ => leBytes a.bytes v
      s.addUncached l.p (i.pendOf a key pa true) ctrl (fun txn => .uncachedWrite l.core txn a.va bs)
    else s.cbStore l.p l.core l.node.desc.fused key pa (a.va % 64) a.bytes v
  | _ => s

/-- The uncached parts of one store to one sector, in lane order, as bytes written and their values. -/
def sectorPart (evs : List ((Acc × Want) × Plan)) (key : SectorKey) : VSec :=
  evs.foldl (fun x e => match e.2, e.1.1.op with
    | .wait k _ _ true _, .store v =>
      if k == key then
        { mask := x.mask ||| byteMask (e.1.1.va % 64) e.1.1.bytes, data := secPut x.data (e.1.1.va % 64) e.1.1.bytes v.toNat }
      else x
    | _, _ => x) { mask := 0, data := 0 }

/-- Of the uncached writes of one store to one address, the highest lane's goes out: its bytes are those that remain (R142). -/
def lastWrites (evs : List ((Acc × Want) × Plan)) : List ((Acc × Want) × Plan) :=
  evs.filter (fun e => !e.2.isUncached || !evs.any (fun x => x.2.isUncached && x.1.1.va == e.1.1.va && decide (e.1.1.id < x.1.1.id)))

/-- Lanes of one store that write all 64 bytes of an uncached sector travel as one write of the sector, so that it counts
as a write of all 64 bytes (R182, R269; DEDUCED). (log 25, DEDUCED) -/
def wholeSectors (evs : List ((Acc × Want) × Plan)) : List ((Acc × Want) × Plan) :=
  (evs.foldl (fun (r : List SectorKey × List ((Acc × Want) × Plan)) e => match e.2 with
    | .wait key _ _ true _ =>
      if r.1.contains key then r
      else
        let x := sectorPart evs key
        if x.mask == BitVec.allOnes 64 then
          (key :: r.1, r.2 ++ [(({ e.1.1 with op := .flush x.mask x.data false, bytes := 64, va := e.1.1.va / 64 * 64 }, e.1.2), e.2)])
        else (r.1, r.2 ++ [e])
    | _ => (r.1, r.2 ++ [e])) ([], [])).2

/-- R400. -/
def storeBody (a b : Reg) (size : Size) (rel : Bool) (sc : Nat) (off : Int) (i : Iss) (s : State) : Res :=
  let l := i.loc
  let lanes := Mask.lanes i.ex
  let n := size.bytes
  let ptr := i.ptr a off
  let check := i.check a off n .wr
  if l.versioned && rel && 4 ≤ sc then .bad 0x08
  else
    let ws := i.wants lanes ptr check n
    let ids := s.takeIds l.p ws.length
    let op := fun (w : Want) => AccOp.store (w.part (if size == .b64 then i.g.x w.lane b.toNat else (i.g.v w.lane b.toNat).setWidth 64))
    let evs := ws.mapIdx (fun k w => (i.acc (ids.1 + k) w (op w) false rel sc, w))
    let r := ids.2.plans (fun s e => s.planWrite l e.2.va e.2.priv) evs
    match (if l.versioned then r.1.find? (fun e => e.2.isUncached && !e.1.2.priv) else none) with
    | some e => .badAt 0x08 e.1.1.ptr e.1.2.lane
    | none => match firstBad lanes check with
      | some (c, j) => .badAt c (ptr j) j
      | none =>
        if s.mustWait l ws then .wait .pending [] s
        else match r.1.find? (fun e => e.2.isMisplaced) with
          | some e => .badAt 0x0F e.1.1.ptr e.1.2.lane
          | none =>
            let keys := fun (p : Plan → Bool) =>
              if l.versioned then (r.1.filter (fun e => p e.2 && !e.1.2.priv)).map (fun e => s.keyOf l.p l.asid e.1.2.va) else []
            -- its own sectors, those of pages that are not there among them, have to fit an empty version (R251, R255)
            let own := keys (fun _ => true)
            let never := decide (l.node.desc.quota < 64 * (own.foldl addOnce []).length)
            match s.versionRoom l (if never then own else keys Plan.isWait) 0 with
            | .never => .bad 0x08
            | .waits s' => .wait .quota [] s'
            | .fits =>
              let fs := faultsOf r.1
              if tableFull s l (r.1.filter (fun e => e.2.isWait)).length fs.length then .wait .table [] s
              else
                let s1 := if rel then r.2.cbDrain l.p l.asid (l.drainCores sc) else r.2
                if rel && !s1.released l sc then .wait .fence [] s1
                else .done (((wholeSectors (lastWrites r.1)).foldl (fun s e => s.applyStore i e) s1).logFaults l true fs) [] (i.watchMask .st ws) .keep

def execSt (gd : Guard) (a b : Reg) (size : Size) (rel : Bool) (sc : BitVec 5) (off : BitVec 10) (s : State) : Out :=
  issue { gd := gd, srcs := pairOf a ++ sized (size == .b64) b } (storeBody a b size rel sc.toNat off.toInt) s

/-! ### ATOM and RED -/

structure AtomForm where
  /-- The destination of the old values; none for RED. -/
  d : Option Nat
  a : Reg
  b : Reg
  c : Reg
  op : LaneOp
  w64 : Bool
  ord : Order
  sc : Nat
  off : Int

def Order.acquires (o : Order) : Bool := o == .acq || o == .acqrel
def Order.releases (o : Order) : Bool := o == .rel || o == .acqrel

/-- The locations that the lanes name, each with its lanes' operands in ascending order (R306). -/
def Iss.locations (i : Iss) (m : AtomForm) (ws : List Want) : List (Want × Tab Nat (DWord × DWord)) :=
  let val := fun (r : Reg) (j : Nat) => if m.w64 then i.g.x j r.toNat else (i.g.v j r.toNat).setWidth 64
  ws.foldl (fun acc w =>
    let e := (w.lane, (val m.b w.lane, val m.c w.lane))
    if acc.any (fun x => x.1.va == w.va) then acc.map (fun x => if x.1.va == w.va then (x.1, x.2 ++ [e]) else x)
    else acc ++ [(w, [e])]) []

/-- The operands a far atomic carries: combined at the source by the tree; the last lane's for .exch, after which the lanes' results
follow from the one old value; each lane's pair for .cas, which nothing combines (R203, R218). -/
def farOps (op : LaneOp) (w64 : Bool) (ops : Tab Nat (DWord × DWord)) : Tab Nat (DWord × DWord) :=
  match op with
  | .exch => match ops.getLast? with
    | some e => [(0, (e.2.1, 0))]
    | none => []
  | .cas => ops
  | _ =>
    let w := if w64 then 64 else 32
    [(0, (BitVec.ofNat 64 (treeAll op w (treeInputs op w ops)).1, 0))]

/-- The combining buffers beside the group's L1 write out a sector (R153, R198). -/
def State.cbSector (s : State) (l : Loc) (key : SectorKey) : State := (scalarCores l.node.desc.fused l.core).foldl (fun s c => s.cbFlush l.p c key) s
/-- No earlier store of those cores to a sector is on its way. -/
def State.sectorClear (s : State) (l : Loc) (key : SectorKey) : Bool :=
  let cores := scalarCores l.node.desc.fused l.core
  !(s.pkg l.p).pends.any (fun q => decide (q.core ∈ cores) && q.key == key) &&
    cores.all (fun c => !((s.pkg l.p).core c).cb.any (fun x => x.key == key))
/-- Where a planned atomic is performed: at the home, or at the own die (R202). -/
def Plan.isFar (p : Nat) : Plan → Bool
  | .wait key _ _ unc _ => unc || key.home != p
  | _ => false
/-- Earlier stores of the cores to the sectors of atomics stand in a combining buffer, or, for a far one, are on their way: the atomic
leaves after them (R190, R198). -/
def State.atomHeld (s : State) (l : Loc) (ps : List Plan) : Bool :=
  ps.any (fun e => match e with
    | .wait key _ _ _ _ => if e.isFar l.p then !s.sectorClear l key
        else (scalarCores l.node.desc.fused l.core).any (fun c => ((s.pkg l.p).core c).cb.any (fun x => x.key == key))
    | _ => false)

/-- A near atomic may be performed at once (R202): the own die holds all tokens, and no earlier store of the core to the
sector is on its way. -/
def State.nearNow (s : State) (l : Loc) (key : SectorKey) : Bool :=
  key.home == l.p && s.l2Ready l.p l.die key true && s.sectorClear l key

/-- Applies one planned atomic: near at the die L2, or far at the home (R202). -/
def State.applyAtom (s : State) (i : Iss) (m : AtomForm) (e : (Acc × Want) × Plan) : State :=
  let l := i.loc
  let a := e.1.1
  let rs := match m.d with | some d => if m.w64 then [d, d + 1] else [d] | none => []
  let ops := match a.op with | .atom _ _ ops _ => ops | _ => []
  let hold := fun (s : State) => s.holdRegs l.p l.g rs (Mask.ofPred (fun j => thas ops j)) i.addr a.id
  match e.2 with
  | .wait key pa wr unc ctrl =>
    let q := i.pendOf a key pa true
    if unc || key.home != l.p then
      (hold s).addUncached l.p q ctrl
        (fun txn => .farAtomic l.core txn a.va m.op m.w64 (farOps m.op m.w64 ops) m.d.isSome)
    else
      if s.nearNow l key then
        match s.l2 l.p l.die key with
        | some e => (hold s).performL2 l.p l.die q e
        | none => s
      else (hold s).addPend l.p q wr
  | .fault _ => hold s
  | _ => s

/-- A sector of the own L2 that an ATOM would read is poisoned (R269). -/
def State.nearPoison (s : State) (l : Loc) (va : Nat) : Bool :=
  let key := s.keyOf l.p l.asid va
  s.nearNow l key && (match s.l2 l.p l.die key with | some e => e.psn | none => false)

/-- The shared operation of ATOM and RED outside a version (R306, R391). -/
def atomBody (m : AtomForm) (i : Iss) (s : State) : Res :=
  let l := i.loc
  let lanes := Mask.lanes i.ex
  let n := if m.w64 then 8 else 4
  let ptr := i.ptr m.a m.off
  let check := i.check m.a m.off n .atom
  match firstBad lanes check with
  | some (c, j) => .badAt c (ptr j) j
  | none =>
    let ws := i.wants lanes ptr check n
    if s.mustWait l ws then .wait .pending [] s
    else
      let locs := i.locations m ws
      let ids := s.takeIds l.p locs.length
      let evs := locs.mapIdx (fun k x =>
        (i.acc (ids.1 + k) x.1 (.atom m.op m.w64 x.2 m.d) (Order.acquires m.ord) (Order.releases m.ord) m.sc, x.1))
      let r := ids.2.plans (fun s e => s.planWrite l e.2.va false) evs
      match r.1.find? (fun e => e.2.isMisplaced) with
      | some e => .badAt 0x0F e.1.1.ptr e.1.2.lane
      | none => match (if m.d.isSome then ws.find? (fun w => s.nearPoison l w.va) else none) with
        | some w => .badAt 0x07 w.ptr w.lane
        | none =>
          let fs := faultsOf r.1
          if tableFull s l (r.1.filter (fun e => e.2.isWait)).length fs.length then .wait .table [] s
          else
            let rel := Order.releases m.ord
            let s0 := if rel then r.2.cbDrain l.p l.asid (l.drainCores m.sc) else r.2
            let ps := r.1.map (·.2)
            let s1 := ps.foldl (fun s e => match e with | .wait key _ _ _ _ => s.cbSector l key | _ => s) s0
            if rel && !s1.released l m.sc then .wait .fence [] s1
            else if s1.atomHeld l ps then .wait .pending [] s1
            else .done ((r.1.foldl (fun s e => s.applyAtom i m e) s1).logFaults l true fs) [] (i.watchMask .atom ws) .keep

/-- A RED inside a version is combined and logged (R252). -/
def redLogBody (m : AtomForm) (i : Iss) (s : State) : Res :=
  let l := i.loc
  let lanes := Mask.lanes i.ex
  let n := if m.w64 then 8 else 4
  let ptr := i.ptr m.a m.off
  let check := i.check m.a m.off n .atom
  if m.ord != .plain && 4 ≤ m.sc then .bad 0x08
  else match firstBad lanes check with
    | some (c, j) => .badAt c (ptr j) j
    | none =>
      let ws := i.wants lanes ptr check n
      let locs := i.locations m ws
      if s.mustWait l ws then .wait .pending [] s
      else match s.versionRoom l [] locs.length with
      | .never => .bad 0x08
      | .waits s' => .wait .quota [] s'
      | .fits =>
        let w := 8 * n
        let entry := fun (x : Want × Tab Nat (DWord × DWord)) =>
          ({ op := m.op, w64 := m.w64, va := x.1.va, val := BitVec.ofNat 64 (treeAll m.op w (treeInputs m.op w x.2)).1 } : RedLog)
        let s1 := if Order.releases m.ord then s.cbDrain l.p l.asid (l.drainCores m.sc) else s
        if Order.releases m.ord && !s1.released l m.sc then .wait .fence [] s1
        else
          let s2 := s1.updVersion l.p l.blk.cluster (fun v => { v with log := v.log ++ locs.map entry })
          .done (if Order.acquires m.ord then s2.acquire l m.sc else s2) [] (i.watchMask .atom ws) .keep

def execAtom (gd : Guard) (d a b c : Reg) (op : LaneOp) (w64 : Bool) (ord : Order) (sc : BitVec 5) (off : BitVec 9) (s : State) : Out :=
  issue { gd := gd, srcs := pairOf a ++ sized w64 b ++ sized w64 c, dsts := sized w64 d }
    (fun i s => if i.loc.versioned then .bad 0x08
      else atomBody { d := some d.toNat, a := a, b := b, c := c, op := op, w64 := w64, ord := ord, sc := sc.toNat, off := off.toInt } i s) s

def execRed (gd : Guard) (a b : Reg) (op : LaneOp) (w64 : Bool) (ord : Order) (sc : BitVec 5) (off : BitVec 9) (s : State) : Out :=
  issue { gd := gd, srcs := pairOf a ++ sized w64 b }
    (fun i s =>
      let m : AtomForm := { d := none, a := a, b := b, c := 0, op := op, w64 := w64, ord := ord, sc := sc.toNat, off := off.toInt }
      if i.loc.versioned then redLogBody m i s else atomBody m i s) s

/-! ### FENCE, PFT -/

/-- R342. A later access that the fence orders waits for the earlier ones still in flight, which the mark holds; an acquire acts on
the L1 again when each of them is performed, and so after the reads that it follows (R196). (log 41, DEDUCED) -/
def fenceBody (ord : Order) (sc : Nat) (i : Iss) (s : State) : Res :=
  let l := i.loc
  if l.versioned && 4 ≤ sc then .bad 0x08
  else
    let rel := Order.releases ord
    let s1 := if rel then s.cbDrain l.p l.asid (l.drainCores sc) else s
    let k := s1.pkg l.p
    if k.olog.any (fun o => o.gid == l.g) || decide (Config.otEntries ≤ k.pendsOf l.core) ||
        (rel && !s1.cbClear l.p l.asid (l.drainCores sc)) then .wait .fence [] s1
    else
      let at_ := if Order.acquires ord then sc else 0
      let mark := fun (q : Pend) => if q.acc.gid == l.g then { q with fenced := some (max at_ (q.fenced.getD 0)) } else q
      let s2 := s1.updPkg l.p (fun k => { k with pends := k.pends.map mark })
      .ok (if Order.acquires ord then s2.acquireL1 l.p l.core l.asid l.node.desc.fused sc else s2)

def execFence (u : Bool) (gd : Guard) (ord : Order) (sc : BitVec 5) (s : State) : Out :=
  issue { gd := gd, uni := u } (fenceBody ord sc.toNat) s

/-- A hint, here without a fill (R382). (log 39, DEDUCED) -/
def execPft (gd : Guard) (a : Reg) (l2 : Bool) (off : BitVec 10) (s : State) : Out :=
  let _hint := (l2, off)
  issue { gd := gd, srcs := pairOf a } (fun _ s => .ok s) s

/-! ### CLIN -/

/-- The sectors of a lane's range, with the lane's own bytes of a private one (R322). -/
def Iss.clinSectors (i : Iss) (s : State) (a b : Reg) : List SectorKey :=
  let l := i.loc
  let per := fun (j : Nat) =>
    let x := i.g.x j a.toNat
    let n := i.g.n j b
    if n = 0 then []
    else match boundOf l.ctx l.node (ridOf x) with
      | some (.global, _) =>
        (List.range ((vaOf x % 64 + n + 63) / 64)).map (fun k => s.keyOf l.p l.asid ((vaOf x / 64 + k) * 64))
      | some (.priv, bd) =>
        (List.range ((vaOf x % 4 + n + 3) / 4)).map (fun k => s.keyOf l.p l.asid (privVa bd ((vaOf x / 4 + k) * 4) j i.g.window))
      | _ => []
  ((Mask.lanes i.ex).map per).flatten.foldl addOnce []

/-- The check of one lane's range (R322): region, permissions, then the private limit. -/
def Iss.clinBad (i : Iss) (inv : Bool) (a b : Reg) (j : Nat) : Option (BitVec 8) :=
  let x := i.g.x j a.toNat
  let n := i.g.n j b
  if n = 0 then none
  else match boundOf i.loc.ctx i.loc.node (ridOf x) with
    | some (.global, bd) =>
      if bd.base ≤ vaOf x && vaOf x + n - 1 ≤ bd.limit && bd.rd && (!inv || bd.wr) then none else some 0x05
    | some (.priv, bd) =>
      if !bd.rd || (inv && !bd.wr) then some 0x05 else if bd.limit < vaOf x + n then some 0x0E else none
    | _ => some 0x05

/-- The cores that a scope names, as package and core (R191, R192). -/
def State.scopeCores (s : State) (l : Loc) (sc : Nat) : List (Nat × Nat) :=
  let own := (l.p, l.core)
  let fitted := Config.cores s.part
  let spans := l.ctx.spans.filter (fun q => thas s.pkgs q)
  match sc with
  | 0 | 1 | 2 => [own]
  | 3 => (List.range 8).map (fun i => (l.p, l.core / 8 * 8 + i))
  | 4 => (List.range 64).map (fun i => (l.p, l.die * 64 + i))
  | 5 => (List.range fitted).map (fun c => (l.p, c))
  | 6 | 7 => (spans.map (fun q => (List.range fitted).map (fun c => (q, c)))).flatten
  | n =>
    let e := tgetD l.ctx.scopes n (0, 0)
    addOnce ((spans.filter (bit e.1)).map (fun q => ((List.range fitted).filter (bit e.2)).map (fun c => (q, c)))).flatten own

/-- R322: the combining buffers drain at issue; the rest of the actions are those of CLIN_COMPLETE, which retires it.
The wait carries the op, .all, the scope and the registers. -/
def clinBody (a b : Reg) (op : ClinOp) (all : Bool) (sc : Nat) (i : Iss) (s : State) : Res :=
  let lanes := Mask.lanes i.ex
  let inv := op == .inv
  if i.loc.versioned then .bad 0x08
  else
    let bad := lanes.filterMap (fun j => (i.clinBad inv a b j).map (fun c => (c, j)))
    match bad.find? (fun e => e.1 == 0x05) with
    | some (c, j) => .badAt c (i.g.x j a.toNat) j
    | none => match bad.head? with
      | some (c, j) => .badAt c (i.g.x j a.toNat) j
      | none =>
        let cores := s.scopeCores i.loc sc
        let keys := i.clinSectors s a b
        let s1 := cores.foldl (fun s c => keys.foldl (fun s k => s.cbFlush c.1 c.2 k) s) s
        .wait .clin [ClinOp.code op, Config.b2n all, sc, a.toNat, b.toNat, i.ex.toNat] s1

def execClin (gd : Guard) (a b : Reg) (op : ClinOp) (all : Bool) (sc : BitVec 5) (s : State) : Out :=
  issue { gd := gd, srcs := pairOf a ++ one b } (clinBody a b op all sc.toNat) s

/-- One sector's actions at one die (R322). -/
def State.clinDie (s : State) (op : ClinOp) (key : SectorKey) (t : Nat × Nat) : State :=
  match s.l2 t.1 t.2 key with
  | none => s
  | some e =>
    match op with
    | .wb =>
      if e.own && e.dirty && e.dv then
        let s1 := s.homeWrite key.home e.pa (s.homeTag key) e.data
        let h := s1.homeSec key e.pa
        (s1.setHomeSec key e.pa { h with psn := e.psn }).setL2 t.1 t.2 key { e with dirty := false }
      else s
    | .inv => (s.setL2 t.1 t.2 key { e with dirty := false }).l2Send t.1 t.2 key { e with dirty := false } e.cnt e.own false (homeAgent key e.pa)
    | .wbi => s.l2Send t.1 t.2 key e e.cnt e.own e.own (homeAgent key e.pa)

/-- Tokens of a sector are on their way to one of the dies: a late arrival would bring back what the CLIN sends away (R159). -/
def State.tokensDue (s : State) (key : SectorKey) (dies : List (Nat × Nat)) : Bool :=
  s.messages.any (fun m => m.key == key && dies.any (fun t => m.dst == sliceAgent t.1 t.2 key) &&
    (match m.body with | .tok .. => true | _ => false))

/-- The CLIN that a group waits for, with its issue, op, .all and scope. -/
structure Clin where
  iss : Iss
  op : ClinOp
  all : Bool
  sc : Nat
  keys : List SectorKey

def State.clinOf (s : State) (p g : Nat) : Option Clin :=
  (s.loc p g).bind (fun l => (l.grp.holds.find? (fun h => h.kind == .clin)).bind (fun h => match h.data with
    | [opc, all, sc, a, b, ex] =>
      let i : Iss := { loc := l, addr := h.addr, sel := h.lanes, ex := BitVec.ofNat 32 ex, words := (0, some 0) }
      some { iss := i, op := (ClinOp.ofCode opc).getD .wb, all := all == 1, sc := sc, keys := i.clinSectors s (BitVec.ofNat 7 a) (BitVec.ofNat 7 b) }
    | _ => none))

/-- The dies whose L2 a CLIN acts on. -/
def Clin.dies (c : Clin) (s : State) : List (Nat × Nat) :=
  if c.all then s.domainDies c.iss.loc.p c.iss.loc.asid else [(c.iss.loc.p, c.iss.loc.die)]
/-- What it has drained has landed, and no tokens of its sectors are under way to its dies. -/
def Clin.rests (c : Clin) (s : State) : Bool :=
  let busy := (s.scopeCores c.iss.loc c.sc).any (fun t => (s.pkg t.1).pends.any (fun q => q.isFlush && q.core == t.2 && decide (q.key ∈ c.keys)) ||
    ((s.pkg t.1).core t.2).cb.any (fun x => decide (x.key ∈ c.keys)))
  !busy && (c.op == .wb || !c.keys.any (fun k => s.tokensDue k (c.dies s)))
def State.clinReady (s : State) (p g : Nat) : Bool := (s.clinOf p g).any (·.rests s)

/-- CLIN_COMPLETE: once the drained sectors have landed, the L1s and L2s act and the CLIN of a resident group retires (R322). -/
def State.clinFinish (s : State) (p g : Nat) : State :=
  match s.clinOf p g with
  | none => s
  | some c =>
    if !c.rests s || !(s.pkg p).groupResident g then s
    else
      let fused := c.iss.loc.node.desc.fused
      let drop := fun (s : State) (t : Nat × Nat) (k : SectorKey) => (s.l1Drop t.1 t.2 false k).l1Drop t.1 t.2 fused k
      let s1 := if c.op == .wb then s else (s.scopeCores c.iss.loc c.sc).foldl (fun s t => c.keys.foldl (fun s k => drop s t k) s) s
      let s2 := c.keys.foldl (fun s k => (c.dies s).foldl (fun s t => s.clinDie c.op k t) s) s1
      (s2.retire c.iss [] .keep).afterTraps c.iss 0

def execClinComplete (p g : Nat) (s : State) : Out := .next (s.clinFinish p g)

/-- COMBINING_BUFFER_WRITE: the L2 slice tests the check code, and the write is performed once all 64 tokens are held
(R152, R216). -/
def execCombiningBufferWrite (p core : Nat) (k : SectorKey) (s : State) : Out := .next (s.cbFlush p core k)

/-- STORE_RESEND: an unaccepted sector is sent again after 1,024 cycles (R216). -/
def State.storeResend (s : State) (p core : Nat) (key : SectorKey) : State :=
  if ((s.pkg p).core core).cb.any (fun c => c.key == key && c.sent.isSome) then s.cbFlush p core key else s

def execStoreResend (p core : Nat) (k : SectorKey) (s : State) : Out := .next (s.storeResend p core k)

end Sys2Proof.Machine
end

