-- ==== Sys2Proof/Machine/Deposits.lean ====
section
/-! DEFINITION. Machine/Deposits.lean: deposits and counted releases on channels (spec/10 R219 to R230, spec/16 R327 to
R331, spec/15 R319): the sending unit, the receiving unit, and the HALT of a debugged package (R227). -/

namespace Sys2Proof.Machine

/-! ### Send state (R220, R221) -/

def State.snd (s : State) (p ch : Nat) : Option Snd := tget (s.pkg p).chan.snd ch
def State.updSnd (s : State) (p ch : Nat) (f : Snd → Snd) : State := s.updPkg p (·.updChan (fun c => { c with snd := tmod c.snd ch f }))
/-- The key of a receive state: the sending package and the channel (R219). -/
def rcvKey (src ch : Nat) : Nat := 4096 * src + ch
def State.rcv (s : State) (p src ch : Nat) : Option Rcv := tget (s.pkg p).chan.rcv (rcvKey src ch)
def State.updRcv (s : State) (p src ch : Nat) (f : Rcv → Rcv) : State :=
  s.updPkg p (·.updChan (fun c => { c with rcv := tmod c.rcv (rcvKey src ch) f }))

/-- x − y modulo 2^16. -/
def seqDiff (x y : Nat) : Nat := (x + 65536 - y % 65536) % 65536
/-- x lies ahead of y. -/
def seqAhead (x y : Nat) : Bool := decide (0 < seqDiff x y) && decide (seqDiff x y < 32768)

namespace Snd
def journaled (c : Snd) : Bool := c.jsize.isSome
/-- Entries of the journal (R222), those it holds, and those that are free. -/
def cap (c : Snd) : Nat := 2 ^ (c.jsize.getD 5 - 5)
def used (c : Snd) : Nat := (c.jtail + 2 ^ 32 - c.jhead) % 2 ^ 32
def free (c : Snd) : Nat := c.cap - c.used
/-- Stuck for n more deposits (R328). -/
def stuck (c : Snd) (n : Nat) : Bool := c.journaled && decide (c.free < n) && c.used == c.sent
/-- At most one release is unacknowledged. -/
def open_ (c : Snd) : Bool := decide (seqDiff c.seq c.ack < 2)
def ready (c : Snd) (n : Nat) : Bool := c.open_ && (!c.journaled || decide (n ≤ c.free))
end Snd

/-- A channel that a context holds (R219). -/
def State.holdsChan (s : State) (p asid ch : Nat) : Bool := (s.snd p ch).any (fun c => c.asid == asid)

/-! ### Sending (R221, R222) -/

/-- The 32 bytes of a journal entry (R222). -/
def journalEntry (kind size va : Nat) (val : DWord) (seq ord : Nat) (check : Word) : List Byte :=
  leBytes 8 va ++ leBytes 8 val.toNat ++ leBytes 2 seq ++ leBytes 2 0 ++ leBytes 4 (ord + 2 ^ 20 * size + 2 ^ 22 * kind) ++
    leBytes 4 check.toNat ++ leBytes 4 0
def Snd.journalVa (c : Snd) (n : Nat) : Nat := vaOf c.jptr + 32 * (n % c.cap)

/-- deposit_send without its waits and traps (R221). -/
def State.depositSend (s : State) (p ch kind size : Nat) (va : Nat) (val : DWord) : State :=
  match s.snd p ch with
  | none => s
  | some c =>
    let seq := (c.seq + 1) % 65536
    let check := checkCode va (leBytes (2 ^ size) val.toNat) c.asid c.inc
    let s1 := if c.journaled then
        (s.vaWrite p c.asid (c.journalVa c.jtail) (journalEntry kind size va val seq c.sent check)).2 else s
    let s2 := s1.updSnd p ch (fun c => { c with sent := c.sent + 1, jtail := if c.journaled then (c.jtail + 1) % 2 ^ 32 else c.jtail })
    s2.send (.chan p) (.chan c.peer) c.asid c.inc noKey 0 (.deposit ch kind size va val seq c.sent c.gen)

def State.sendRelease (s : State) (p ch : Nat) (c : Snd) (r : Rls) : State :=
  s.send (.chan p) (.chan c.peer) c.asid c.inc noKey 0 (.release ch r.seq r.cnt r.gen r.va r.val)

/-- release_send without its waits and traps (R221). -/
def State.releaseSend (s : State) (p ch : Nat) (va : Nat) (val : Word) : State :=
  match s.snd p ch with
  | none => s
  | some c =>
    let r : Rls := { seq := (c.seq + 1) % 65536, cnt := c.sent, gen := c.gen, va := va, val := val, sent := s.now }
    (s.updSnd p ch (fun c => { c with seq := r.seq, sent := 0, kept := c.kept ++ [r] })).sendRelease p ch c r

/-- The journal entries that an instruction is about to write can be written; the page that cannot. (log 31, DEDUCED) -/
def State.journalFault (s : State) (p : Nat) (c : Snd) (n : Nat) : Option (Nat × FltKind) :=
  if !c.journaled then none
  else ((List.range n).filterMap (fun k =>
    match (s.vaWritable p c.asid 33 (c.journalVa (c.jtail + k)) 32).1 with
    | .fault f va => some (va, f)
    | _ => none)).head?

/-! ### DEPS, DEPA, DEPR at issue -/

/-- The operands of a lane's deposit or release. -/
structure Dep where
  lane : Nat
  ptr : DWord
  val : DWord
  chan : Word

def Dep.ch (d : Dep) : Nat := bits d.chan 11 0
/-- A lane names a channel that its context does not hold (R328). -/
def Dep.foreign (d : Dep) (s : State) (l : Loc) : Bool := bits d.chan 31 12 != 0 || !s.holdsChan l.p l.asid d.ch

def Iss.deps (i : Iss) (a b c : Reg) (w64 : Bool) : List Dep :=
  (Mask.lanes i.ex).map (fun n => {
    lane := n, ptr := i.g.x n a.toNat, val := if w64 then i.g.x n b.toNat else (i.g.v n b.toNat).setWidth 64, chan := i.g.v n c.toNat })

/-- The channels named, each with the number of lanes that name it. -/
def depChans (ds : List Dep) : List (Nat × Nat) :=
  (ds.map Dep.ch).foldl (fun l ch => if l.any (fun e => e.1 == ch) then l.map (fun e => if e.1 == ch then (ch, e.2 + 1) else e) else l ++ [(ch, 1)]) []

/-- The checks that DEPS, DEPA and DEPR share, in their order, before those of 0x0C (R328, R331). -/
def Iss.depBad (i : Iss) (s : State) (ds : List Dep) (n : Nat) (perm : Perm) : Option Res :=
  let l := i.loc
  if l.versioned then some (.bad 0x08)
  else match ds.find? (fun d => vaOf d.ptr % n != 0) with
    | some d => some (.badAt 0x04 d.ptr d.lane)
    | none =>
      let outside := fun (d : Dep) => !coversGlobal l.ctx l.node d.ptr n perm
      match ds.find? (fun d => outside d || d.foreign s l) with
      | some d => some (.badAt 0x05 (if outside d then d.ptr else d.chan.setWidth 64) d.lane)
      | none => match ds.find? (fun d => (s.snd l.p d.ch).any (·.brk)) with
        | some d => some (.badAt 0x0D 0 d.lane)
        | none => none

/-- The channels of a wait, each with its number of deposits. -/
def chanData (named : List (Nat × Nat × Snd)) : List Nat := (named.map (fun e => [e.1, e.2.1])).flatten

/-- R328. A journal page that is not present holds the instruction while the driver serves the fault. A deposit is ppo-after nothing
of its thread (R207); only a faulted acquire holds it (R162). A broken channel ends the wait at once (R221, R226). -/
def depositBody (a b c : Reg) (kind size : Nat) (i : Iss) (s : State) : Res :=
  let l := i.loc
  let ds := i.deps a b c (size == 3)
  let named := (depChans ds).filterMap (fun e => (s.snd l.p e.1).bind (fun x => if x.asid = l.asid then some (e.1, e.2, x) else none))
  let data := 0 :: chanData named
  if s.acqLogged l.p l.g then .wait .pending [] s
  else if !named.all (fun e => e.2.2.ready e.2.1) && !named.any (fun e => e.2.2.stuck e.2.1 || e.2.2.brk) then .wait .chan data s
  else match i.depBad s ds (2 ^ size) (if kind = 0 then .wr else .atom) with
    | some r => r
    | none => match ds.find? (fun d => named.any (fun e => e.1 == d.ch && (decide (2 ^ 20 - 1 < e.2.2.sent + e.2.1) || e.2.2.stuck e.2.1))) with
      | some d => .badAt 0x0C 0 d.lane
      | none => match named.find? (fun e => (s.journalFault l.p e.2.2 e.2.1).isSome) with
        | some e =>
          let f := (s.journalFault l.p e.2.2 e.2.1).getD (0, .notPresent)
          .wait .chan data (if e.2.2.jwait == some (f.1 / 65536) then s
            else (s.updSnd l.p e.1 (fun x => { x with jwait := some (f.1 / 65536) })).agentFault l.p l.asid f.2 true f.1)
        | none => .ok (ds.foldl (fun s d => s.depositSend l.p d.ch kind size (vaOf d.ptr) d.val) s)

def Size.code : Size → Nat
  | .b8 => 0
  | .b16 => 1
  | .b32 => 2
  | .b64 => 3

def execDeps (gd : Guard) (a b c : Reg) (size : Size) (s : State) : Out :=
  issue { gd := gd, srcs := pairOf a ++ sized (size == .b64) b ++ one c } (depositBody a b c 0 (Size.code size)) s

/-- The kind and size codes of a journal entry (R222). -/
def DepaKind.code : DepaKind → Nat
  | .i32 => 1
  | .i64 => 2
  | .f32 => 3

def execDepa (gd : Guard) (a b c : Reg) (kind : DepaKind) (s : State) : Out :=
  issue { gd := gd, srcs := pairOf a ++ sized (kind == .i64) b ++ one c }
    (depositBody a b c (DepaKind.code kind) (if kind = .i64 then 3 else 2)) s

/-- R331. -/
def deprBody (a b c : Reg) (i : Iss) (s : State) : Res :=
  let l := i.loc
  let ds := i.deps a b c false
  let named := (depChans ds).filterMap (fun e => (s.snd l.p e.1).bind (fun x => if x.asid = l.asid then some (e.1, e.2, x) else none))
  if !named.all (fun e => e.2.2.open_) && !named.any (·.2.2.brk) then .wait .chan (1 :: chanData named) s
  else match i.depBad s ds 4 .wr with
    | some r => r
    | none => match ds.find? (fun d => named.any (fun e => e.1 == d.ch && decide (1 < e.2.1))) with
      | some d => .badAt 0x0C 0 d.lane
      | none =>
        let rel := s.release l scPod
        if !rel.1 then .wait .fence [] rel.2
        else .ok (ds.foldl (fun s d => s.releaseSend l.p d.ch (vaOf d.ptr) (d.val.setWidth 32)) rel.2)

def execDepr (gd : Guard) (a b c : Reg) (s : State) : Out :=
  issue { gd := gd, srcs := pairOf a ++ one b ++ one c } (deprBody a b c) s

/-! ### CHNR (R229, R319) -/

def Rcv.word (r : Rcv) : Nat := r.cur + 2 ^ 20 * r.gen + 2 ^ 22 * Config.b2n r.shn + 2 ^ 23 * Config.b2n r.unr

def chnrValue (s : State) (l : Loc) (kind : ChnrKind) (x : Word) : Option Nat :=
  let ch := bits x 11 0
  match kind with
  | .snd => (s.snd l.p ch).bind (fun c => if c.asid = l.asid then some c.sent else none)
  | .seq => (s.snd l.p ch).bind (fun c => if c.asid = l.asid then some (c.seq + 65536 * c.ack) else none)
  | .arr => (s.rcv l.p (bits x 15 12) ch).bind (fun r => if r.asid = l.asid then some r.word else none)

/-- The group's deposits and releases reach the channel unit as they issue, so CHNR waits for none. -/
def execChnr (d a : Reg) (kind : ChnrKind) (s : State) : Out :=
  issue { uni := true, srcs := one a, dsts := one d } (fun i s =>
    let x := i.g.v i.leader a.toNat
    match chnrValue s i.loc kind x with
    | some v => .ok (i.lanes s true (fun _ y => y.setV d.toNat (BitVec.ofNat 32 v)))
    | none => .badAt 0x05 (x.setWidth 64) i.leader) s

/-! ### The receiving unit (R223, R224) -/

/-- What became of a write of the unit's: performed, waiting for a page, or lost. -/
inductive Landed where
  | done (s : State)
  | fault (k : FltKind) (s : State)
  | lost (s : State)

/-- A read-modify-write or write of one location, performed at the sector's owner in one step (log 15, DEDUCED). -/
def State.cohOp (s : State) (key : SectorKey) (pa : Nat) (op : HomeOp) : State :=
  match op with
  | .read _ _ => s
  | .write va bs => s.cohPut key pa (va % 64) bs.length (leNat bs)
  | .atom va op w64 ops =>
    let n := if w64 then 8 else 4
    s.cohPut key pa (va % 64) n (rmw op (8 * n) (secGet (s.cohData key pa).1 (va % 64) n) ops).1

/-- A write at the home in the receiving package, whose own placement alone counts (R219). -/
def State.depositStore (s : State) (p asid va : Nat) (op : HomeOp) : Landed :=
  let own := (tget (s.pkg p).ctxs asid).bind (fun c => placeIn s.part c va)
  if own.isNone then .fault .noPlacement s
  else
    let r := s.translate p asid va true
    match r.1 with
    | .frame _ lin _ _ => .done (r.2.cohOp (r.2.tokenName (s.keyOf p asid va) (lin / 64 * 64)) (lin / 64 * 64) op)
    | .host _ a => .done (r.2.hostPerform a op).2
    | .fault k => .fault k r.2
    | .misplaced | .poisoned => .lost r.2

def depositOp (kind size va : Nat) (val : DWord) : HomeOp :=
  if kind = 0 then .write va (leBytes (2 ^ size) val.toNat)
  else .atom va (if kind = 3 then .fadd else .add) (kind == 2) [(0, (val, 0))]

/-- adopt(g) of R224: a new generation drops the held releases and recounts from the maps. -/
def Rcv.adopt (r : Rcv) (g now : Nat) : Rcv :=
  { r with gen := g, tadopt := some now, held := [], cur := r.mapc.length, next := r.mapn.length, shn := false }

/-- The generation test (R224); none where the arrival is dropped. -/
def Rcv.accept (r : Rcv) (g now : Nat) : Option Rcv :=
  if g = (r.gen + 1) % 4 then some (r.adopt g now) else if g = r.gen then some r else none

/-- The held release of an interval. -/
def Rcv.release? (r : Rcv) (k : Nat) : Option Rls := r.held.find? (fun h => seqDiff h.seq r.last == k)

def State.rack (s : State) (p src ch : Nat) (r : Rcv) (seq : Nat) : State :=
  s.send (.chan p) (.chan src) r.asid r.inc noKey 0 (.rack ch seq)

/-- A release waits for its flag's page. -/
def State.flagWaits (s : State) (p src ch : Nat) : Bool :=
  (s.pkg p).chan.deps.any (fun d => d.msg.src.pkg == src && (match d.msg.body with | .release c _ _ _ _ _ => c == ch | _ => false))

def State.depWait (s : State) (p : Nat) (m : Msg) (va : Nat) (k : FltKind) : State :=
  (s.agentFault p m.asid k true va).updPkg p (·.updChan (fun c => { c with deps := c.deps ++ [{ msg := m, page := va / 65536 }] }))

/-- try_apply of R224. (log 85, DEDUCED) -/
def State.tryApply (s : State) (p src ch : Nat) : Nat → State
  | 0 => s
  | fuel + 1 =>
    match s.rcv p src ch with
    | none => s
    | some r => match r.release? 1 with
      | none => s
      | some h =>
        if r.cur != h.cnt || s.flagWaits p src ch then s
        else match s.depositStore p r.asid h.va (.write h.va (leBytes 4 h.val.toNat)) with
          | .lost t => t.updRcv p src ch (fun r => { r with unr := true })
          | .fault k t =>
            let m : Msg := { src := .chan src, dst := .chan p, asid := r.asid, inc := r.inc, key := noKey, pa := 0,
                             body := .release ch h.seq h.cnt h.gen h.va h.val, check := 0, scope := 0, hops := 0, since := s.now }
            t.depWait p m h.va k
          | .done t =>
            let t1 := t.updRcv p src ch (fun r => { r with
              last := h.seq, cur := r.next, next := 0, mapc := r.mapn, mapn := [], shn := false, unr := false,
              held := r.held.filter (fun x => x.seq != h.seq), heldAt := s.now })
            (t1.rack p src ch r h.seq).tryApply p src ch fuel

def applyFuel : Nat := 4

/-- on_deposit of R224, after the stale test. (log 30, DEDUCED) (log 85, DEDUCED) -/
def State.onDeposit (s : State) (p : Nat) (m : Msg) : State :=
  match m.body with
  | .deposit ch kind size va val seq ord gen =>
    let src := m.src.pkg
    match s.rcv p src ch with
    | none => s.bump p unitChan wNoch
    | some r0 => match r0.accept gen s.now with
      | none => s.bump p unitChan wGdisc
      | some r =>
        let s := s.updRcv p src ch (fun _ => r)
        let k := seqDiff seq r.last
        if k != 1 && k != 2 then s.bump p unitChan wLate
        else if r.journaled && decide (ord ∈ (if k = 1 then r.mapc else r.mapn)) then s.bump p unitChan wDup
        else if !m.checkOk then s.bump p unitChan wChk
        else match s.depositStore p m.asid va (depositOp kind size va val) with
          | .lost t => t.updRcv p src ch (fun r => { r with unr := true })
          | .fault f t => t.depWait p m va f
          | .done t =>
            let mark := fun (l : List Nat) => if r.journaled then l ++ [ord] else l
            (t.updRcv p src ch (fun r => if k = 1 then { r with cur := r.cur + 1, mapc := mark r.mapc } else { r with next := r.next + 1, mapn := mark r.mapn })).tryApply p src ch applyFuel
  | _ => s

/-- Entries of the pending-flag buffer in use (R224). -/
def Pkg.flagsHeld (k : Pkg) : Nat := (k.chan.rcv.map (fun e => e.2.held.length)).sum

/-- on_release of R224, after the stale test and the check code (R216). -/
def State.onRelease (s : State) (p : Nat) (m : Msg) : State :=
  match m.body with
  | .release ch seq cnt gen va val =>
    let src := m.src.pkg
    match s.rcv p src ch with
    | none => s.bump p unitChan wNoch
    | some r0 =>
      if !m.checkOk then s.bump p unitChan wChk
      else match r0.accept gen s.now with
        | none => s.bump p unitChan wGdisc
        | some r =>
          let s := s.updRcv p src ch (fun _ => r)
          let k := seqDiff seq r.last
          let used := (s.pkg p).flagsHeld
          let x : Rls := { seq := seq, cnt := cnt, gen := gen, va := va, val := val, sent := s.now }
          if k = 0 || decide (32768 ≤ k) then (s.bump p unitChan wDup).rack p src ch r seq
          else if k = 1 && (r.release? 1).isNone && decide (used < Config.flagBuffer) then
            (s.updRcv p src ch (fun r => { r with held := x :: r.held, heldAt := s.now })).tryApply p src ch applyFuel
          else if k = 2 && (r.release? 2).isNone && decide (used + 16 < Config.flagBuffer) then
            (s.updRcv p src ch (fun r => { r with held := r.held ++ [x] })).tryApply p src ch applyFuel
          else s.tryApply p src ch applyFuel
  | _ => s

/-- The message in `cur`, at the package it was sent to; a stale one is dropped and counted (R232, R236). -/
def chanMessage (f : Nat → Msg → State → State) (s : State) : Out :=
  match s.cur with
  | .message m => if s.stale m then .next (s.cullet m.dst wCdep) else .next (f m.dst.pkg m s)
  | _ => .next s

def execDeposit (s : State) : Out := chanMessage (fun p m s => s.onDeposit p m) s
def execRelease (s : State) : Out := chanMessage (fun p m s => s.onRelease p m) s

/-! ### Acknowledgements and shortfalls at the sender (R221, R226) -/

def State.onRack (s : State) (p : Nat) (m : Msg) : State :=
  match m.body with
  | .rack ch seq =>
    match s.snd p ch with
    | none => s.bump p unitChan wNoch
    | some c =>
      if !seqAhead seq c.ack then s
      else
        let done := fun (r : Rls) => !seqAhead r.seq seq
        let freed := ((c.kept.filter done).map (·.cnt)).sum
        s.updSnd p ch (fun c => { c with
          ack := seq, kept := c.kept.filter (fun r => !done r), jhead := if c.journaled then (c.jhead + freed) % 2 ^ 32 else c.jhead })
  | _ => s

def execRack (s : State) : Out := chanMessage (fun p m s => s.onRack p m) s

/-- A channel breaks: deposit loss, named to the driver (R226, R431). (log 31, DEDUCED) -/
def State.breakChan (s : State) (p ch : Nat) (c : Snd) : State :=
  ((s.updSnd p ch (fun c => { c with brk := true })).bump p unitChan wLoss).updPkg p
    (fun k => k.report (k.ownerFn c.asid) (errRec 3 c.asid 0x0D ch 0 0 0 Name3.zero))

/-- A journal entry, or why it cannot be read. -/
def State.journalRead (s : State) (p : Nat) (c : Snd) (n : Nat) : VaRes × State := s.vaRead p c.asid 33 (c.journalVa n) 32

/-- Sends a journal entry again, under a generation, with the check code that it was written with (R222, R226). -/
def State.replayEntry (s : State) (p ch gen n : Nat) (c : Snd) : State :=
  let r := s.journalRead p c n
  match r.1 with
  | .ok bs =>
    let w := (wordOf (bs.drop 20)).toNat
    let m : Msg := { src := .chan p, dst := .chan c.peer, asid := c.asid, inc := c.inc, key := noKey, pa := 0,
                     body := .deposit ch (w / 2 ^ 22 % 8) (w / 2 ^ 20 % 4) (leNat (bs.take 8)) (BitVec.ofNat 64 (leNat ((bs.drop 8).take 8)))
                       (leNat ((bs.drop 16).take 2)) (w % 2 ^ 20) gen,
                     check := wordOf (bs.drop 24), scope := 0, hops := 0, since := s.now }
    r.2.route p m
  | _ => r.2

/-- The first journal entry to be resent that cannot be read. -/
def State.journalStop (s : State) (p : Nat) (c : Snd) : Option VaRes :=
  ((List.range c.used).map (fun n => (s.journalRead p c (c.jhead + n)).1)).find? (fun r => match r with | .ok _ => false | _ => true)

/-- R226. A journal page that is not present holds the notice until the driver has answered; a journal that cannot be read breaks
the channel, since not every entry can be resent. (log 31, DEDUCED) -/
def State.onShort (s : State) (p : Nat) (m : Msg) : State :=
  match m.body with
  | .short ch seq gen cur u =>
    match s.snd p ch with
    | none => s.bump p unitChan wNoch
    | some c =>
      if gen != c.gen || !seqAhead seq c.ack then s
      else
        let above := match c.kept.find? (fun r => r.seq == seq) with | some r => decide (r.cnt < cur) | none => false
        let lost := if c.brk then s else s.breakChan p ch c
        if !c.journaled || u || above then lost
        else match s.journalStop p c with
          | some (.fault k va) => s.depWait p m va k
          | some _ => lost
          | none =>
            let g := (c.gen + 1) % 4
            let kept := c.kept.map (fun r => { r with gen := g, sent := s.now })
            let s1 := (s.updSnd p ch (fun c => { c with gen := g, kept := kept })).bump p unitChan wRply
            let s2 := (List.range c.used).foldl (fun s n => s.replayEntry p ch g (c.jhead + n) c) s1
            kept.foldl (fun s r => s.sendRelease p ch c r) s2
  | _ => s

def execShort (s : State) : Out := chanMessage (fun p m s => s.onShort p m) s

/-- Deposits, flags and shortfall notices that waited for a page: performed again when it is resolved, dropped uncounted when it is
unresolvable (R224, R226). -/
def State.depositsResolved (s : State) (p asid page : Nat) (ok : Bool) : State :=
  let mine := (s.pkg p).chan.deps.filter (fun d => d.msg.asid == asid && d.page == page)
  let s1 := s.updPkg p (·.updChan (fun c => { c with deps := c.deps.filter (fun d => !(d.msg.asid == asid && d.page == page)) }))
  mine.foldl (fun s d =>
    match d.msg.body with
    | .deposit ch _ _ _ _ seq _ gen =>
      if ok then s.onDeposit p d.msg
      else s.updRcv p d.msg.src.pkg ch (fun r =>
        let k := seqDiff seq r.last
        if gen == r.gen && (k == 1 || k == 2) then { r with unr := true } else r)
    | .release ch _ _ _ _ _ =>
      if ok then s.tryApply p d.msg.src.pkg ch applyFuel else s.updRcv p d.msg.src.pkg ch (fun r => { r with unr := true })
    | .short ch _ _ _ _ =>
      if ok then s.onShort p d.msg
      else match s.snd p ch with
        | some c => if c.brk then s else s.breakChan p ch c
        | none => s
    | _ => s) s1

/-! ### Timers (R221, R225) -/

/-- The timers toward a peer stand still (R227). -/
def State.peerHalted (s : State) (p peer : Nat) : Bool := thas (s.pkg p).chan.halted peer

/-- SHORTFALL_NOTICE: due one lifetime bound after the head was held, then every two. -/
def State.shortfall (s : State) (p src ch : Nat) : State :=
  match s.rcv p src ch with
  | none => s
  | some r => match r.release? 1 with
    | none => s
    | some h =>
      let due := if r.shn then decide (r.lastShort + 2 * Config.lifetime ≤ s.now) else decide (r.heldAt + Config.lifetime ≤ s.now)
      let calm := match r.tadopt with | some t => decide (t + 2 * Config.lifetime ≤ s.now) | none => true
      if (r.cur != h.cnt || r.unr) && due && calm && !s.peerHalted p src then
        ((s.updRcv p src ch (fun r => { r with shn := true, lastShort := s.now })).bump p unitChan wShrt).send (.chan p) (.chan src)
          r.asid r.inc noKey 0 (.short ch h.seq r.gen r.cur r.unr)
      else s

def execShortfallNotice (p src ch : Nat) (s : State) : Out := .next (s.shortfall p src ch)

/-- RELEASE_RESEND: every release unacknowledged for two lifetime bounds is sent again unchanged. -/
def State.resendReleases (s : State) (p ch : Nat) : State :=
  match s.snd p ch with
  | none => s
  | some c =>
    if s.peerHalted p c.peer then s
    else
      let due := fun (r : Rls) => decide (r.sent + 2 * Config.lifetime ≤ s.now)
      let s1 := s.updSnd p ch (fun c => { c with kept := c.kept.map (fun r => if due r then { r with sent := s.now } else r) })
      (c.kept.filter due).foldl (fun s r => s.sendRelease p ch c r) s1

def execReleaseResend (p ch : Nat) (s : State) : Out := .next (s.resendReleases p ch)

/-! ### HALT and RESUME (R227) -/

/-- The timers toward a peer start again from zero. -/
def State.restartTimers (s : State) (p peer : Nat) : State :=
  s.updPkg p (·.updChan (fun c => { c with
    halted := tdel c.halted peer,
    snd := c.snd.map (fun e => if e.2.peer == peer then (e.1, { e.2 with kept := e.2.kept.map (fun r => { r with sent := s.now }) }) else e),
    rcv := c.rcv.map (fun e => if e.1 / 4096 == peer then (e.1, { e.2 with heldAt := s.now, lastShort := s.now }) else e) }))

def execHalt (s : State) : Out :=
  match s.cur with
  | .message m => .next (s.updPkg m.dst.pkg (·.updChan (fun c => { c with halted := tset c.halted m.src.pkg s.now })))
  | _ => .next s

def execResume (s : State) : Out :=
  match s.cur with
  | .message m => .next (s.restartTimers m.dst.pkg m.src.pkg)
  | _ => .next s

/-- HALT_REPEAT: every lifetime bound while the package stays halted. -/
def State.haltRepeat (s : State) (p : Nat) : State :=
  let k := s.pkg p
  if k.halted && decide (k.chan.lastHalt + Config.lifetime ≤ s.now) then
    (s.updPkg p (·.updChan (fun c => { c with lastHalt := s.now }))).broadcastHalt p .halt
  else s

def execHaltRepeat (p : Nat) (s : State) : Out := .next (s.haltRepeat p)

/-- HALT_ABSENCE: no HALT of a peer for two lifetime bounds. -/
def State.haltAbsence (s : State) (p peer : Nat) : State :=
  match tget (s.pkg p).chan.halted peer with
  | some t => if t + 2 * Config.lifetime ≤ s.now then s.restartTimers p peer else s
  | none => s

def execHaltAbsence (p peer : Nat) (s : State) : Out := .next (s.haltAbsence p peer)

end Sys2Proof.Machine
end

