-- ==== Sys2Proof/Machine/Kill.lean ====
section
/-! DEFINITION. Machine/Kill.lean: the kill sequence and its messages (spec/11 R231 to R238). -/

namespace Sys2Proof.Machine

/-! ### What a kill does at each agent (R233) -/

/-- The number after an incarnation (R231). -/
def nextInc (n : Nat) : Nat := if n < 255 then n + 1 else 1

/-- A kill of the ASID that preserves dirty data is in progress (R47). -/
def State.preserving (s : State) (asid : Nat) : Bool :=
  s.pkgs.any (fun k => match tget k.2.kills asid with | some x => x.preserve | none => false)

/-- Steps 1 and 2 in one package: groups and blocks are dropped, nodes end with status 0x06, queues stop (R233). -/
def State.killIn (s : State) (q asid : Nat) : State :=
  match tget (s.pkg q).ctxs asid with
  | none => s
  | some c =>
    let s1 := s.updPkg q (fun k =>
      let k1 := k.dropBlocks (k.blocksOfCtx asid)
      let mine := fun (nid : Nat) => match tget k.nodes nid with | some n => n.asid == asid | none => false
      { k1 with
        clusters := k1.clusters.filter (fun e => !mine e.2.node), slices := k1.slices.filter (fun e => !mine e.2.node),
        btes := k1.btes.map (fun e => (e.1, e.2.filter (fun o => o.asid != asid))), olog := k1.olog.filter (fun o => o.asid != asid) })
    let s2 := s1.updCtx q asid (fun c => { c with killed := true })
    let lost := (s2.pkg q).cpWrites.filter (fun w => w.asid == asid)
    let s3 := s2.updPkg q (fun k => { k with cpWrites := k.cpWrites.filter (fun w => w.asid != asid) })
    let s4 := lost.foldl (fun s w => (s.updPkg q (fun k => k.report (k.ownerFn asid) (errRec 6 asid 0 0 0 (vaOf w.ptr) 0 Name3.zero))).afterWrite q w.andThen) s3
    let nodes := ((s4.pkg q).nodes.filter (fun e => e.2.asid == asid && e.2.incomplete)).map (fun e => (e.1, 6))
    let s5 := State.endNodes q lehrFuel nodes s4
    let stop := fun (x : Queue) => { x.stop 6 with graph := none, skip := none, nest := [] }
    -- a queue that nothing has written names ASID 0
    let named := (List.range Config.queues).filter (fun n => ((s5.pkg q).queue n).asid == asid)
    (named.foldl (fun s n => s.updQueue q n stop) s5).updFn q c.fn
      (fun f => if f.dbgBusy && bits f.dbgctl 9 0 == asid then { f with dbgBusy := false, dbgRes := 1 } else f)

/-- An L2 slice returns the tokens of every sector of the ASID to their homes at the new incarnation; dirty data goes
with them under PRESERVE alone (R233 step 4). -/
def State.killSlice (s : State) (p n asid inc : Nat) (preserve : Bool) : State :=
  let d := n / 32
  let mine := fun (k : SectorKey) => k.asid == asid && keySlice k == n % 32
  let x := (s.pkg p).die d
  let s1 := s.updDie p d (fun x => { x with
    l2 := x.l2.filter (fun e => !mine e.1), reqs := x.reqs.filter (fun e => !mine e.1), leases := x.leases.filter (fun e => !mine e.1),
    pred := x.pred.filter (fun e => !(e.1 == n % 32 && e.2.1 == asid)) })
  (x.l2.filter (fun e => mine e.1)).foldl (fun s e =>
    let dirty := preserve && e.2.own && e.2.dirty
    s.send (.slice p n) (homeAgent e.1 e.2.pa) asid inc e.1 e.2.pa
      (.tok e.2.cnt e.2.own dirty e.2.ser (if dirty && e.2.dv then some e.2.data else none) (dirty && e.2.psn) e.2.wr)) s1

/-- The home's own requests of a killed context end: the tokens that it had collected for them are the home's (R171, R236). -/
def State.killHome (s : State) (p n asid : Nat) : State :=
  (((s.pkg p).ctrl n).psecs.filter (fun x => x.key.asid == asid && x.active.any (fun a => a.req == .home) && x.own != 0)).foldl (fun s x =>
    s.setHomeSec x.key x.pa { s.homeSec x.key x.pa with mts := if x.own = 64 then 1 else if x.ownOwner then 3 else 2, cnt := x.own }) s

/-- What an agent invalidates, stops or frees when it adopts the new incarnation (R233 steps 2, 4 and 5). -/
def State.killAgent (s : State) (a : Agent) (asid inc : Nat) (preserve : Bool) : State :=
  match a with
  | .core p n =>
    (s.updCore p n (fun c => { c with
      l1 := c.l1.filter (fun e => e.1.asid != asid), scalar := c.scalar.filter (fun e => e.1.asid != asid),
      cb := c.cb.filter (fun x => x.key.asid != asid) })).updPkg p
      (fun k => { k with pends := k.pends.filter (fun q => !(q.core == n && q.key.asid == asid)) })
  | .slice p n => s.killSlice p n asid inc preserve
  | .ctrl p n =>
    (s.killHome p n asid).updCtrl p n (fun t => { t with
      psecs := t.psecs.filter (fun x => x.key.asid != asid), waits := t.waits.filter (fun w => w.key.asid != asid),
      tlb := t.tlb.filter (fun e => e.asid != asid),
      absorb := t.absorb.map (fun a => if a.msg.key.asid == asid then { a with write := a.write && preserve } else a),
      recrs := t.recrs.map (fun r => if r.key.asid == asid then { r with inc := inc } else r) })
  | .chan p =>
    let free := fun (c : Chan) => { c with
      snd := c.snd.filter (fun e => e.2.asid != asid), rcv := c.rcv.filter (fun e => e.2.asid != asid),
      deps := c.deps.filter (fun d => d.msg.asid != asid) }
    (s.updPkg p (·.updChan free)).updCtx p asid (fun c => { c with sched := c.sched.filter (fun e => decide (e.1 < 2 ^ 40)) })
  | .bte p n => s.updPkg p (fun k => { k with btes := tset k.btes n ((k.bte n).filter (fun o => o.asid != asid)) })
  | .cp p => s.killIn p asid
  | .port _ _ | .none => s

/-! ### KILL_CONTEXT (R233, R234) -/

def State.updReclaim (s : State) (p asid : Nat) (f : Reclaim → Reclaim) : State :=
  s.updPkg p (fun k => { k with reclaim := tset k.reclaim asid (f (k.recl asid)) })

/-- The compute die of an agent. (log 34, DEDUCED) -/
def Agent.die (part : Part) : Agent → Nat
  | .core _ n => n / 64
  | .slice _ n => n / 32
  | .ctrl _ n => n / 8
  | .bte _ n => n / 8
  | .port _ n => n / Config.portsPerDie part
  | .chan _ | .cp _ | .none => 0

/-- Every agent that a kill asks: none on a die held in reset (R292). -/
def State.killAgents (s : State) (x : Kill) : List Agent :=
  (((List.range 16).filter (fun i => bit x.pkgs i && thas s.pkgs i)).map (fun i =>
    (agentsOf s.part i).filter (fun a => !(a.die s.part ∈ (s.pkg i).plat.deadDies)))).flatten

def State.sendIncadv (s : State) (p asid : Nat) (x : Kill) (who : List Agent) : State :=
  who.foldl (fun s a => s.send (.cp p) a asid x.inc noKey 0 (.incadv x.inc x.preserve)) s

def State.adopt (s : State) (a : Agent) (asid inc : Nat) : State :=
  s.updPkg a.pkg (fun k => { k with adopted := tset k.adopted (a, asid) inc })

/-- The report record of a KILL_CONTEXT, written through its queue's context (R49). -/
def State.killReport (s : State) (p q status : Nat) (tag : Word) (report : DWord) : State :=
  if report = 0 then s else s.cpWrite p ((s.pkg p).queue q).asid report (reportBytes status tag.toNat 0 0)

/-- A context that a kill still has to end: one killed and reclaimed already is resident no more (R234). -/
def Pkg.killable (k : Pkg) (asid : Nat) : Option Ctx := (tget k.ctxs asid).filter (fun c => !c.killed)

/-- A kill, as its packet's queue begins it. -/
def State.beginKill (s : State) (p q asid : Nat) (preserve : Bool) (tag : Word) (report : DWord) : State :=
  let r := (s.pkg p).recl asid
  if r.pending then s.killReport p q 8 tag report
  else match (s.pkg p).killable asid with
    | none => (s.updReclaim p asid (fun r => { r with cnt := r.cnt + 1, inc := nextInc r.inc })).killReport p q 0 tag report
    | some c =>
      let x : Kill := { inc := nextInc c.inc, preserve := preserve, report := report, tag := tag, rq := q, pkgs := c.pkgs,
                        acks := [], reports := [], lastAdv := s.now, quiet := s.now }
      let s1 := s.updPkg p (fun k => { k with kills := tset k.kills asid x })
      let s2 := s1.updReclaim p asid (fun r => { r with pending := true, inc := x.inc })
      let s3 := (s2.adopt (.cp p) asid x.inc).killIn p asid
      s3.sendIncadv p asid x (s3.killAgents x)

/-! ### Messages (R233, R236) -/

/-- An agent answers: the new number is adopted, and steps 4 and 5 are done there. -/
def State.incAnswer (s : State) (a : Agent) (m : Msg) (inc : Nat) : State :=
  (s.send a m.src m.asid inc noKey 0 (.incack inc a)).send a m.src m.asid inc noKey 0 (.flushReport inc a)

/-- INCADV at an agent. A CP that adopts it holds the ASID's reclaim pending in its own package (R235). -/
def State.onIncadv (s : State) (m : Msg) (inc : Nat) (preserve : Bool) : State :=
  let a := m.dst
  if s.agentInc a m.asid == some inc then s.incAnswer a m inc
  else
    let s1 := (s.adopt a m.asid inc).killAgent a m.asid inc preserve
    let s2 := match a with
      | .cp p => s1.updReclaim p m.asid (fun r => { r with pending := true, inc := inc })
      | _ => s1
    s2.incAnswer a m inc

def execIncadv (s : State) : Out :=
  match s.cur with
  | .message m => match m.body with
    | .incadv inc preserve => .next (s.onIncadv m inc preserve)
    | _ => .next s
  | _ => .next s

def State.killNote (s : State) (p asid inc : Nat) (f : Kill → Kill) : State :=
  s.updPkg p (fun k => { k with kills := tmod k.kills asid (fun x => if x.inc == inc then { f x with quiet := s.now } else x) })

def execIncack (s : State) : Out :=
  match s.cur with
  | .message m => match m.body with
    | .incack inc who => .next (s.killNote m.dst.pkg m.asid inc (fun x => { x with acks := addOnce x.acks who }))
    | _ => .next s
  | _ => .next s

def execFlushCompleteReport (s : State) : Out :=
  match s.cur with
  | .message m => match m.body with
    | .flushReport inc who => .next (s.killNote m.dst.pkg m.asid inc (fun x => { x with reports := addOnce x.reports who }))
    | _ => .next s
  | _ => .next s

/-! ### Timers and completion -/

/-- INCADV_REPEAT: every 16,384 command-processor cycles, to the agents that have not answered (R233). (log 34, DEDUCED) -/
def State.repeatIncadv (s : State) (p asid : Nat) : State :=
  match tget (s.pkg p).kills asid with
  | none => s
  | some x =>
    if x.lastAdv + 16384 * Config.tickCp ≤ s.now then
      let late := (s.killAgents x).filter (fun a => !(decide (a ∈ x.acks) && decide (a ∈ x.reports)))
      (s.updPkg p (fun k => { k with kills := tset k.kills asid { x with lastAdv := s.now } })).sendIncadv p asid x late
    else s

def execIncadvRepeat (p asid : Nat) (s : State) : Out := .next (s.repeatIncadv p asid)

/-- KILL_COMPLETE: one lifetime bound after the last answer, the reclaim counter advances and the record is written
(R233 steps 6 and 7). (log 34, DEDUCED) -/
def State.killDone (s : State) (p asid : Nat) : State :=
  match tget (s.pkg p).kills asid with
  | none => s
  | some x =>
    let all := s.killAgents x
    if all.all (fun a => decide (a ∈ x.acks) && decide (a ∈ x.reports)) && decide (x.quiet + Config.lifetime ≤ s.now) then
      let s1 := s.updPkg p (fun k => { k with kills := tdel k.kills asid })
      let s2 := ((List.range 16).filter (fun i => bit x.pkgs i && thas s.pkgs i)).foldl (fun s q =>
        s.updReclaim q asid (fun r => { r with cnt := r.cnt + 1, pending := false, inc := x.inc })) s1
      s2.killReport p x.rq 0 x.tag x.report
    else s

def execKillComplete (p asid : Nat) (s : State) : Out := .next (s.killDone p asid)

end Sys2Proof.Machine
end

