-- ==== Sys2Proof/Machine/Messages.lean ====
section
/-! DEFINITION. Machine/Messages.lean: coherence messages as they are delivered, the timers of requests, activations and
recalls, recreation, scrubbing (spec/08 R172 to R187, spec/11 R236, spec/12 R262 to R268), and uncached accesses and far
atomics at their homes (spec/07 R160, spec/09 R202, spec/10 R216, R217). -/

namespace Sys2Proof.Machine

/-- The message that is delivered, with its target. -/
def onMessage (f : Msg → State → State) (s : State) : Out :=
  match s.cur with
  | .message m => .next (f m s)
  | _ => .next s

/-- The die of a slice agent. -/
def sliceDie (n : Nat) : Nat := n / 32

/-- A stale request is dropped and counted; another is handled at its slice or its home (R236). -/
def requestAt (atSlice : Nat → Nat → Msg → State → State) (atHome : Msg → State → State) (m : Msg) (s : State) : State :=
  if s.stale m then s.cullet m.dst wCreq
  else match m.dst with
    | .slice p n => atSlice p (sliceDie n) m s
    | .ctrl p n => atHome m (s.checkTables p n)
    | _ => s

/-- A message at a controller meets the struck words of its tables (R262). -/
def State.atTables (s : State) (a : Agent) : State :=
  match a with
  | .ctrl p n => s.checkTables p n
  | _ => s

/-! ### Transient requests (R173, R176) -/

def State.onRequest (write : Bool) (m : Msg) (s : State) : State :=
  match m.body with
  | .gets req _ | .getx req _ =>
    requestAt (fun p d m s => (s.checkL2 p d m.key).l2Request p d m req write)
      (fun m s => s.homeRequest m req write) m s
  | _ => s

def execGets (s : State) : Out := onMessage (State.onRequest false · ·) s
def execGetx (s : State) : Out := onMessage (State.onRequest true · ·) s

/-! ### Tokens (R174, R179, R186, R236) -/

/-- A stale TOK goes on to its home as it is; the redirecting slice counts it. The sender named none marks it. (log 50, DEDUCED) -/
def State.redirectTok (s : State) (p : Nat) (m : Msg) : State :=
  (s.cullet m.dst wCrdir).route p { m with src := .none, dst := homeAgent m.key m.pa, hops := 0 }

/-- A TOK whose check code fails is dropped by whoever receives it, and is as a lost one (R216). -/
def State.onTok (m : Msg) (s : State) : State :=
  match m.body with
  | .tok cnt own dirty ser data psn wr =>
    if !m.checkOk then s.cullet m.dst wDrop
    else match m.dst with
    | .slice p n =>
      if s.stale m then s.redirectTok p m else s.tokL2 p (sliceDie n) m cnt own dirty ser data psn wr
    | .ctrl p n =>
      let s0 := s.checkTables p n
      if m.src == .none then s0.tokHome m cnt own dirty ser data psn (s.preserving m.asid && dirty)
      else if s.stale m then (s0.cullet m.dst wCrdir).tokHome m cnt own dirty ser data psn (s.preserving m.asid && dirty)
      else s0.tokHome m cnt own dirty ser data psn true
    | _ => s
  | _ => s

def execTok (s : State) : Out := onMessage State.onTok s

/-- ABSORB_BUFFER_DRAIN: the oldest waiting message is taken in, where the table has room or needs no entry (R171). -/
def State.drainAbsorb (s : State) (p c : Nat) : State :=
  match ((s.pkg p).ctrl c).absorb with
  | [] => s
  | a :: rest => match a.msg.body with
    | .tok cnt own dirty ser data psn _ =>
      (s.updCtrl p c (fun t => { t with absorb := rest })).tokHome a.msg cnt own dirty ser data psn a.write
    | _ => s.updCtrl p c (fun t => { t with absorb := rest })

def execAbsorbBufferDrain (p c : Nat) (s : State) : Out := .next (s.drainAbsorb p c)

/-- EVICTION (R169). -/
def execEviction (p d : Nat) (k : SectorKey) (s : State) : Out := .next ((s.checkL2 p d k).evict p d k)

/-! ### Timeouts of a requester (R176) -/

def State.dropPend (s : State) (p id : Nat) : State := s.updPkg p (fun k => { k with pends := k.pends.filter (fun x => x.acc.id != id) })

/-- An access that is to be made again, as a resolved entry of the operand log. -/
def State.logAgain (s : State) (l : Loc) (write : Bool) (a : Acc) : State :=
  let id := s.takeId l.p
  let e : OLog := { id := id.1, asid := l.asid, gid := l.g, core := l.core, kind := .notPresent, page := a.va / 65536, write := write,
                    accs := [{ a with replayed := true }], waiting := false }
  id.2.updPkg l.p (fun k => { k with olog := k.olog ++ [e] })

/-- The access of a log entry that a FENCE after it waits for keeps the later ones waiting as an acquire does (R342). -/
def Pend.logged (q : Pend) : Acc :=
  match q.fenced with
  | some sc => { q.acc with acq := true, scope := if q.acc.acq then max q.acc.scope sc else sc }
  | none => q.acc

/-- An access in flight names the frame that its address has now: one that was unmapped or moved since reaches no frame by its
old number (R159). One that finds no page enters the operand log (R161); one to a page that is no longer, or now, uncached is
made again. (log 103, DEDUCED) -/
def State.retarget (s : State) (p : Nat) (q : Pend) : State :=
  let r := s.translate p q.key.asid q.acc.va (q.write || (match q.acc.op with | .load .. | .fetch => false | _ => true))
  let put := fun (pa : Nat) => r.2.updPkg p (fun k => { k with pends := k.pends.map (fun x => if x.acc.id == q.acc.id then { x with pa := pa } else x) })
  match s.loc p q.acc.gid with
  | none => match r.1 with
    | .frame _ lin _ _ => put (lin / 64 * 64)
    | _ => s
  | some l =>
    let out := r.2.dropPend p q.acc.id
    match r.1 with
    | .frame h lin _ nc => if s.atHome p h nc == q.txn.isSome then put (lin / 64 * 64) else out.logAgain l q.write q.logged
    | .host _ a => if q.txn.isSome then put a else out.logAgain l q.write q.logged
    | .fault k => out.logFaults l q.write [(q.logged, pageFaultKind q.acc.priv k)]
    | .misplaced => out.defer p q.acc 0x0F
    | .poisoned => out.defer p q.acc 0x07

/-- The accesses that wait for a sector's tokens at a die. -/
def Pkg.waitingAt (k : Pkg) (d : Nat) (key : SectorKey) : List Pend := k.pends.filter (fun q => q.die == d && q.key == key && q.txn.isNone)

/-- A step of a request that has lasted its cycles. -/
def State.reqTimeout (s : State) (p d : Nat) (key : SectorKey) (step cycles next : Nat) (go : State → Req → State) : State :=
  match tget ((s.pkg p).die d).reqs key with
  | none => s
  | some r =>
    if r.step = step && decide (r.since + cycles ≤ (s.pkg p).arith) && r.act.isNone then
      let mine := (s.pkg p).waitingAt d key
      let s1 := mine.foldl (fun s q => s.retarget p q) s
      if !mine.isEmpty && ((s1.pkg p).waitingAt d key).isEmpty then s1.updDie p d (fun x => { x with reqs := tdel x.reqs key })
      else
        let pa := match (s1.translate p key.asid (keyVa key) false).1 with | .frame _ lin _ _ => lin / 64 * 64 | _ => r.pa
        let r' : Req := { r with step := next, since := (s.pkg p).arith, pa := pa }
        go (s1.updDie p d (fun x => { x with reqs := tset x.reqs key r' })) r'
    else s

def execGetsTimeout (p d : Nat) (k : SectorKey) (s : State) : Out :=
  .next (s.reqTimeout p d k 1 2048 2 (fun s r => s.broadcastReq p d k r))
def execBroadcastTimeout (p d : Nat) (k : SectorKey) (s : State) : Out :=
  .next (s.reqTimeout p d k 2 8192 3 (fun s r => s.sendPreq p d k r))
def execPreqRepeat (p d : Nat) (k : SectorKey) (s : State) : Out :=
  .next (s.reqTimeout p d k 3 32768 3 (fun s r => s.sendPreq p d k r))

/-! ### Persistent requests (R177, R178) -/

def State.onPreq (m : Msg) (s : State) : State :=
  match m.body with
  | .preq req write =>
    requestAt (fun _ _ _ s => s) (fun m s =>
      let f := s.sameFrame m.key m.pa
      if f.1 then f.2.queuePreq m.key m.pa { req := req, write := write, inc := m.inc, scope := m.scope } else f.2) m s
  | _ => s

def execPreq (s : State) : Out := onMessage State.onPreq s

/-- PACT at a die: an activation of its own is refreshed, or given back when nothing waits for it; another requester's
is kept as a lease. An older activation than the one in force is ignored. (log 50, DEDUCED) -/
def State.pactAt (req : Requester) (write : Bool) (act p d : Nat) (m : Msg) (s : State) : State :=
  let key := m.key
  let x := (s.pkg p).die d
  if (match tget x.leases key with | some l => decide (act < l.act) | none => false) then s
  else if req == selfReq p d key then
    let s1 := s.updDie p d (fun x => { x with leases := tdel x.leases key })
    match tget x.reqs key with
    | some r =>
      if write || !r.write then
        let s2 := s1.updDie p d (fun x => { x with reqs := tset x.reqs key { r with act := some act } })
        (s2.sendPreq p d key r).serve p d key
      else (s1.send (sliceAgent p d key) m.src m.asid m.inc key m.pa (.pdeact req act)).serve p d key
    | none => s1.send (sliceAgent p d key) m.src m.asid m.inc key m.pa (.pdeact req act)
  else
    let l : Lease := { act := act, req := req, write := write, since := (s.pkg p).arith, inc := m.inc }
    ((s.checkL2 p d key).updDie p d (fun x => { x with leases := tset x.leases key l })).leaseDirect p d key

/-- PACT (R177; log 50, DEDUCED). -/
def State.onPact (m : Msg) (s : State) : State :=
  match m.body with
  | .pact req write act => requestAt (fun p d m s => s.pactAt req write act p d m) (fun _ s => s) m s
  | _ => s

def execPact (s : State) : Out := onMessage State.onPact s

def State.onPdeact (m : Msg) (s : State) : State :=
  match m.body with
  | .pdeact req act =>
    requestAt (fun _ _ _ s => s) (fun m s =>
      match (s.homeCtrl m.key m.pa).psec m.key with
      | some x => if x.act = act && x.active.any (fun a => a.req == req) then s.endActive m.key m.pa else s
      | none => s) m s
  | _ => s

def execPdeact (s : State) : Out := onMessage State.onPdeact s

/-- The table entry of a sector at a controller of a package, for the timers of its home. -/
def State.homeEntry (s : State) (p c : Nat) (key : SectorKey) : Option PSec :=
  if key.home = p then ((s.pkg p).ctrl c).psec key else none

/-- PACT_REPEAT: every 2,048 own cycles. -/
def State.repeatPact (s : State) (p c : Nat) (key : SectorKey) : State :=
  match s.homeEntry p c key with
  | some x => match x.active with
    | some a => if x.lastPact + 2048 ≤ s.memClk then s.sendPact x a else s
    | none => s
  | none => s

def execPactRepeat (p c : Nat) (k : SectorKey) (s : State) : Out := .next (s.repeatPact p c k)

/-- LEASE_EXPIRY: 8,192 own cycles without a refresh. -/
def State.expireLease (s : State) (p d : Nat) (key : SectorKey) : State :=
  match tget ((s.pkg p).die d).leases key with
  | some l => if l.since + 8192 ≤ (s.pkg p).arith then (s.updDie p d (fun x => { x with leases := tdel x.leases key })).serve p d key else s
  | none => s

def execLeaseExpiry (p d : Nat) (k : SectorKey) (s : State) : Out := .next (s.expireLease p d k)

/-- ACTIVATION_TIMEOUT: 8,192 own cycles without a refresh request; the home's own requests need none (R179). -/
def State.expireActivation (s : State) (p c : Nat) (key : SectorKey) : State :=
  match s.homeEntry p c key with
  | some x => match x.active with
    | some a => if a.req != .home && decide (x.lastRefresh + 8192 ≤ s.memClk) then s.endActive key x.pa else s
    | none => s
  | none => s

def execActivationTimeout (p c : Nat) (k : SectorKey) (s : State) : Out := .next (s.expireActivation p c k)

/-! ### Recalls at a die (R180, R181, R266) -/

/-- Entries of a slice's recall table. -/
def Die.recallsOf (x : Die) (sl : Nat) : Nat := (x.recalls.filter (fun e => !e.2.wipe && keySlice e.1 == sl)).length

/-- The first recall drops the tokens and returns the owner's data; a repeated one is answered without data; a full table
delays the first. (log 50, DEDUCED) -/
def State.recallAt (ser : BitVec 4) (wipe : Bool) (p d : Nat) (m : Msg) (s : State) : State :=
  let key := m.key
  let x := (s.pkg p).die d
  let reply := fun (s : State) (data : Option SectorData) (psn : Bool) =>
    s.send (sliceAgent p d key) m.src m.asid m.inc key m.pa (.rrep p d ser wipe data psn) m.scope
  let first := fun (s : State) =>
    let e := s.l2 p d key
    let s1 := (s.dropL2 p d key).updDie p d (fun x => { x with recalls := tset x.recalls key { ser := ser, wipe := wipe, since := s.now } })
    match e with
    | some e => if e.own && e.dv then reply s1 (some e.data) e.psn else reply s1 none false
    | none => reply s1 none false
  match tget x.recalls key with
  | some r =>
    if r.wipe == wipe && r.ser == ser then reply s none false else first (s.checkL2 p d key)
  | none =>
    if !wipe && decide (Config.recallEntries ≤ x.recallsOf (keySlice key)) then s else first (s.checkL2 p d key)

def State.onRecall (m : Msg) (s : State) : State :=
  match m.body with
  | .recall ser wipe => requestAt (fun p d m s => s.recallAt ser wipe p d m) (fun _ s => s) m s
  | _ => s

def execRecall (s : State) : Out := onMessage State.onRecall s

/-- RECALL_TABLE_EXPIRY: an entry, or a wipe mark, lives for two lifetime bounds. -/
def State.expireRecall (s : State) (p d : Nat) (key : SectorKey) : State :=
  match tget ((s.pkg p).die d).recalls key with
  | some r =>
    if r.since + 2 * Config.lifetime ≤ s.now then (s.updDie p d (fun x => { x with recalls := tdel x.recalls key })).serve p d key else s
  | none => s

def execRecallTableExpiry (p d : Nat) (k : SectorKey) (s : State) : Out := .next (s.expireRecall p d k)

/-! ### Recreation at the home (R180, R182, R183, R266) -/

def State.updRecr (s : State) (key : SectorKey) (pa : Nat) (f : Recr → Recr) : State :=
  s.updHomeCtrl key pa (fun t => { t with recrs := t.recrs.map (fun r => if r.pa / 64 == pa / 64 then f r else r) })
def State.dropRecr (s : State) (key : SectorKey) (pa : Nat) : State :=
  s.updHomeCtrl key pa (fun t => { t with recrs := t.recrs.filter (fun r => r.pa / 64 != pa / 64) })

/-- RECALL to each die L2 that has not replied. -/
def State.sendRecalls (s : State) (r : Recr) : State :=
  ((s.recallDies r.key).filter (fun t => !(t ∈ r.replied))).foldl (fun s t =>
    s.send (homeAgent r.key r.pa) (sliceAgent t.1 t.2 r.key) r.key.asid r.inc r.key r.pa (.recall r.ser r.wipe))
    (s.updRecr r.key r.pa (fun r => { r with lastRecall := s.memClk }))

def State.allReplied (s : State) (r : Recr) : Bool := (s.recallDies r.key).all (fun t => decide (t ∈ r.replied))

/-- RECREATION_START: an activation, or a consolidation, has been in force for 524,288 own cycles, and one lifetime bound
has passed since the sector's previous recreation. Tokens that the home has collected for itself are the home's (R171). -/
def State.recreate (s : State) (p c : Nat) (key : SectorKey) : State :=
  match s.homeEntry p c key with
  | none => s
  | some x =>
    let last := tget ((s.pkg p).ctrl c).lastRecr (x.pa / 64)
    if x.active.isNone || decide (s.memClk < x.started + 524288) || (s.recr? key x.pa).isSome ||
        last.any (fun t => decide (s.now < t + Config.lifetime)) then s
    else
      let h := s.homeSec key x.pa
      let r : Recr := { key := key, pa := x.pa, wipe := false, ser := h.ser + 1, held := h.owner || x.ownOwner, stage := 1,
                        started := s.now, lastRecall := s.memClk, replied := [], newest := none, psn := false, inc := s.ctxInc p key.asid }
      let s1 := s.setHomeSec key x.pa { h with mts := 0, ser := h.ser + 1, cnt := 0 }
      let s2 := s1.updHomeCtrl key x.pa (fun t => { (t.setPsec { x with own := 0, ownOwner := false }) with recrs := t.recrs ++ [r] })
      s2.sendRecalls r

def execRecreationStart (p c : Nat) (k : SectorKey) (s : State) : Out := .next (s.recreate p c k)

/-- RREP: the owner's data is kept; when every die L2 has replied, the lifetime bound begins (R180). A wipe counts the
replies of one lifetime bound. A reply is a report of what was dropped, so none is stale (log 21, DEDUCED). (log 58, DEDUCED) -/
def State.onRrep (m : Msg) (s : State) : State :=
  match m.body with
  | .rrep p d ser wipe data psn =>
    match s.recr? m.key m.pa with
    | none => s
    | some r =>
      if r.wipe != wipe || r.ser != ser || r.stage != 1 || (wipe && decide (r.started + Config.lifetime < s.now)) then s
      else
        let r1 : Recr := { r with replied := addOnce r.replied (p, d), newest := if data.isSome then data else r.newest, psn := if data.isSome then psn else r.psn }
        let r2 : Recr := if !wipe && s.allReplied r1 then { r1 with stage := 2, started := s.now } else r1
        s.updRecr m.key m.pa (fun _ => r2)
  | _ => s

def execRrep (s : State) : Out := onMessage State.onRrep s

/-- The recreation of a sector at a controller. -/
def State.recrAt (s : State) (p c : Nat) (key : SectorKey) : Option Recr :=
  ((s.pkg p).ctrl c).recrs.find? (fun r => r.key == key && r.key.home == p)

/-- RECALL_REPEAT: every 16,384 own cycles. -/
def State.repeatRecall (s : State) (p c : Nat) (key : SectorKey) : State :=
  match s.recrAt p c key with
  | some r => if r.stage = 1 && decide (r.lastRecall + 16384 ≤ s.memClk) then s.sendRecalls r else s
  | none => s

def execRecallRepeat (p c : Nat) (k : SectorKey) (s : State) : Out := .next (s.repeatRecall p c k)

/-- The active request is served from the 64 new tokens; where none is active, the next queued one begins. -/
def State.serveHome (s : State) (key : SectorKey) (pa : Nat) : State :=
  match (s.homeCtrl key pa).psec key with
  | none => s
  | some x => match x.active with
    | some a => (s.homeAnswer x a).homeSatisfied key pa
    | none => s.activateNext key pa

/-- A sector whose owner token, or whose codeword, was lost is named to the driver (R182, R266). -/
def State.lossReport (s : State) (key : SectorKey) : State :=
  s.updPkg key.home (fun k => k.report (k.ownerFn key.asid) (errRec 4 key.asid 0 0 0 (keyVa key) 0 Name3.zero))

/-- RECREATION_COMPLETE: one lifetime bound after the last reply. -/
def State.recreated (s : State) (p c : Nat) (key : SectorKey) : State :=
  match s.recrAt p c key with
  | none => s
  | some r =>
    if r.wipe || r.stage != 2 || decide (s.now < r.started + Config.lifetime) then s
    else
      let h := s.homeSec key r.pa
      let s1 := match r.newest with
        | some d => (s.homeWrite p r.pa (s.homeTag key) d).setHomeSec key r.pa { h with mts := 1, psn := r.psn, cnt := 64 }
        | none =>
          if r.held then s.setHomeSec key r.pa { h with mts := 1, cnt := 64 }
          else ((s.setHomeSec key r.pa { h with mts := 1, psn := true, cnt := 64 }).bump p (unitCtrl c) wPois).lossReport key
      let s2 := ((s1.dropRecr key r.pa).updCtrl p c (fun t => { t with lastRecr := tset t.lastRecr (r.pa / 64) s.now })).bump p (unitCtrl c) wRecr
      (s2.trace p c 2 key .home h.ser 0).serveHome key r.pa

def execRecreationComplete (p c : Nat) (k : SectorKey) (s : State) : Out := .next (s.recreated p c k)

/-- Requests that a wipe held reach the home again (R266). -/
def State.freeReqs (s : State) (key : SectorKey) (pa : Nat) : State :=
  let of_ := fun (m : Msg) => m.pa / 64 == pa / 64
  let s1 := s.updHomeCtrl key pa (fun t => { t with wipeReqs := t.wipeReqs.filter (fun m => !of_ m) })
  { s1 with fabric := s1.fabric ++ ((s.homeCtrl key pa).wipeReqs.filter of_).map (fun m => { m with since := s.now }) }

/-- A fresh codeword over data, with serial 0 and all 64 tokens (R266 step 4). (log 58, DEDUCED) -/
def State.wiped (s : State) (r : Recr) : State :=
  let key := r.key
  let s1 := match r.newest with
    | some d => (s.homeWrite key.home r.pa (s.homeTag key) d).setHomeSec key r.pa { mts := 1, ser := 0, psn := false, cnt := 64 }
    | none =>
      let errs := (s.errsOf key.home r.pa).filter (fun (e : Nat × Byte) => decide (e.1 < 64))
      (((s.clearErrs key.home r.pa).bakeErrs key.home r.pa errs).setHomeSec key r.pa { mts := 1, ser := 0, psn := true, cnt := 64 }).lossReport key
  ((s1.dropRecr key r.pa).serveHome key r.pa).freeReqs key r.pa

/-- WIPE_RECREATION_TIMEOUT: after one lifetime bound without every reply it starts again; after three it completes. (log 58, DEDUCED) -/
def State.wipeTimeout (s : State) (p c : Nat) (key : SectorKey) : State :=
  match s.recrAt p c key with
  | none => s
  | some r =>
    if !r.wipe then s
    else if s.allReplied r then (if r.started + 3 * Config.lifetime ≤ s.now then s.wiped r else s)
    else if r.started + Config.lifetime < s.now then
      let r1 : Recr := { r with started := s.now, replied := [] }
      (s.updRecr key r.pa (fun _ => r1)).sendRecalls r1
    else s

def execWipeRecreationTimeout (p c : Nat) (k : SectorKey) (s : State) : Out := .next (s.wipeTimeout p c k)

/-! ### Scrubbing (R267, R268) -/

/-- Memory-controller cycles in an hour. -/
def hourClk : Nat := 3600 * 750000000

/-- The sectors with wrong symbols, and the pages with struck check bits, of a controller. -/
def State.scrubSecs (s : State) (p c : Nat) : List Nat :=
  ((s.dramErrs.filter (fun e => e.pkg == p && ctrlOf (64 * e.sec) == c)).map (·.sec)).foldl addOnce []

/-- The name under which a sector of a package is wiped: the one its tokens are out under; one that they are all at home of has
none (R169). -/
def State.wipeName (s : State) (p pa : Nat) : SectorKey :=
  let h := (s.pkg p).homeSec pa
  if h.mts = 1 || h.name.asid = 0 then { home := p, asid := 0, sec := pa / 64 } else h.name

/-- A scrub read of a codeword raises no trap (R267). -/
def State.scrubSec (s : State) (p sec : Nat) : State :=
  let r := s.readCodeword p (64 * sec)
  if r.1 then r.2.startWipe (r.2.wipeName p (64 * sec)) (64 * sec) else r.2

/-- SCRUB_PASS: every codeword has been read once; the rows' counts of corrected errors begin again. (log 52, DEDUCED) -/
def State.scrub (s : State) (p c : Nat) : State :=
  let k := s.pkg p
  if !k.plat.scrubAct || decide (Config.controllers s.part ≤ c) || decide (s.memClk < (k.ctrl c).scrubAt + k.plat.scrub * hourClk) then s
  else
    let s1 := (s.scrubSecs p c).foldl (fun s sec => s.scrubSec p sec) s
    let pages := s1.strikes.filterMap (fun x => match x.word with | .checkCache c' g => if x.pkg == p && c' == c then some g else none | _ => none)
    let s2 := pages.foldl (fun s g => (s.checkBits p (pageBase g)).2) s1
    let s3 := (s2.updPkg p (fun k => { k with rowErrs := k.rowErrs.filter (fun e => e.1.2 != c) })).updCtrl p c (fun t => { t with scrubAt := s.memClk })
    if c = 0 then s3.updPkg p (·.updPlat (fun x => { x with passes := (x.passes + 1) % 65536 })) else s3

def execScrubPass (p c : Nat) (s : State) : Out := .next (s.scrub p c)

/-! ### Uncached accesses and far atomics at the home (R160, R202, R216, R217) -/

/-- The transaction that a request names. -/
def Body.txn : Body → Option (Nat × Nat)
  | .farAtomic core txn _ _ _ _ _ => some (core, txn)
  | .uncachedRead core txn _ _ => some (core, txn)
  | .uncachedWrite core txn _ _ => some (core, txn)
  | _ => none

def Msg.ctrlNo (m : Msg) : Nat := match m.dst with | .ctrl _ n => n | _ => ctrlOf m.pa

/-- The requester of an access of a core, for the trace (R285). -/
def Msg.coreReq (m : Msg) (core : Nat) : Requester := .die m.src.pkg (dieOfCore core) (keySlice m.key)

/-- The waiting operation of a message's transaction. -/
def Ctrl.waitOf (t : Ctrl) (m : Msg) (core txn : Nat) : Option HomeWait :=
  t.waits.find? (fun w => w.reply.any (fun x => x.src.pkg == m.src.pkg && x.body.txn == some (core, txn)))

/-- An operation that the home performs with all the sector's tokens: a wipe holds it, its codeword is read first (R265, R266). -/
def State.homeStart (s : State) (m : Msg) (core : Nat) (op : HomeOp) : State :=
  if s.wiping m.key m.pa then s.holdReq m
  else
    let rd := s.homeReadable (s.tokenName m.key m.pa) m.pa (m.coreReq core) m.scope
    if rd.1 then rd.2.homeOp m.key m.pa op (some m) m.inc m.scope else rd.2.holdReq m

/-- An uncached write or far atomic: a known transaction gets its kept result, one that is being performed waits on, with its
persistent request queued if the table had dropped it, a full reply cache refuses it; otherwise it is performed (R216, R217). -/
def State.homeAccess (s : State) (m : Msg) (core txn : Nat) (op : HomeOp) (reply : Bool) : State :=
  let c := m.ctrlNo
  let t := (s.pkg m.dst.pkg).ctrl c
  if !m.checkOk then s.cullet m.dst wDrop
  else match t.replies.find? (fun e => e.pkg == m.src.pkg && e.core == core && e.txn == txn) with
    | some e => s.send m.dst m.src m.asid m.inc m.key m.pa (.uncachedReply txn e.result e.st)
    | none => match t.waitOf m core txn with
      | some w => s.ownPreq w.key w.pa w.inc m.scope
      | none =>
        if Config.replyEntries ≤ t.replies.length + t.waits.length then s
        else match physOf s.part m.pa with
          | .host a =>
            if s.hostAtomicOk m.dst.pkg op then
              let r := s.hostPerform a op
              r.2.homeReply c m core txn (if reply then r.1 else []) 0
            else s.homeReply c m core txn [] 2
          | .hole => s
          | .frame _ =>
            let f := s.sameFrame m.key m.pa
            if f.1 then f.2.homeStart m core op else f.2

def State.onUncachedWrite (m : Msg) (s : State) : State :=
  match m.body with
  | .uncachedWrite core txn va bs =>
    if s.stale m then s.cullet m.dst wCwr else (s.atTables m.dst).homeAccess m core txn (.write va bs) false
  | _ => s

def execUncachedWrite (s : State) : Out := onMessage State.onUncachedWrite s

/-- A far atomic at its home (R185, R217; log 73, DEDUCED). -/
def State.onFarAtomic (m : Msg) (s : State) : State :=
  match m.body with
  | .farAtomic core txn va op w64 ops reply =>
    if s.stale m then s.cullet m.dst wCwr
    else
      ((s.atTables m.dst).trace m.dst.pkg m.ctrlNo 4 m.key (m.coreReq core) (s.homeSec m.key m.pa).ser m.scope).homeAccess
        m core txn (.atom va op w64 ops) reply
  | _ => s

def execFarAtomic (s : State) : Out := onMessage State.onFarAtomic s

/-- An uncached read of an NC page returns memory's copy, without tokens (R160). Of a page of another package that is cacheable
there, a TZ-9620 reads through its home, which gathers the tokens first, as for a far atomic (R2, R185). (log 73, DEDUCED) -/
def State.onUncachedRead (m : Msg) (s : State) : State :=
  match m.body with
  | .uncachedRead core txn va n =>
    if s.stale m then s.cullet m.dst wCreq
    else
      let s := s.atTables m.dst
      let answer := fun (s : State) (bs : List Byte) (psn : Bool) => s.send m.dst m.src m.asid m.inc m.key m.pa (.uncachedReply txn bs (Config.b2n psn))
      match physOf s.part m.pa with
      | .host a => answer s (readBytes s.mem (hostCell a) n) false
      | .hole => s
      | .frame _ =>
        let r := s.translate m.key.home m.asid (keyVa m.key) false
        match r.1 with
        | .frame _ lin _ nc =>
          if lin / 64 != m.pa / 64 then r.2
          else if !nc then
            (match ((r.2.pkg m.dst.pkg).ctrl m.ctrlNo).waitOf m core txn with
             | some w => r.2.ownPreq w.key w.pa w.inc m.scope
             | none => r.2.homeStart m core (.read va n))
          else if r.2.wiping m.key m.pa then r.2.holdReq m
          else
            let rd := r.2.homeReadable (r.2.tokenName m.key m.pa) m.pa (m.coreReq core) m.scope
            if rd.1 then
              let d := rd.2.homeCopy m.key m.pa
              answer rd.2 (leBytes n (secGet d.1 (va % 64) n)) d.2
            else rd.2.holdReq m
        | _ => r.2
  | _ => s

def execUncachedRead (s : State) : Out := onMessage State.onUncachedRead s

/-- The reply completes the access that waits for it; the lanes' old values are formed from the one reply (R218).
An AtomicOp that the root port does not support is reported as a fault of kind malformed (R204). -/
def State.uncachedDone (s : State) (p : Nat) (q : Pend) (result : List Byte) (st : Nat) : State :=
  let s1 := s.dropPend p q.acc.id
  let fused := match s.loc p q.acc.gid with | some l => l.node.desc.fused | none => false
  if st = 2 then
    (match s.loc p q.acc.gid with
     | some l => s1.logFaults l true [(q.logged, .malformed)]
     | none => s1.agentFault p q.key.asid .malformed true q.acc.va)
  else
    let s2 := match q.acc.op with
      | .load _ _ _ _ =>
        let host := match physOf s.part q.pa with | .host _ => true | _ => false
        s1.finishLoad p q (secPut 0 (q.acc.va % 64) q.acc.bytes (leNat result)) (st == 1) (if host then 5 else 4)
          (if host then [1, 2, 5, 6] else hopsTo p q.die q.key.home (ctrlOf q.pa / 8) 5)
      | .atom op w64 ops (some reg) =>
        if st = 1 then s1.defer p q.acc 0x07
        else
          let s2 := s1.l1Drop p q.core fused q.key
          let s3 := if q.acc.acq then s2.acquireL1 p q.core q.key.asid fused q.acc.scope else s2
          s3.updGroup p q.acc.gid (fun g => g.atomResult q.acc.id reg w64 (rmw op (if w64 then 64 else 32) (leNat result) ops).2)
      | _ => s1.l1Drop p q.core fused q.key
    s2.fenceEnds p q

def State.onUncachedReply (m : Msg) (s : State) : State :=
  match m.dst, m.body with
  | .core p n, .uncachedReply txn result st =>
    if s.stale m then s.cullet m.dst wCdata
    else match (s.pkg p).pends.find? (fun q => q.core == n && q.txn == some txn) with
      | none => s.cullet m.dst wCorph
      | some q => s.uncachedDone p q result st
  | _, _ => s

def execUncachedReply (s : State) : Out := onMessage State.onUncachedReply s

/-- The request of a waiting access. -/
def Pend.body (q : Pend) (txn : Nat) : Body :=
  match q.acc.op with
  | .load _ _ _ _ | .fetch => .uncachedRead q.core txn q.acc.va q.acc.bytes
  | .store v => .uncachedWrite q.core txn q.acc.va (leBytes q.acc.bytes v.toNat)
  | .atom op w64 ops dst => .farAtomic q.core txn q.acc.va op w64 (farOps op w64 ops) dst.isSome
  | .flush _ x _ => .uncachedWrite q.core txn q.acc.va (sectorBytes x)

/-- UNCACHED_RESEND: after 16,384 own cycles without a reply; after sixteen resends, cause 0x07 at the instruction. (log 74, DEDUCED) -/
def State.resendUncached (s : State) (p core txn : Nat) : State :=
  match (s.pkg p).pends.find? (fun q => q.core == core && q.txn == some txn) with
  | none => s
  | some q =>
    if (s.pkg p).arith < q.sent + 16384 then s
    else if 17 ≤ q.sends then ((s.dropPend p q.acc.id).defer p q.acc 0x07).fenceEnds p q
    else
      let s1 := s.retarget p q
      match (s1.pkg p).pends.find? (fun x => x.acc.id == q.acc.id) with
      | none => s1
      | some q =>
        let ctrl := match s.homeOf p q.key.asid q.acc.va with | some h => h.ctrl q.acc.va | none => ctrlOf q.pa
        let mark := fun (x : Pend) => if x.acc.id == q.acc.id then { x with sent := (s.pkg p).arith, sends := x.sends + 1 } else x
        (s1.updPkg p (fun k => { k with pends := k.pends.map mark })).send (.core p core) (.ctrl q.key.home ctrl) q.key.asid
          (s.ctxInc p q.key.asid) q.key q.pa (q.body txn) q.acc.scope

def execUncachedResend (p core txn : Nat) (s : State) : Out := .next (s.resendUncached p core txn)

/-- REPLY_CACHE_EXPIRY: an entry is kept for two lifetime bounds. -/
def State.expireReply (s : State) (p c idx : Nat) : State :=
  match ((s.pkg p).ctrl c).replies[idx]? with
  | some e => if e.since + 2 * Config.lifetime ≤ s.now then s.updCtrl p c (fun t => { t with replies := t.replies.eraseIdx idx }) else s
  | none => s

def execReplyCacheExpiry (p c idx : Nat) (s : State) : Out := .next (s.expireReply p c idx)

end Sys2Proof.Machine
end

