-- ==== Sys2Proof/Machine/Issue.lean ====
section
/-! DEFINITION. Machine/Issue.lean: from the agenda to one row of the table: which group issues and what it fetches
(spec/02 R31, R40; spec/07 R145, R166; spec/11 R241), which packet a queue reads, which message is delivered. -/

namespace Sys2Proof.Machine

/-- What a turn comes to before any row runs: a state (nothing runs), a row to run, or a turn that names no agent. -/
inductive Prepared where
  | state (s : State)
  | row (i : Instr) (s : State)
  | noAgent

/-! ### Issue -/

/-- A group that may issue: its block is resident, it is not halted or is being stepped, its context runs. -/
def Loc.canIssue (l : Loc) : Bool :=
  (l.blk.state == .resident || l.blk.state == .draining) && l.grp.alive && (!l.grp.halted || l.grp.step.isSome) &&
    !l.ctx.error && !l.ctx.killed

/-- The group's next issue: a debugger's step (R279), else the selection after the clocks that its waits have counted (R31, R33). -/
def State.pick (s : State) (l : Loc) : Group × Addr × Mask :=
  match l.grp.step with
  | some (.thread n) => (l.grp, (l.grp.lane n).pc, laneBit n)
  | some .group => l.grp.select
  | none => (l.grp.credit (s.pkg l.p).arith).select

/-- Nothing known holds the group's next issue: no wait stands at its address (R40). (log 6, DEDUCED) -/
def State.unheld (s : State) (l : Loc) : Bool := let x := s.pick l; (x.1.hold? x.2.1).isNone
/-- A ready group of the quadrant has been ready longer, or as long in a lower slot (R40). (log 6, DEDUCED) -/
def State.elder (s : State) (l : Loc) : Bool :=
  (s.pkg l.p).groups.any (fun e => e.1 != l.g && quadOf e.2.core e.2.slot == quadOf l.grp.core l.grp.slot &&
    (decide (e.2.readySince < l.grp.readySince) || (e.2.readySince == l.grp.readySince && decide (e.2.slot < l.grp.slot))) &&
    (match s.loc l.p e.1 with | some x => x.canIssue && s.unheld x | none => false))
/-- The quadrant may issue this group now: it is in service and no ready group goes first (R21, R40). -/
def State.mayIssue (s : State) (l : Loc) : Bool :=
  l.canIssue && !((l.grp.slot / 8) ∈ ((s.pkg l.p).core l.grp.core).retiredQuads) && !s.elder l

/-- Does a breakpoint filter admit a lane (R274, R275)? -/
def bpMatches (c : Ctx) (n : Nat) (l : Loc) (lane : Nat) : Bool :=
  let w := fun (j : Nat) => tgetD c.bp (8 * n + j) 0
  let nm := nameOf l.p l.blk.lid l.blk.idx l.grp.gidx lane
  match bits (w 0) 2 1 with
  | 0 => true
  | 1 => w 3 == nm.n0
  | 2 => w 3 == nm.n0 && w 4 == nm.n1
  | _ => w 3 == nm.n0 && w 4 == nm.n1 && w 5 == nm.n2

/-- Breakpoint register n matches the issue address in these lanes (R275). -/
def bpLanes (l : Loc) (addr : Addr) (sel : Mask) (n : Nat) : Mask :=
  let w := fun (j : Nat) => tgetD l.ctx.bp (8 * n + j) 0
  let pc := (w 2 ++ w 1).extractLsb' 0 56
  if bit (w 0) 0 && pc == addr then sel &&& Mask.ofPred (bpMatches l.ctx n l) else 0

/-- The lowest-numbered breakpoint that fires, with its lanes; an instruction that has issued and waits at its address is no new
issue (R33, R275). -/
def breakpoint (l : Loc) (addr : Addr) (sel : Mask) : Option Mask :=
  if l.grp.skipBp || (match l.grp.hold? addr with | some h => h.counted.isSome | none => false) then none
  else (firstFrom (fun n => bpLanes l addr sel n != 0) 0 8).map (bpLanes l addr sel)

/-- The region identifier of fetches: the entry pointer's, or the handler's (R145, R243). -/
def Loc.fetchRid (l : Loc) : Nat :=
  if l.grp.handler.isSome then ridOf l.ctx.trapPc else ridOf l.node.desc.entry

inductive Fetched where
  | word (w : Word)
  | bad (cause : BitVec 8)
  | fault
  /-- The die L2 has asked for a token of the sector (R176). -/
  | wait
deriving DecidableEq, Repr

/-- One word of code (R145, R166, R96): a read of the die L2, which asks for a token where it has none (R176). (log 90, DEDUCED) -/
def State.fetchWord (s : State) (l : Loc) (a : Addr) : Fetched × State :=
  match boundOf l.ctx l.node l.fetchRid with
  | some (.global, b) =>
    if b.ex && decide (b.base ≤ a.toNat) && decide (a.toNat + 3 ≤ b.limit) then
      let key := s.keyOf l.p l.asid a.toNat
      let s1 := s.checkL2 l.p l.die key
      match s1.l2 l.p l.die key with
      | some e =>
        if s1.l2Ready l.p l.die key false then
          (if e.psn then .bad 0x07 else .word (BitVec.ofNat 32 (secGet e.data (a.toNat % 64) 4)), s1)
        else miss s1 key
      | none => miss s1 key
    else (.bad 0x05, s)
  | _ => (.bad 0x05, s)
where
  miss (s : State) (key : SectorKey) : Fetched × State :=
    let r := s.translate l.p l.asid a.toNat false
    let atHome := match (r.2.vaRead l.p l.asid 2 a.toNat 4) with
      | (.ok bs, t) => (.word (wordOf bs), t)
      | (_, t) => (Fetched.bad 0x07, t)
    match r.1 with
    | .fault _ => (.fault, r.2)
    | .misplaced => (.bad 0x0F, r.2)
    | .poisoned => (.bad 0x07, r.2)
    | .host _ _ => atHome
    | .frame h lin wr nc =>
      if s.atHome l.p h nc then atHome else (.wait, r.2.startReq l.p l.die key (lin / 64 * 64) wr false 0)

/-- A deferred trap at a group's issue (R133, R239): nothing else takes effect. (log 68, DEDUCED) -/
def State.takeDeferred (s : State) (l : Loc) (addr : Addr) (sel : Mask) (d : Deferred) : State :=
  let m := if d.whole then sel else sel &&& d.lanes
  let i := fun (l : Loc) => ({ loc := l, addr := addr, sel := m, ex := m, words := (0, none) } : Iss)
  if l.delivers d.cause && (s.pkg l.p).rewriting l.asid then s.hold (i l) .trapWords []
  else
    let rest := if d.whole || d.lanes &&& ~~~ m = 0 then l.grp.deferred.erase d
      else l.grp.deferred.map (fun x => if x = d then { x with lanes := x.lanes &&& ~~~ m } else x)
    let l1 : Loc := { l with grp := { l.grp with deferred := rest } }
    (s.updGroup l.p l.g (fun x => { x with deferred := rest })).trapAt (i l1) d.cause d.tpc d.taddr
      (if d.whole then d.lane else Mask.lowest m) 0

/-- The words of an issue: the row that they decode to, the row of a failed fetch, or a fetch that waits for its sector. -/
def State.fetch (s : State) (l : Loc) (addr : Addr) (sel : Mask) : Prepared :=
  let cur := fun (s : State) (ws : Word × Option Word) => ({ s with cur := .issue l.p l.g addr sel ws } : State)
  let held := fun (s : State) => Prepared.state (s.hold { loc := l, addr := addr, sel := sel, ex := sel, words := (0, none) } .fetch [])
  let r := s.fetchWord l addr
  match r.1 with
  | .wait => held r.2
  | .bad _ | .fault => .row .fetchFault (cur r.2 (0, none))
  | .word w0 =>
    if twoWords w0 then
      let q := r.2.fetchWord l (addr + 4)
      match q.1 with
      | .wait => held q.2
      | .bad _ | .fault => .row .fetchFault (cur q.2 (w0, none))
      | .word w1 => .row (decode w0 w1) (cur q.2 (w0, some w1))
    else .row (decode w0 0) (cur r.2 (w0, none))

/-- One issue of a group (R241): a breakpoint, a deferred trap, the fetch, then the row. (log 68, DEDUCED) -/
def State.prepareIssue (s : State) (p g : Nat) : Prepared :=
  match s.loc p g with
  | none => .noAgent
  | some l0 =>
    if !s.mayIssue l0 then .state s
    else
      let x := s.pick l0
      let s1 := s.updGroup p g (fun _ => x.1)
      let l : Loc := { l0 with grp := x.1 }
      if x.2.2 = 0 then .state s1
      else match breakpoint l x.2.1 x.2.2 with
        | some m => .state (s1.trapAt { loc := l, addr := x.2.1, sel := m, ex := m, words := (0, none) } 0x11 x.2.1 0 (Mask.lowest m) 0)
        | none => match l.grp.deferred.find? (fun d => d.lanes &&& x.2.2 != 0) with
          | some d => .state (s1.takeDeferred l x.2.1 x.2.2 d)
          | none => s1.fetch l x.2.1 x.2.2

/-! ### Packets and messages -/

def State.preparePacket (s : State) (p q : Nat) : Prepared :=
  if !(thas s.pkgs p && decide (q < Config.queues)) then .noAgent
  else if !s.queueReads p q then .state s
  else match s.ringPacket p q with
    | .none => .state s
    | .stop e => .state (s.stopQueue p q e)
    | .run i n => .row i { s with cur := .packet p q n }

/-- The row of a message. -/
def Body.row : Body → Instr
  | .gets .. => .gets
  | .getx .. => .getx
  | .tok .. => .tok
  | .preq .. => .preq
  | .pact .. => .pact
  | .pdeact .. => .pdeact
  | .recall .. => .recall
  | .rrep .. => .rrep
  | .farAtomic .. => .farAtomic
  | .uncachedRead .. => .uncachedRead
  | .uncachedWrite .. => .uncachedWrite
  | .uncachedReply .. => .uncachedReply
  | .deposit .. => .deposit
  | .release .. => .release
  | .rack .. => .rack
  | .short .. => .short
  | .halt => .halt
  | .resume => .resume
  | .incadv .. => .incadv
  | .incack .. => .incack
  | .flushReport .. => .flushCompleteReport

def State.prepareDeliver (s : State) (m : Nat) : Prepared :=
  match s.fabric[m]? with
  | none => .noAgent
  | some x => .row x.body.row { s with fabric := s.fabric.eraseIdx m, cur := .message x }

/-! ### What the world does to the hardware (R258, R262, R263, R216, R295) -/

def State.env (s : State) (e : Env) : State :=
  match e with
  | .strike x => { s with strikes := s.strikes ++ [x] }
  | .laneFault x => { s with laneFaults := s.laneFaults ++ [x] }
  | .dramErr x => { s with dramErrs := s.dramErrs ++ [x] }
  | .corrupt m => { s with fabric := s.fabric.modify m (fun x => { x with check := ~~~ x.check }) }
  | .corruptStore p c key => s.updCore p c (fun x => { x with cb := x.cb.map (fun e => if e.key == key then { e with check := ~~~ e.check } else e) })
  | .rootPort p a => s.updPkg p (·.updPlat (fun x => { x with rootAtomics := a }))
  | .telemetry p pw t => s.updPkg p (·.updPlat (fun x => { x with telpwr := pw.setWidth 32, teltmp := t }))

/-! ### Turns -/

/-- Of the groups that their quadrants may issue, the one that has been ready longest (R40). (log 3, DESIGN CHOICE) (log 6, DEDUCED) -/
def State.oldestReady (s : State) : Option (Nat × Nat) :=
  let cands := (s.pkgs.map (fun k => k.2.groups.filterMap (fun e => match s.loc k.1 e.1 with
    | some l => if s.mayIssue l then some (k.1, e.1, e.2.readySince, e.2.slot) else none
    | none => none))).flatten
  (cands.foldl (fun (b : Option (Nat × Nat × Nat × Nat)) c => match b with
    | none => some c
    | some x => if c.2.2.1 < x.2.2.1 || (c.2.2.1 == x.2.2.1 && decide (c.2.2.2 < x.2.2.2)) then some c else b) none).map
    (fun c => (c.1, c.2.1))

/-- The turn taken when the agenda is empty: a message, else in turn the longest ready group and a nanosecond, else a microsecond
passes; so every group and the clocks go on (R42). (log 3, DESIGN CHOICE) (log 9, DESIGN CHOICE) -/
def State.idleTurn (s : State) : Turn :=
  if s.fabric.isEmpty then
    match s.oldestReady with
    | some (p, g) => if s.turns % 2 = 0 then .issue p g else .elapse 21
    | none => .elapse 21000
  else .deliver 0

/-- The turn that comes next, from the agenda or, where it is empty, by default (log 3, DESIGN CHOICE; log 4, DESIGN CHOICE). -/
def State.turn (s : State) : Turn × State :=
  match s.agenda with
  | t :: rest => (t, { s with agenda := rest, cur := .none, turns := s.turns + 1 })
  | [] => (s.idleTurn, { s with cur := .none, turns := s.turns + 1 })

/-- The next row to run, or the state that a turn without a row leaves. (log 3, DESIGN CHOICE) -/
def State.prepare (s : State) : Prepared :=
  let t := s.turn
  match t.1 with
  | .issue p g => t.2.prepareIssue p g
  | .packet p q => t.2.preparePacket p q
  | .deliver m => t.2.prepareDeliver m
  | .event i => .row i t.2
  | .elapse n => .state (t.2.elapse n)
  | .env e => .state (t.2.env e)

end Sys2Proof.Machine
end

