-- ==== Sys2Proof/Machine/Placement.lean ====
section
/-! DEFINITION. Machine/Placement.lean: where blocks fit (spec/02 R24 to R29, spec/03 R61, spec/11 R249). -/

namespace Sys2Proof.Machine

/-! ### What a block takes and a core has (R27) -/

def Desc.size (d : Desc) : Nat := max 1 d.cluster
def Node.blocks (n : Node) : Nat := n.nx * n.ny * n.nz
def Node.clusters (n : Node) : Nat := n.blocks / n.desc.size
def ceil4k (n : Nat) : Nat := (n + 4095) / 4096 * 4096
def Desc.scratchTaken (d : Desc) : Nat := ceil4k d.scratch

def Pkg.descOf (k : Pkg) (b : Nat) : Option Desc :=
  match tget k.blocks b with
  | some x => (tget k.nodes x.node).map (·.desc)
  | none => none

/-- Group slots of a core in service (R20, R21). -/
def Pkg.slotsInService (k : Pkg) (core : Nat) : Nat := 32 - 8 * (k.core core).retiredQuads.length

/-- CoreRoom on a core: free group slots, scratchpad bytes, and places for resident blocks. -/
structure CoreRoom where
  slots : Nat
  scratch : Nat
  blocks : Nat

def CoreRoom.less (r : CoreRoom) (d : Desc) : CoreRoom :=
  { slots := r.slots - d.groups, scratch := r.scratch - d.scratchTaken, blocks := r.blocks - 1 }
def CoreRoom.holds (r : CoreRoom) (d : Desc) : Bool :=
  decide (d.groups ≤ r.slots) && decide (d.scratchTaken ≤ r.scratch) && decide (1 ≤ r.blocks)

/-- The room that an empty core in service has. -/
def Pkg.fullRoom (k : Pkg) (core : Nat) : CoreRoom :=
  { slots := k.slotsInService core, scratch := Config.scratchBytes, blocks := Config.blocksPerCore }

/-- Resident blocks of a core; one that has ended keeps its slots while accesses of its groups are on their way. -/
def Pkg.residents (k : Pkg) (core : Nat) : List Nat :=
  (k.blocks.filter (fun e => e.2.core == core && residentState e.2.state)).map (·.1)

/-- The room that a core has now. (log 45, DEDUCED) -/
def Pkg.room (k : Pkg) (core : Nat) : CoreRoom :=
  let rs := k.residents core
  { slots := (k.freeSlots core).length,
    scratch := Config.scratchBytes - (rs.filterMap (fun b => (k.descOf b).map Desc.scratchTaken)).sum,
    blocks := Config.blocksPerCore - rs.length }

/-- Blocks of a kind that an empty core holds. -/
def Pkg.coreCap (k : Pkg) (core : Nat) (d : Desc) : Nat :=
  let r := k.fullRoom core
  min r.blocks (min (r.slots / max 1 d.groups) (if d.scratchTaken = 0 then r.blocks else r.scratch / d.scratchTaken))

/-! ### Dies, octets, shares (R61) -/

def Pkg.diesInService (part : Part) (k : Pkg) : List Nat :=
  (List.range (Config.computeDies part)).filter (fun d => (k.coresInService part).any (fun c => c / 64 == d))
def Pkg.octetCores (part : Part) (k : Pkg) (o : Nat) : List Nat := (k.coresInService part).filter (fun c => c / 8 == o)
def octetsOfDie (d : Nat) : List Nat := (List.range 8).map (fun i => 8 * d + i)

/-- Clusters of a node that an otherwise empty die holds at once; versions reserve their quotas (R249). -/
def Pkg.dieCap (part : Part) (k : Pkg) (die : Nat) (d : Desc) : Nat :=
  let n := ((octetsOfDie die).map (fun o => ((k.octetCores part o).map (fun c => k.coreCap c d)).sum / max 1 d.cluster)).sum
  if d.fault = 2 then min n (32 * 2 ^ 20 / (1024 * (if d.quotaKiB = 0 then 4096 else d.quotaKiB))) else n

/-- Contiguous equal shares of n clusters, one per die in service, the remainder to the lowest dies (R61). -/
def shares (n dies : Nat) : List (List Nat) :=
  let size := fun i => n / max 1 dies + (if i < n % max 1 dies then 1 else 0)
  (List.range dies).map (fun i => (List.range (size i)).map (((List.range i).map size).sum + ·))

/-- Bytes of version quota that the clusters of a die reserve. -/
def Pkg.quotaUsed (k : Pkg) (die : Nat) : Nat :=
  ((k.clusters.filter (fun e => e.2.die == die && !e.2.ready && !e.2.blocks.isEmpty)).map (fun e =>
    match tget k.nodes e.2.node with
    | some n => if n.desc.fault = 2 then 1024 * (if n.desc.quotaKiB = 0 then 4096 else n.desc.quotaKiB) else 0
    | none => 0)).sum
/-- The quotas of n more clusters fit beside those that the die's clusters reserve (R249). -/
def Pkg.quotaFits (k : Pkg) (die : Nat) (d : Desc) (n : Nat := 1) : Bool :=
  d.fault != 2 || decide (k.quotaUsed die + n * (1024 * (if d.quotaKiB = 0 then 4096 else d.quotaKiB)) ≤ 32 * 2 ^ 20)

/-- An octet takes blocks of a node: one that holds blocks of a launch with the fused attribute holds none of another (R153).
(log 105, DEDUCED) -/
def Pkg.octetTakes (k : Pkg) (o nid : Nat) (d : Desc) : Bool :=
  k.blocks.all (fun e => e.2.node == nid || e.2.core / 8 != o || !(e.2.state == .queued || residentState e.2.state) ||
    !(d.fused || (match tget k.nodes e.2.node with | some n => n.desc.fused | none => false)))
def Pkg.octetsFor (k : Pkg) (die nid : Nat) (d : Desc) : List Nat := (octetsOfDie die).filter (fun o => k.octetTakes o nid d)

/-! ### One cluster on one octet -/

/-- A choice of cores under way: each core with its room, its queue entries and its free slots. -/
structure CoreChoice where
  core : Nat
  room : CoreRoom
  queue : Nat
  free : Nat

/-- The core with the most free slots that takes one more block, the lower number on a tie. -/
def pickCore (cs : List CoreChoice) (d : Desc) : Option CoreChoice :=
  (cs.filter (fun c => c.room.holds d && decide (1 ≤ c.queue))).foldl (fun best c => match best with
    | none => some c
    | some b => if b.free < c.free then some c else some b) none

def pickCores (d : Desc) : Nat → List CoreChoice → Option (List Nat × List CoreChoice)
  | 0, cs => some ([], cs)
  | n + 1, cs => match pickCore cs d with
    | none => none
    | some c =>
      let take := fun (x : CoreChoice) => if x.core = c.core then
          { x with room := x.room.less d, queue := x.queue - 1, free := x.free - d.groups } else x
      (pickCores d n (cs.map take)).map (fun r => (c.core :: r.1, r.2))

/-- The cores of an octet with their block queues' room: what an empty core could hold of this cluster. -/
def Pkg.queueChoices (part : Part) (k : Pkg) (o : Nat) : List CoreChoice :=
  (k.octetCores part o).map (fun c =>
    { core := c, room := k.fullRoom c, queue := Config.blockQueue - (k.core c).queue.length, free := (k.freeSlots c).length })

/-- The cores of an octet with the room they have now, for a slice that must fit at once (R29). -/
def Pkg.roomChoices (part : Part) (k : Pkg) (o : Nat) : List CoreChoice :=
  (k.octetCores part o).map (fun c => { core := c, room := k.room c, queue := Config.blocksPerCore, free := (k.freeSlots c).length })

/-- The octet of a die with the most free group slots that can hold a cluster, the lower one on a tie (R61), and the cores
of the cluster's blocks. (log 45, DEDUCED) -/
def Pkg.placeCluster (part : Part) (k : Pkg) (die nid : Nat) (d : Desc) : Option (Nat × List Nat) :=
  let cands := (k.octetsFor die nid d).filterMap (fun o => (pickCores d d.cluster (k.queueChoices part o)).map (fun r =>
    (o, r.1, ((k.queueChoices part o).map (·.free)).sum)))
  (cands.foldl (fun (best : Option (Nat × List Nat × Nat)) c => match best with
    | none => some c
    | some b => if b.2.2 < c.2.2 then some c else some b) none).map (fun c => (c.1, c.2.1))

/-- A whole die slice at once: cores for every cluster of it, or none (R29). -/
def placeSlice (d : Desc) : List (Nat × List CoreChoice) → Nat → Option (List (Nat × List Nat))
  | _, 0 => some []
  | octs, n + 1 =>
    let cands := octs.filterMap (fun o => (pickCores d d.cluster o.2).map (fun r => (o.1, r.1, r.2, (o.2.map (·.free)).sum)))
    match cands.foldl (fun (best : Option (Nat × List Nat × List CoreChoice × Nat)) c => match best with
        | none => some c
        | some b => if b.2.2.2 < c.2.2.2 then some c else some b) none with
    | none => none
    | some c => (placeSlice d (octs.map (fun o => if o.1 = c.1 then (o.1, c.2.2.1) else o)) n).map (fun r => (c.1, c.2.1) :: r)

end Sys2Proof.Machine
end

