-- ==== Sys2Proof/Machine/Collect.lean ====
section
/-! DEFINITION. Machine/Collect.lean: barriers and convergence registers as groups reach and leave them (spec/02 R39, R43;
spec/15 R309), and a version's end (spec/11 R255). -/

namespace Sys2Proof.Machine

/-! ### Convergence registers (R39, R133) -/

/-- Signers by group and signing PC: each takes one deferred trap. -/
def sigGroups (sigs : List Sig) : List (Nat × Addr × Mask) :=
  sigs.foldl (fun l x =>
    if l.any (fun e => e.1 == x.gid && e.2.1 == x.pc) then
      l.map (fun e => if e.1 == x.gid && e.2.1 == x.pc then (e.1, e.2.1, e.2.2 ||| laneBit x.lane) else e)
    else l ++ [(x.gid, x.pc, laneBit x.lane)]) []

/-- Every thread that holds a signature on a register takes a trap at its next issue, naming its own signing
instruction, and the signatures are cleared (R39, R133). -/
def State.misuse (s : State) (p b k : Nat) (cause : BitVec 8) (taddr : DWord) : State :=
  match tget (s.pkg p).blocks b with
  | none => s
  | some x =>
    let kr := tgetD x.kregs k { set := 0, sigs := [] }
    let s1 := s.updBlock p b (fun x => { x with kregs := tset x.kregs k { kr with sigs := [], freed := false } })
    (sigGroups kr.sigs).foldl (fun s e => s.updGroup p e.1 (fun g => { g with
      deferred := g.deferred ++ [{ lanes := e.2.2, cause := cause, tpc := e.2.1, taddr := taddr, lane := Mask.lowest e.2.2, whole := false }] })) s1

/-- Lanes of a group exit: registers whose set names the group and that hold a signature are misused (R333). -/
def State.exitSignatures (s : State) (l : Loc) (ex : Mask) : State :=
  (l.blk.kregs.filter (fun e => bit e.2.set l.grp.gidx && !e.2.sigs.isEmpty)).foldl (fun s e =>
    let mine := fun (x : Sig) => x.gid == l.g && bit ex x.lane
    let s1 := s.updBlock l.p l.grp.blk (fun b => { b with kregs := tset b.kregs e.1 { e.2 with sigs := e.2.sigs.filter (fun x => !mine x) } })
    s1.misuse l.p l.grp.blk e.1 0x0A 0) s

/-! ### Barriers (R309) -/

def Bar.fresh : Bar := { ph := 0, mem := [], arr := [] }

/-- The completion test: every live member has arrived. -/
def Bar.settle (b : Bar) (live : Nat → Bool) : Bar :=
  if !b.arr.isEmpty && b.mem.all (fun g => !live g || decide (g ∈ b.arr)) then { b with ph := b.ph + 1, arr := [] } else b
/-- A group that ends leaves the membership; that it has arrived stands (R43, R309). (log 44, DEDUCED) -/
def Bar.leave (b : Bar) (g : Nat) (live : Nat → Bool) : Bar := ({ b with mem := b.mem.filter (· != g) } : Bar).settle live

def Pkg.live (k : Pkg) (g : Nat) : Bool := match tget k.groups g with | some x => x.alive | none => false

/-- A group has ended: it leaves every barrier of its block, its cluster and its die slice (R43). (log 44, DEDUCED) -/
def State.leaveBarriers (s : State) (l : Loc) : State :=
  s.updPkg l.p (fun k =>
    let live := k.live
    let fix := fun (t : Tab Nat Bar) => t.map (fun e => (e.1, e.2.leave l.g live))
    let k1 := k.updBlock l.grp.blk (fun b => { b with bars := fix b.bars })
    let k2 := k1.updCluster l.blk.cluster (fun c => { c with bars := fix c.bars })
    { k2 with slices := k2.slices.map (fun e =>
        if l.blk.cluster ∈ e.2.clusters then (e.1, { e.2 with bar := e.2.bar.leave l.g live }) else e) })

/-! ### The pod-scope drain (R193, R209) -/

/-- The node of a block. -/
def Pkg.nodeOf (k : Pkg) (b : Nat) : Option Node := (tget k.blocks b).bind (fun x => tget k.nodes x.node)
/-- The cores whose combining buffers hold what blocks have stored. -/
def Pkg.buffersOf (k : Pkg) (bs : List Nat) : List Nat :=
  ((bs.map (fun b => match tget k.blocks b, k.nodeOf b with
    | some x, some n => scalarCores n.desc.fused x.core
    | _, _ => [])).flatten).foldl addOnce []
/-- A deposit of a context has not left the package yet. -/
def Pkg.depositLeaves (k : Pkg) (asid : Nat) : Bool :=
  let of_ := fun (m : Msg) => m.asid == asid && (match m.body with | .deposit .. => true | _ => false)
  k.ports.any (fun e => e.2.egress.any of_) || k.noPath.any of_

/-- The pod-scope drain of blocks (R209): their accesses are performed, no combining buffer of their cores holds a sector of the
context, and its deposits have left the package. The Bool says that it is complete. -/
def State.podDrain (s : State) (p asid : Nat) (bs : List Nat) : Bool × State :=
  let k := s.pkg p
  let cores := k.buffersOf bs
  let s1 := s.cbDrain p asid cores
  let mine := fun (g : Nat) => match tget k.groups g with | some x => decide (x.blk ∈ bs) | none => false
  (!(s1.pkg p).pends.any (fun q => mine q.acc.gid) && s1.cbClear p asid cores && !(s1.pkg p).depositLeaves asid, s1)

/-- What blocks that go on elsewhere acquire (R193). -/
def State.podAcquire (s : State) (p : Nat) (bs : List Nat) : State :=
  bs.foldl (fun s b => match tget (s.pkg p).blocks b, (s.pkg p).nodeOf b with
    | some x, some n => s.acquireL1 p x.core n.asid n.desc.fused scPod
    | _, _ => s) s

/-! ### The fork edge (R205) -/

/-- The fork edge of an engine operation: what is ppo-before its issue in each issuing group is performed before its accesses: what
an acquire or a FENCE orders, and the groups' earlier writes, in the combining buffers of their cores
too (R132, R135, R205). (log 41, DEDUCED) -/
def State.forkOf (s : State) (p asid : Nat) (cores gs : List Nat) : Bool × State :=
  let s1 := s.cbDrain p asid cores
  let k := s1.pkg p
  (s1.cbClear p asid cores && gs.all (fun g => !s1.orderWait p g && !k.olog.any (fun o => o.gid == g && o.write) &&
    !k.pends.any (fun q => q.acc.gid == g && q.write)), s1)
def State.fork (s : State) (l : Loc) : Bool × State := s.forkOf l.p l.asid (scalarCores l.node.desc.fused l.core) [l.g]

/-! ### CKPT (R253) -/

/-- Every live group of the cluster has arrived at CKPT. -/
def Pkg.allArrived (k : Pkg) (c : Nat) : Bool :=
  match tget k.clusters c with
  | some x => (k.liveGroups (k.groupsOfCluster c)).all (fun g => decide (g ∈ x.arrived))
  | none => false

end Sys2Proof.Machine
end

