-- ==== Sys2Proof/Machine/Barriers.lean ====
section
/-! DEFINITION. Machine/Barriers.lean: BAR (spec/15 R308 to R310, spec/02 R43). -/

namespace Sys2Proof.Machine

/-! ### Where a barrier is, and whom it names -/

/-- The die slice of a cluster (R29). -/
def Pkg.sliceOf (k : Pkg) (c : Nat) : Option (Nat × Slice) := k.slices.find? (fun e => decide (c ∈ e.2.clusters))

def Loc.bar (l : Loc) (k : Pkg) (lvl : BarLvl) (n : Nat) : Bar :=
  match lvl with
  | .blk => tgetD l.blk.bars n Bar.fresh
  | .clu => tgetD l.clu.bars n Bar.fresh
  | .die => match k.sliceOf l.blk.cluster with
    | some e => e.2.bar
    | none => Bar.fresh

def State.setBar (s : State) (l : Loc) (lvl : BarLvl) (n : Nat) (b : Bar) : State :=
  match lvl with
  | .blk => s.updBlock l.p l.grp.blk (fun x => { x with bars := tset x.bars n b })
  | .clu => s.updCluster l.p l.blk.cluster (fun x => { x with bars := tset x.bars n b })
  | .die => s.updPkg l.p (fun k => match k.sliceOf l.blk.cluster with
    | some e => { k with slices := tset k.slices e.1 { e.2 with bar := b } }
    | none => k)

def BarLvl.scope : BarLvl → Nat
  | .blk => scBlk
  | .clu => scClu
  | .die => scDie

/-- The live groups of a set of blocks. -/
def Pkg.liveOf (k : Pkg) (bs : List Nat) : List Nat := k.liveGroups ((bs.map k.groupsOf).flatten)

/-- The members that an operand names (R309): all live groups with no operand; none where a bit is out of range (R310). (log 44, DEDUCED) -/
def Loc.members (l : Loc) (k : Pkg) (lvl : BarLvl) (mask : Option Nat) : Option (List Nat) :=
  match lvl, mask with
  | .blk, none => some (k.liveOf [l.grp.blk])
  | .blk, some m =>
    if 2 ^ l.node.desc.groups ≤ m then none
    else some ((k.liveOf [l.grp.blk]).filter (fun g => match tget k.groups g with | some x => m.testBit x.gidx | none => false))
  | .clu, none => some (k.liveOf l.clu.blocks)
  | .clu, some m =>
    if 2 ^ (min l.node.desc.cluster 8) ≤ m then none
    else some (k.liveOf (l.clu.blocks.filter (fun b => match tget k.blocks b with | some x => m.testBit x.rank | none => false)))
  | .die, _ => some (match k.sliceOf l.blk.cluster with
    | some e => k.liveOf (k.blocksOfClusters e.2.clusters)
    | none => [])

def sameSet (a b : List Nat) : Bool := a.all (fun x => decide (x ∈ b)) && b.all (fun x => decide (x ∈ a))

/-- The first two traps of R310. -/
def Loc.barBad (l : Loc) (lvl : BarLvl) : Option (BitVec 8) :=
  if lvl == .die && l.versioned then some 0x08
  else if lvl == .die && !l.node.desc.dieres then some 0x0A
  else none

/-! ### Arriving and waiting -/

/-- A wait's data: not yet arrived, or arrived in a phase; and the barrier. -/
def BarLvl.num : BarLvl → Nat
  | .blk => 0
  | .clu => 1
  | .die => 2
def BarLvl.ofNum : Nat → BarLvl
  | 0 => .blk
  | 1 => .clu
  | _ => .die
def barFresh (lvl : BarLvl) (n : Nat) : List Nat := [0, 0, BarLvl.num lvl, n]
def barIn (lvl : BarLvl) (n : Nat) (ph : Word) : List Nat := [1, ph.toNat, BarLvl.num lvl, n]

/-- The arrival of .sync and .arv (R309): a trap, a wait for the phase in which the group has arrived already or for its
release (R194), or the phase with the state after the arrival. -/
inductive Arrived where
  | trap (c : BitVec 8)
  | later (s : State)
  | ok (ph : Word) (s : State)

/-- The arrival at a barrier, and the set that it waits for (R309, R310; log 44, DEDUCED). -/
def barArrive (d a : Reg) (n : Nat) (lvl : BarLvl) (i : Iss) (s : State) : Arrived :=
  let l := i.loc
  let k := s.pkg l.p
  match l.barBad lvl with
  | some c => .trap c
  | none =>
    match l.members k lvl (if a = 0 then none else some (i.g.n i.leader a)) with
    | none => .trap 0x0A
    | some m =>
      let b := l.bar k lvl n
      if !(decide (l.g ∈ m)) then .trap 0x0A
      else if l.g ∈ b.arr then .later s
      else if !b.arr.isEmpty && !sameSet m (b.mem.filter k.live) then .trap 0x0A
      else
        let rel := s.release l (BarLvl.scope lvl)
        if !rel.1 then .later rel.2
        else
          let b1 : Bar := { b with mem := if b.arr.isEmpty then m else b.mem, arr := b.arr ++ [l.g] }
          .ok b.ph ((i.lanes rel.2 true (fun _ x => x.setV d.toNat b.ph)).setBar l lvl n (b1.settle k.live))

/-- Passing a wait is an acquire at the level's scope (R194). -/
def barPass (lvl : BarLvl) (i : Iss) (s : State) : Res := .ok (s.acquire i.loc (BarLvl.scope lvl))

def barArvBody (d a : Reg) (n : Nat) (lvl : BarLvl) (i : Iss) (s : State) : Res :=
  match barArrive d a n lvl i s with
  | .trap c => .bad c
  | .later s1 => .wait .bar (barFresh lvl n) s1
  | .ok _ s1 => .ok s1

def barSyncBody (d a : Reg) (n : Nat) (lvl : BarLvl) (i : Iss) (s : State) : Res :=
  let wait := fun (ph : Word) (s : State) =>
    if (match s.loc i.loc.p i.loc.g with | some l => (l.bar (s.pkg l.p) lvl n).ph == ph | none => false) then .wait .bar (barIn lvl n ph) s
    else barPass lvl i s
  match (match i.g.hold? i.addr with | some h => if h.kind == .bar then h.data else [] | none => []) with
  | [1, ph, _, _] => wait (BitVec.ofNat 32 ph) s
  | _ => match barArrive d a n lvl i s with
    | .trap c => .bad c
    | .later s1 => .wait .bar (barFresh lvl n) s1
    | .ok ph s1 => wait ph s1

def barWaitBody (b : Reg) (n : Nat) (lvl : BarLvl) (i : Iss) (s : State) : Res :=
  match i.loc.barBad lvl with
  | some c => .bad c
  | none => if (i.loc.bar (s.pkg i.loc.p) lvl n).ph == i.g.v i.leader b.toNat then .wait .bar (barFresh lvl n) s else barPass lvl i s

def execBarSync (gd : Guard) (d a : Reg) (n : BitVec 4) (lvl : BarLvl) (s : State) : Out :=
  issue { gd := gd, uni := true, srcs := one a, dsts := one d } (barSyncBody d a n.toNat lvl) s
def execBarArv (gd : Guard) (d a : Reg) (n : BitVec 4) (lvl : BarLvl) (s : State) : Out :=
  issue { gd := gd, uni := true, srcs := one a, dsts := one d } (barArvBody d a n.toNat lvl) s
def execBarWait (gd : Guard) (b : Reg) (n : BitVec 4) (lvl : BarLvl) (s : State) : Out :=
  issue { gd := gd, uni := true, srcs := one b } (barWaitBody b n.toNat lvl) s

end Sys2Proof.Machine
end

