-- ==== Sys2Proof/Machine/QueueRegs.lean ====
section
/-! DEFINITION. Machine/QueueRegs.lean: the queue registers and what writing them does (spec/03 R44 to R46, spec/14
R287, R288, R296). -/

namespace Sys2Proof.Machine

/-- The host window of a function answers: the package is ready and not in D3hot (R287, R292, R296). (log 49, DEDUCED) -/
def State.windowOpen (s : State) (p fn : Nat) : Bool :=
  let k := s.pkg p
  thas s.pkgs p && decide (fn < 16) && k.plat.ready && !k.plat.d3hot

/-- A queue's registers appear in its owner's window alone (R288). -/
def State.ownsQueue (s : State) (p fn q : Nat) : Bool :=
  s.windowOpen p fn && decide (q < Config.queues) && ((s.pkg p).queue q).own == fn

/-- The implemented bits of QCTL. -/
def qctlMask : Word := 0x1FFFF
/-- The bits that a write of QCTL changes while EN = 1: EN and SKIP (R45). -/
def qctlLive : Word := 0x3

/-- The ring setup is invalid: SIZE, the ring pointer's alignment, or no context of that ASID here (R45). -/
def Pkg.setupBad (k : Pkg) (x : Queue) : Bool :=
  decide (x.size < 12) || decide (24 < x.size) || vaOf x.base % 2 ^ x.size != 0 || !thas k.ctxs x.asid

/-- How far SKIP moves the read pointer: the packet's length where it is legal, otherwise one unit (R46). -/
def State.skipUnits (s : State) (p q : Nat) : Nat :=
  let x := (s.pkg p).queue q
  match s.ringRead p q (16 * x.index) 16 with
  | some hd =>
    let n := (PktHdr.ofWords (wordOf hd) (wordOf (hd.drop 4))).units
    if 1 ≤ n && x.index + n ≤ x.units then n else 1
  | none => 1

/-- Reading resumes at QRP: one that a LOOP holds begins that LOOP again (R45, R49). -/
def Queue.resumed (x : Queue) : Queue :=
  if x.rd == x.rp then x
  else { x with
    rd := x.rp, skip := none, graph := none, got := [], parts := [],
    nest := x.nest.takeWhile (fun n => match n with | .ifBlk _ => true | .loopBlk _ _ _ => false) }

/-- EN has gone to 1: the ring is checked, an offending packet is passed over where SKIP says so, and reading starts or
resumes at QRP; a packet that was held goes on waiting (R45, R46). (log 46, DEDUCED) -/
def State.startQueue (s : State) (p q : Nat) (skip : Bool) : State :=
  let s := if ((s.pkg p).queue q).hold.isSome then s else s.updQueue p q Queue.resumed
  let x := (s.pkg p).queue q
  if (s.pkg p).setupBad x then s.stopQueue p q 0x03
  else if (match tget (s.pkg p).ctxs x.asid with | some c => c.killed | none => false) then s.stopQueue p q 0x06
  else
    let blocked := x.hold.isSome || (match tget (s.pkg p).ctxs x.asid with | some c => c.error | none => false)
    let n := if skip && !(x.err == 3 || x.err == 4 || x.err == 6) then s.skipUnits p q else 0
    s.updQueue p q (fun x => { x with
      rd := x.rd + BitVec.ofNat 32 n, rp := x.rp + BitVec.ofNat 32 n, state := if blocked then 2 else 1 })

/-- A write of QCTL with EN = 1. (log 46, DEDUCED) -/
def State.writeEnable (s : State) (p q : Nat) (v : Word) (skip : Bool) : State :=
  let x := (s.pkg p).queue q
  if x.en then s.updQueue p q (fun x => { x with ctl := (x.ctl &&& ~~~ qctlLive) ||| (v &&& qctlLive) })
  else (s.updQueue p q (fun x => { x with ctl := v &&& qctlMask })).startQueue p q skip

/-- The write skips: EN goes from 0 to 1 with SKIP on a stopped queue (R46). -/
def Queue.skips (x : Queue) (v : Word) : Bool := !x.en && x.state == 3 && bit v 1

def execQctlEnable (p fn q : Nat) (v : Word) (s : State) : Out :=
  .next (if s.ownsQueue p fn q && bit v 0 && !((s.pkg p).queue q).skips v then s.writeEnable p q v false else s)

def execQctlSkip (p fn q : Nat) (v : Word) (s : State) : Out :=
  .next (if s.ownsQueue p fn q && bit v 0 && ((s.pkg p).queue q).skips v then s.writeEnable p q v true else s)

/-- A write of QCTL with EN = 0: a packet that is held finishes first, and QRP is kept (R45). (log 46, DEDUCED) -/
def State.writeDisable (s : State) (p q : Nat) (v : Word) : State :=
  s.updQueue p q (fun x =>
    if x.en then { x with
      ctl := (x.ctl &&& ~~~ qctlLive) ||| (v &&& qctlLive),
      state := if x.state == 3 then 3 else if x.hold.isSome then 2 else 0 }
    else { x with ctl := v &&& qctlMask })

def execQctlDisable (p fn q : Nat) (v : Word) (s : State) : Out :=
  .next (if s.ownsQueue p fn q && !bit v 0 then s.writeDisable p q v else s)

/-- A write of QBASEL while EN = 0 names a new ring: both pointers go to 0, and nothing of the old ring is left open
(R45). -/
def State.writeBasel (s : State) (p q : Nat) (v : Word) : State :=
  s.updQueue p q (fun x =>
    if x.en then x
    else { x with
      basel := v, wp := 0, rp := 0, rd := 0, nest := [], graph := none, skip := none, hold := none, got := [], parts := [],
      state := if x.state == 3 then 3 else 0 })

def execQbaselWrite (p fn q : Nat) (v : Word) (s : State) : Out :=
  .next (if s.ownsQueue p fn q then s.writeBasel p q v else s)

/-- A write of QWP exposes packets; one beyond the ring's capacity stops the queue (R45). (log 46, DEDUCED) -/
def State.writeWp (s : State) (p q : Nat) (v : Word) : State :=
  let s1 := s.updQueue p q (fun x => { x with wp := v })
  let x := (s1.pkg p).queue q
  if 12 ≤ x.size && x.size ≤ 24 && decide (x.units < (x.wp - x.rp).toNat) then s1.stopQueue p q 0x04 else s1

def execQwpWrite (p fn q : Nat) (v : Word) (s : State) : Out :=
  .next (if s.ownsQueue p fn q then s.writeWp p q v else s)

end Sys2Proof.Machine
end

