-- ==== Sys2Proof/Machine/Contexts.lean ====
section
/-! DEFINITION. Machine/Contexts.lean: creating and destroying contexts, rewriting trap words, and the invalidation of
translations (spec/14 R289 to R291, spec/11 R231, R243, spec/07 R159). -/

namespace Sys2Proof.Machine

/-! ### The context descriptor (R290) -/

/-- The window of the physical map that an address lies in, 0 for a hole (R156). -/
def physWindow (part : Part) (pa : Nat) : Nat :=
  match physOf part pa with
  | .hole => 0
  | .host _ => 1
  | .frame _ => if 0x8000000000 ≤ pa then 2 else 3 + pa / 2 ^ 36

/-- No part of a range lies in a hole: each window is contiguous. -/
def areaOk (part : Part) (pa n : Nat) : Bool :=
  n == 0 || (physWindow part pa != 0 && physWindow part pa == physWindow part (pa + n - 1))

/-- Sizes in KiB of the save slots of a group and of a block (R289). -/
def slotGroupKiB : Nat := 17
def slotBlockKiB : Nat := 900

/-- The fields of a descriptor, from its 256 bytes. -/
structure CtxDesc where
  bounds : Nat
  places : Nat
  root : Nat
  sched : Nat
  schedKiB : Nat
  save : Nat
  pool : Nat
  poolKiB : Nat
  trapPc : DWord
  trapEn : Word
  flags : Nat
  pkgs : BitVec 16
  rest : List Byte

def CtxDesc.ofBytes (bs : List Byte) : CtxDesc :=
  let n := fun (off len : Nat) => leNat ((bs.drop off).take len)
  { bounds := n 0 8, places := n 8 8, root := n 16 8, sched := n 24 8, schedKiB := n 32 4, save := n 40 8, pool := n 48 8,
    poolKiB := n 56 4, trapPc := BitVec.ofNat 64 (n 64 8), trapEn := BitVec.ofNat 32 (n 72 4), flags := n 76 4,
    pkgs := BitVec.ofNat 16 (n 80 2), rest := bs.drop 82 }

/-- The trap words are legal: ENTRY 0 or aligned, no reserved bit of TRAPEN (R243, R289). -/
def trapWordsOk (entry : DWord) (en : Word) : Bool :=
  (entry == 0 || entry.toNat % 4 == 0) && en &&& 0xFFFE0001 == 0

/-- TRAPEN as it is kept: bits 6, 7 and 15 read 0 (R243). -/
def trapEnKept (en : Word) : Word := en &&& 0x00017F3E

/-- Every field holds a legal value, the mask names packages of the pod, and nothing lies in a hole (R290). It gives the trap words
no legal values. (log 47, DEDUCED) -/
def CtxDesc.ok (d : CtxDesc) (part : Part) (pod : List Nat) (p cores : Nat) : Bool :=
  d.bounds % 4096 == 0 && d.places % 1024 == 0 && d.root % 131072 == 0 && d.sched % 65536 == 0 && decide (64 ≤ d.schedKiB) &&
  d.save % 65536 == 0 && d.pool % 65536 == 0 && decide (d.flags < 2) && d.rest.all (· == 0) &&
  bit d.pkgs p && (List.range 16).all (fun i => !bit d.pkgs i || decide (i ∈ pod)) &&
  areaOk part d.bounds 4096 && areaOk part d.places 1024 && areaOk part d.root 131072 && areaOk part d.sched (1024 * d.schedKiB) &&
  areaOk part d.save (1024 * cores * 32 * (slotGroupKiB + slotBlockKiB)) && (d.pool == 0 || areaOk part d.pool (1024 * d.poolKiB))

/-- One entry of a bounds table (R143). -/
def boundOfEntry (x : BitVec 128) : Bound :=
  { base := bits x 55 0, limit := bits x 119 64, rd := bit x 56, wr := bit x 57, ex := bit x 58, at_ := bit x 59,
    space := bits x 61 60, v := bit x 63 }
/-- One entry of a placement table (R155). -/
def placeOfEntry (x : BitVec 128) : Place :=
  { v := bit x 0, interleaved := bit x 1, stack := bits x 10 8, start := bits x 55 16, stop := bits x 119 80 }

def entry16 (bs : List Byte) (i : Nat) : BitVec 128 := BitVec.ofNat 128 (leNat ((bs.drop (16 * i)).take 16))

/-- The valid entries of both tables, as they stand when the create is performed (log 8, DEDUCED). Entries 0 and 255 are fixed
(R144). -/
def readBounds (bs : List Byte) : Tab Nat Bound :=
  ((List.range 254).map (fun i => (i + 1, boundOfEntry (entry16 bs (i + 1))))).filter (fun e => e.2.v)
/-- The valid entries of a placement table (R155; log 8, DEDUCED). -/
def readPlaces (bs : List Byte) : Tab Nat Place :=
  ((List.range 64).map (fun i => (i, placeOfEntry (entry16 bs i)))).filter (fun e => e.2.v)

/-! ### CTXCMD (R289) -/

def cmdOp (v : Word) : Nat := bits v 1 0
def cmdAsid (v : Word) : Nat := bits v 11 2
/-- CTXDPH and CTXDPL. -/
def Fn.ctxdp (f : Fn) : Nat := f.ctxdpl.toNat + 2 ^ 32 * f.ctxdph.toNat

/-- A write of CTXCMD with this OP starts a command; one made while BUSY = 1 is ignored. -/
def State.ctxStarts (s : State) (p fn : Nat) (v : Word) (op : Nat) : Bool :=
  s.windowOpen p fn && !((s.pkg p).fn fn).busy && cmdOp v == op

/-- A command is complete with a status. CTXCMD keeps and returns the bits of the write that its map does not list (log 109, DESIGN
CHOICE). -/
def State.ctxStatus (s : State) (p fn : Nat) (v : Word) (status : Nat) : State :=
  s.updFn p fn (fun f => { f with ctxcmd := v, busy := false, status := BitVec.ofNat 8 status })

/-- The context of an ASID is live: created and not killed. -/
def Pkg.live? (k : Pkg) (asid : Nat) : Bool := match tget k.ctxs asid with | some c => !c.killed | none => false

/-- The agents of the package start at the context's incarnation (R231, R232). -/
def Pkg.freshAdopted (k : Pkg) (asid : Nat) : Pkg := { k with adopted := k.adopted.filter (fun e => e.1.2 != asid) }

/-- The status of a create, in the order live, full, malformed, unsupported. (log 47, DEDUCED) -/
def State.createStatus (s : State) (p asid desc : Nat) (d : CtxDesc) : Nat :=
  let k := s.pkg p
  if k.live? asid || (k.recl asid).pending then 0x08
  else if Config.maxContexts ≤ (k.ctxs.filter (fun e => e.1 != asid)).length then 0x09
  else if desc % 256 != 0 || !areaOk s.part desc 256 || !d.ok s.part s.pod p (k.coresInService s.part).length then 0x0A
  else if d.flags = 1 && !Config.hasCrypto s.part then 0x04
  else 0

/-- The context as its descriptor and tables give it. (log 8, DEDUCED) (log 12, DESIGN CHOICE) -/
def State.newCtx (s : State) (p fn asid : Nat) (d : CtxDesc) (bounds places : List Byte) : Ctx :=
  { fn := fn, inc := ((s.pkg p).recl asid).inc, bounds := readBounds bounds, places := readPlaces places, root := d.root,
    schedKiB := d.schedKiB, save := d.save, pool := d.pool, poolKiB := if d.pool = 0 then 0 else d.poolKiB, trapPc := d.trapPc,
    trapEn := trapEnKept d.trapEn, menc := d.flags == 1, pkgs := d.pkgs, scopes := [], weight := 4096, dThr := 230, tThr := 64, error := false,
    killed := false, haltedSince := none, sched := [], parkedKiB := 0, lastService := s.now, bp := [], stops := [] }

/-- A descriptor or table that the device reads poisoned is a malformed one (log 112, DESIGN CHOICE). (log 47, DEDUCED) -/
def State.createCtx (s0 : State) (p fn : Nat) (v : Word) : State :=
  let asid := cmdAsid v
  let desc := ((s0.pkg p).fn fn).ctxdp
  let rd := s0.readPhys p desc 256
  let d := CtxDesc.ofBytes rd.1
  let st := s0.createStatus p asid desc d
  if st != 0 then rd.2.2.ctxStatus p fn v st
  else
    let b := rd.2.2.readPhys p d.bounds 4096
    let t := b.2.2.readPhys p d.places 1024
    let s := t.2.2
    if rd.2.1 || b.2.1 || t.2.1 then s.ctxStatus p fn v 0x0A
    else (s.updPkg p (fun k => { k.freshAdopted asid with
      ctxs := tset k.ctxs asid (s.newCtx p fn asid d b.1 t.1), reclaim := tset k.reclaim asid { k.recl asid with owner := fn } })).ctxStatus p fn v 0

def execContextCreate (p fn : Nat) (v : Word) (s : State) : Out := .next (if s.ctxStarts p fn v 0 then s.createCtx p fn v else s)

/-- Destroy frees the slot of an ASID whose last kill has been reclaimed (R290). -/
def State.destroyCtx (s : State) (p fn : Nat) (v : Word) : State :=
  let asid := cmdAsid v
  let k := s.pkg p
  match tget k.ctxs asid with
  | none => s.ctxStatus p fn v 0x0B
  | some c =>
    if c.fn != fn then s.ctxStatus p fn v 0x0B
    else if !c.killed || (k.recl asid).pending then s.ctxStatus p fn v 0x08
    else (s.updPkg p (fun k => { k.freshAdopted asid with ctxs := tdel k.ctxs asid })).ctxStatus p fn v 0

def execContextDestroy (p fn : Nat) (v : Word) (s : State) : Out := .next (if s.ctxStarts p fn v 1 then s.destroyCtx p fn v else s)

/-- The function has a live context of that ASID. -/
def Pkg.ownsLive (k : Pkg) (fn asid : Nat) : Bool := k.live? asid && k.ownerFn asid == fn

/-- OP 2: the command is in progress until no group of the context is in its handler. -/
def State.rewriteTraps (s : State) (p fn : Nat) (v : Word) : State :=
  if (s.pkg p).ownsLive fn (cmdAsid v) then s.updFn p fn (fun f => { f with ctxcmd := v, busy := true })
  else s.ctxStatus p fn v 0x0B

def execRewriteTrapWords (p fn : Nat) (v : Word) (s : State) : Out := .next (if s.ctxStarts p fn v 2 then s.rewriteTraps p fn v else s)

/-- TRAP_WORDS_APPLIED: bytes 64 to 75 of the descriptor become the trap words; held traps are delivered at their next
issue. -/
def State.applyTraps (s : State) (p fn : Nat) : State :=
  let k := s.pkg p
  let f := k.fn fn
  let asid := cmdAsid f.ctxcmd
  if !(f.busy && cmdOp f.ctxcmd == 2) then s
  else if !k.ownsLive fn asid then s.ctxStatus p fn f.ctxcmd 0x0B
  else if (k.groupsOfCtx asid).any (fun g => match tget k.groups g with | some x => x.handler.isSome | none => false) then s
  else
    let rd := s.readPhys p (f.ctxdp + 64) 12
    let entry := BitVec.ofNat 64 (leNat (rd.1.take 8))
    let en := wordOf (rd.1.drop 8)
    if !areaOk s.part (f.ctxdp + 64) 12 || !trapWordsOk entry en || rd.2.1 then rd.2.2.ctxStatus p fn f.ctxcmd 0x0A
    else (rd.2.2.updCtx p asid (fun c => { c with trapPc := entry, trapEn := trapEnKept en })).ctxStatus p fn f.ctxcmd 0

def execTrapWordsApplied (p fn : Nat) (s : State) : Out := .next (s.applyTraps p fn)

def execCtxcmdReserved (p fn : Nat) (v : Word) (s : State) : Out := .next (if s.ctxStarts p fn v 3 then s.ctxStatus p fn v 0x0A else s)

/-! ### TLB invalidation (R159, R291) -/

/-- The write of TLBIVH starts an invalidation (R159, R291; log 48, DEDUCED). -/
def execTlbInvalidate (p fn : Nat) (v : Word) (s : State) : Out :=
  .next (if s.windowOpen p fn && !((s.pkg p).fn fn).tlbBusy then s.updFn p fn (fun f => { f with tlbivh := v, tlbBusy := true }) else s)

/-- Every controller of the package drops the page that TLBIA and TLBIV name, for a context of the function. -/
def State.tlbDone (s : State) (p fn : Nat) : State :=
  let f := (s.pkg p).fn fn
  if !f.tlbBusy then s
  else
    let asid := bits f.tlbia 9 0
    let va := (f.tlbivl.toNat + 2 ^ 32 * f.tlbivh.toNat) % 2 ^ 40 * 65536
    let hit := fun (e : TlbEnt) => e.asid == asid && decide (e.vbase ≤ va) && decide (va < e.vbase + e.size)
    let drop := fun (t : Ctrl) => { t with tlb := t.tlb.filter (fun e => !hit e) }
    let s1 := if (s.pkg p).ownerFn asid == fn then s.updPkg p (fun k => { k with ctrls := k.ctrls.map (fun e => (e.1, drop e.2)) }) else s
    s1.updFn p fn (fun f => { f with tlbBusy := false })

def execTlbInvalidateComplete (p fn : Nat) (s : State) : Out := .next (s.tlbDone p fn)

end Sys2Proof.Machine
end

