-- ==== Sys2Proof/Machine/Scratch.lean ====
section
/-! DEFINITION. Machine/Scratch.lean: a block's scratchpad, its full-empty bits and the operations that wait for them
(spec/07 R146 to R148). -/

namespace Sys2Proof.Machine

/-! ### Bytes and full bits -/

/-- A byte of a block's scratchpad; one that nothing has written is undefined (R416; log 2, DESIGN CHOICE). (log 56, DEDUCED) -/
def Block.byte (b : Block) (off : Nat) : Byte := tgetD b.scratch off (Config.launchByte b.uid off)
def Block.get (b : Block) (off n : Nat) : Nat := leNat ((List.range n).map (fun i => b.byte (off + i)))
def Block.put (b : Block) (off n v : Nat) : Block :=
  { b with scratch := ((leBytes n v).zipIdx).foldl (fun t e => tset t (off + e.2) e.1) b.scratch }
def Block.isFull (b : Block) (g : Nat) : Bool := decide (g ∈ b.full)
def Block.setFull (b : Block) (g : Nat) : Block := { b with full := addOnce b.full g }
def Block.clrFull (b : Block) (g : Nat) : Block := { b with full := b.full.filter (· != g) }

def State.block? (s : State) (p b : Nat) : Option Block := tget (s.pkg p).blocks b
/-- The granules of a byte range. -/
def granules (start len : Nat) : List Nat :=
  if len = 0 then [] else (List.range ((start + len - 1) / 16 + 1 - start / 16)).map (start / 16 + ·)

/-- Writes bytes; every 64-bit word written whole has fresh check bits (R262). -/
def State.spWrite (s : State) (p b off n v : Nat) : State :=
  let whole := (List.range ((off + n) / 8 + 1)).filter (fun w => decide (off ≤ 8 * w) && decide (8 * w + 8 ≤ off + n))
  (s.updBlock p b (·.put off n v)).mend p (whole.map (SramWord.scratch b))

/-! ### LDS.fe waiting for a full granule (R148, R365) -/

/-- The progress of an LDS.fe: .clr, the size, the lanes still to be read (block, offset, lane), and the values read. -/
structure FeWait where
  clr : Bool
  n : Nat
  todo : List (Nat × Nat × Nat)
  got : Tab Nat Nat
deriving DecidableEq, Repr

def triplesOf : List Nat → Nat → List (Nat × Nat × Nat) × List Nat
  | a :: b :: c :: r, k + 1 => let t := triplesOf r k; ((a, b, c) :: t.1, t.2)
  | r, _ => ([], r)
def pairsIn : List Nat → List (Nat × Nat)
  | a :: b :: r => (a, b) :: pairsIn r
  | _ => []

/-- As a wait's data holds it. -/
def FeWait.data (w : FeWait) : List Nat :=
  Config.b2n w.clr :: w.n :: w.todo.length :: (w.todo.map (fun e => [e.1, e.2.1, e.2.2])).flatten ++ (w.got.map (fun e => [e.1, e.2])).flatten
def FeWait.ofData : List Nat → Option FeWait
  | c :: n :: k :: r =>
    let t := triplesOf r k
    some { clr := c == 1, n := n, todo := t.1, got := pairsIn t.2 }
  | _ => none

/-- The distinct operations still to do, as (block, granule). -/
def FeWait.ops (w : FeWait) : List (Nat × Nat) := (w.todo.map (fun e => (e.1, e.2.1 / 16))).foldl addOnce []
def FeWait.lanesAt (w : FeWait) (op : Nat × Nat) : List (Nat × Nat × Nat) := w.todo.filter (fun e => e.1 == op.1 && e.2.1 / 16 == op.2)

/-- The struck words that an operation reads (R262). -/
def FeWait.words (w : FeWait) (op : Nat × Nat) : List SramWord :=
  SramWord.fullBit op.1 op.2 :: (w.lanesAt op).map (fun e => SramWord.scratch op.1 (e.2.1 / 8))

/-- One operation on one granule: it reads for all of its lanes, and .clr empties the granule in the same access. -/
def State.feOne (s : State) (p : Nat) (w : FeWait) (op : Nat × Nat) : FeWait × State :=
  match s.block? p op.1 with
  | none => (w, s)
  | some b =>
    let here := w.lanesAt op
    ({ w with todo := w.todo.filter (fun e => !(e.1 == op.1 && e.2.1 / 16 == op.2)),
              got := w.got ++ here.map (fun e => (e.2.2, b.get e.2.1 w.n)) },
      if w.clr then s.updBlock p op.1 (·.clrFull op.2) else s)

/-- One waiting operation: since when, and where it stands; local ones before those of other cores, then by core and
slot (R148, R365). -/
structure FeSlot where
  since : Nat
  remote : Nat
  core : Nat
  slot : Nat
  gid : Nat
  addr : Addr
deriving DecidableEq, Repr

def FeSlot.before (x y : FeSlot) : Bool :=
  if x.since != y.since then decide (x.since < y.since)
  else if x.remote != y.remote then decide (x.remote < y.remote)
  else if x.core != y.core then decide (x.core < y.core) else decide (x.slot < y.slot)
def insertSlot (x : FeSlot) : List FeSlot → List FeSlot
  | [] => [x]
  | y :: ys => if x.before y then x :: y :: ys else y :: insertSlot x ys

/-- The operations that wait for a granule, the earliest first; one that was left unissued (R33), or whose group is halted, does not
wait. -/
def Pkg.feWaiters (k : Pkg) (b gran home : Nat) : List FeSlot :=
  let of_ := fun (e : Nat × Group) => ((if e.2.halted then [] else e.2.holds).filter (fun h => h.kind == .fe && h.counted.isSome && (match FeWait.ofData h.data with
    | some w => w.ops.any (fun o => o == (b, gran))
    | none => false))).map (fun h => ({
        since := h.since, remote := if e.2.core = home then 0 else 1, core := e.2.core, slot := e.2.slot, gid := e.1,
        addr := h.addr } : FeSlot))
  ((k.groups.map of_).flatten).foldr insertSlot []

/-- One waiting operation is performed, where its granule is full and its words are good. -/
def State.feServe (s : State) (p b gran : Nat) (x : FeSlot) : State :=
  match s.block? p b, (tget (s.pkg p).groups x.gid).bind (fun g => g.hold? x.addr) with
  | some blk, some h =>
    match FeWait.ofData h.data with
    | some w =>
      if !blk.isFull gran || (w.words (b, gran)).any (fun y => (s.struck p y).isSome) then s
      else
        let r := s.feOne p w (b, gran)
        let put := fun (y : Hold) => if y.addr == x.addr then { y with data := r.1.data } else y
        r.2.updGroup p x.gid (fun g => { g with holds := g.holds.map put })
    | none => s
  | _, _ => s

/-- A granule becomes full: the operations that wait for it are performed in the order in which they began to wait,
until a .clr has emptied it (R147, R148). -/
def State.fill (s : State) (p b gran : Nat) : State :=
  match s.block? p b with
  | none => s
  | some blk =>
    let s1 := (s.updBlock p b (·.setFull gran)).mend p [SramWord.fullBit b gran]
    ((s.pkg p).feWaiters b gran blk.core).foldl (fun s x => s.feServe p b gran x) s1

def State.empty (s : State) (p b gran : Nat) : State :=
  (s.updBlock p b (·.clrFull gran)).mend p [SramWord.fullBit b gran]

end Sys2Proof.Machine
end

