-- ==== Sys2Proof/Machine/Tiles.lean ====
section
/-! DEFINITION. Machine/Tiles.lean: tile pointers (spec/06 R125 to R127) and the arithmetic of the matrix engine (spec/05
R121, spec/06 R123, R128, R129, R135, R136). -/

namespace Sys2Proof.Machine

/-! ### Tile pointers -/

def tpOffset (x : DWord) : Nat := bits x 18 0
def tpRot (x : DWord) : Nat := bits x 22 19
def tpReserved (x : DWord) : Nat := bits x 31 23
def tpPitch (x : DWord) : Nat := bits x 47 32
def tpTpitch (x : DWord) : Nat := bits x 63 48

/-- The address of byte a of line r in lines of L bytes, the tile's first line at `base` (R126). -/
def tileAddr (base : Nat) (ptr : DWord) (r a L : Nat) : Nat :=
  base + r * tpPitch ptr + 8 * ((a / 8 + r * tpRot ptr) % (L / 8)) + a % 8

/-- The alignment checks of R127. -/
def tpBad (ptr : DWord) (L : Nat) : Bool :=
  tpReserved ptr != 0 || tpOffset ptr % 16 != 0 || tpPitch ptr % 16 != 0 || tpTpitch ptr % 16 != 0 || decide (tpPitch ptr < L)

/-- The lowest byte of n lines of L bytes that lies outside a scratchpad of `size` bytes (R127). -/
def tpOutside (base : Nat) (ptr : DWord) (n L size : Nat) : Option Nat :=
  (firstFrom (fun r => decide (size < base + r * tpPitch ptr + L)) 0 n).map (fun r => max (base + r * tpPitch ptr) size)

/-- The granules of n lines. -/
def tpGranules (base : Nat) (ptr : DWord) (n L : Nat) : List Nat :=
  ((List.range n).map (fun r => granules (base + r * tpPitch ptr) L)).flatten

/-- Line r as one number, byte 0 lowest. -/
def Block.line (b : Block) (base : Nat) (ptr : DWord) (r L : Nat) : Nat :=
  (List.range (L / 8)).foldr (fun w acc => b.get (tileAddr base ptr r (8 * w) L) 8 + 2 ^ 64 * acc) 0

/-! ### The element formats of the MMAs (R123) -/

inductive MmaFmt where
  | f4
  | f8 (ae bE : Bool)
  | i8 (au bu : Bool)
  | i4 (au bu : Bool)
  | bf
  | h
deriving DecidableEq, Repr

/-- An MMA: its format, tile and operand fields. -/
structure Mma where
  fmt : MmaFmt
  t : Nat
  o : MmaOps
deriving DecidableEq, Repr

def mmaOf (i : Instr) : Option Mma :=
  match i with
  | .mmaF4 _ t o => some { fmt := .f4, t := t.toNat, o := o }
  | .mmaF8 _ t ae be o => some { fmt := .f8 ae be, t := t.toNat, o := o }
  | .mmaI8 _ t au bu o => some { fmt := .i8 au bu, t := t.toNat, o := o }
  | .mmaI4 _ t au bu o => some { fmt := .i4 au bu, t := t.toNat, o := o }
  | .mmaBf _ t o => some { fmt := .bf, t := t.toNat, o := o }
  | .mmaH _ t o => some { fmt := .h, t := t.toNat, o := o }
  | _ => none

namespace MmaFmt
def width : MmaFmt → Nat
  | .f4 | .i4 _ _ => 4
  | .f8 _ _ | .i8 _ _ => 8
  | .bf | .h => 16
def scaled : MmaFmt → Bool
  | .f4 | .f8 _ _ => true
  | _ => false
/-- Elements per line. -/
def k (f : MmaFmt) : Nat := 1024 / f.width
def elem (f : MmaFmt) (b : Bool) (x : Nat) : FVal :=
  match f with
  | .f4 => e2m1.decode x
  | .f8 ae be => (if (if b then be else ae) then e5m2 else e4m3).decode x
  | .i8 au bu => FVal.ofInt (if (if b then bu else au) then (x : Int) else signedOf 8 x)
  | .i4 au bu => FVal.ofInt (if (if b then bu else au) then (x : Int) else signedOf 4 x)
  | .bf => bf16.decode x
  | .h => f16.decode x
/-- Registers of a sparse index run (R129). -/
def indexRegs : MmaFmt → Nat
  | .f4 | .i4 _ _ => 16
  | .f8 _ _ | .i8 _ _ => 8
  | .bf | .h => 4
end MmaFmt

namespace Mma
/-- The first register of the index run (R129). -/
def indexBase (m : Mma) : Nat := if m.fmt.scaled then m.o.c.toNat + 8 else m.o.c.toNat
def run (base n : Nat) : List Nat := (List.range n).map (base + ·)
/-- The registers that a signer's operands occupy (R124, R125, R128, R129). -/
def regs (m : Mma) : List Nat :=
  (if m.o.as then pairOf m.o.a else run m.o.a.toNat 32) ++ (if m.o.bs then pairOf m.o.b else run m.o.b.toNat 32) ++
  (if m.fmt.scaled then run m.o.c.toNat 8 else []) ++ (if m.fmt.scaled && m.o.sp then run (m.o.c.toNat + 24) 8 else []) ++
  (if m.o.sp then run m.indexBase m.fmt.indexRegs else [])
/-- The tile pointers that a lane supplies, A's first. -/
def ptrs (m : Mma) (g : Group) (n : Nat) : List DWord :=
  (if m.o.as then [g.x n m.o.a.toNat] else []) ++ (if m.o.bs then [g.x n m.o.b.toNat] else [])
def ptrA (m : Mma) (ps : List DWord) : DWord := if m.o.as then ps.headD 0 else 0
def ptrB (m : Mma) (ps : List DWord) : DWord := if m.o.bs then (ps.drop (Config.b2n m.o.as)).headD 0 else 0
/-- The scratchpad operands: the tile's first byte and its pointer (R125, R129). -/
def tilesOf (m : Mma) (ps : List DWord) : List (Nat × DWord) :=
  (if m.o.as then [(tpOffset (m.ptrA ps), m.ptrA ps)] else []) ++
  (if m.o.bs then [(tpOffset (m.ptrB ps), m.ptrB ps)] else []) ++
  (if m.o.bs && m.o.sp then [(tpOffset (m.ptrB ps) + tpTpitch (m.ptrB ps), m.ptrB ps)] else [])
end Mma

/-! ### One element of the product (R121) -/

/-- A captured register of a signer; v0 reads 0. -/
def Sig.reg (s : Sig) (n : Nat) : Word := if n = 0 then 0 else tgetD s.regs n 0
/-- n captured registers as one number. -/
def Sig.regs2 (s : Sig) (base n : Nat) : Nat := (List.range n).foldr (fun k acc => (s.reg (base + k)).toNat + 2 ^ 32 * acc) 0

def Sig.none : Sig := { gid := 0, lane := 0, pc := 0, words := (0, Option.none), ptrs := [], regs := [] }

/-- What the engine has read before it multiplies: the operand lines and the signers by rank. -/
structure MmaIn where
  la : List Nat
  lb : List Nat
  lb2 : List Nat
  signers : List Sig

def scaleByte (x : MmaIn) (rank base byte : Nat) : FVal :=
  e8m0 (((x.signers.getD rank Sig.none).reg (base + byte / 4)).toNat / 2 ^ (8 * (byte % 4)))

/-- The logical row of B that stored element j of row r of A names (R129). -/
def mmaPos (m : Mma) (x : MmaIn) (r j : Nat) : Nat :=
  if m.o.sp then
    let sup := x.signers.getD ((r + 32 * m.o.sl.toNat) % 128) Sig.none
    4 * (j / 2) + sup.regs2 m.indexBase m.fmt.indexRegs / 2 ^ (2 * j) % 4
  else j

/-- Element pos of column c of B under its scale (R128, R129). -/
def mmaB (m : Mma) (x : MmaIn) (c pos : Nat) : FVal :=
  let w := m.fmt.width
  let K := m.fmt.k
  let b := m.fmt.elem true ((if pos < K then x.lb else x.lb2).getD c 0 / 2 ^ (w * (pos % K)) % 2 ^ w)
  if m.fmt.scaled then
    let vc := m.o.c.toNat
    fmulEx b (scaleByte x c (if pos < K then vc else vc + 24) (16 + (4 * m.o.selB.toNat + pos % K / 16) % 16))
  else b

/-- Stored element j of row r of A under its scale (R128). -/
def mmaA (m : Mma) (x : MmaIn) (r j : Nat) : FVal :=
  let w := m.fmt.width
  let a := m.fmt.elem false (x.la.getD r 0 / 2 ^ (w * j) % 2 ^ w)
  if m.fmt.scaled then fmulEx a (scaleByte x r m.o.c.toNat ((4 * m.o.selA.toNat + j / 16) % 16)) else a

/-- The exact product of stored element j of row r of A with its row of column c of B (R121, R129). -/
def mmaProduct (m : Mma) (x : MmaIn) (r c j : Nat) : FVal := fmulEx (mmaA m x r j) (mmaB m x c (mmaPos m x r j))

/-- The logical positions that no stored element of row r names: A is exactly zero there (R129). (log 84, DEDUCED) -/
def mmaOmitted (m : Mma) (x : MmaIn) (r : Nat) : List Nat :=
  if m.o.sp then
    let named := (List.range m.fmt.k).map (mmaPos m x r)
    (List.range (2 * m.fmt.k)).filter (fun n => !named.contains n)
  else []

/-- mma_element (R121): the exact sum, +0 where it is zero, and the two roundings. (log 84, DEDUCED) -/
def mmaElement (m : Mma) (x : MmaIn) (omitted : List Nat) (old : Nat) (r c : Nat) : Nat :=
  let stored := (List.range m.fmt.k).foldl (fun acc j => faddEx .rn acc (mmaProduct m x r c j)) (.fin false 0 0)
  let s := omitted.foldl (fun acc n => faddEx .rn acc (fmulEx (.fin false 0 0) (mmaB m x c n))) stored
  let t := (roundTo fa64 .rn (if s.isZero then .fin false 0 0 else s)).1
  (roundEnc fa64 .rn (faddEx .rn (fa64.decode old) t)).1

def Tile.elem (t : Tile) (n : Nat) : Nat := (tgetD t n 0).toNat
/-- A tile with every element given by f, row by row; +0 is not listed. -/
def tileOf (f : Nat → Nat → Nat) : Tile :=
  (((List.range 128).map (fun r =>
    let row := f r
    (List.range 128).map (fun c => (128 * r + c, BitVec.ofNat 64 (row c))))).flatten).filter (fun e => e.2 != 0)

def mmaTile (m : Mma) (x : MmaIn) (old : Tile) : Tile :=
  tileOf (fun r =>
    let omitted := mmaOmitted m x r
    fun c => mmaElement m x omitted (Tile.elem old (128 * r + c)) r c)

/-! ### ACLD and ACDR (R135, R136) -/

/-- The exact value of a source element in FA64. -/
def acldElement (st : Ty) (x : Nat) : Nat :=
  (roundEnc fa64 .rn (if st.isInt then FVal.ofInt (intOf st x) else (Ty.fmt st).decode x)).1

def acldTile (b : Block) (ptr : DWord) (st : Ty) : Tile :=
  let n := st.width / 8
  tileOf (fun r c => acldElement st (b.get (tileAddr (tpOffset ptr) ptr r (n * c) (128 * n)) n))

/-- One drained element (R136). -/
def acdrElement (scale : Option Word) (ot : Ty) (rm : Rm) (nosat : Bool) (x : Nat) : Nat :=
  let v := match scale with
    | some s => fmulEx (fa64.decode x) (f32.decode s.toNat)
    | none => fa64.decode x
  if ot.isInt then intBits ot (cvtInt ot rm v).1 else (cvtFp (Ty.fmt ot) rm nosat v).1

/-- The block with a drained tile written. -/
def Block.drain (b : Block) (t : Tile) (ptr : DWord) (scale : Option Word) (ot : Ty) (rm : Rm) (nosat : Bool) : Block :=
  let n := ot.width / 8
  (List.range 16384).foldl (fun b k =>
    b.put (tileAddr (tpOffset ptr) ptr (k / 128) (n * (k % 128)) (128 * n)) n (acdrElement scale ot rm nosat (Tile.elem t k))) b

end Sys2Proof.Machine
end

