-- ==== Sys2Proof/Machine/Engine.lean ====
section
/-! DEFINITION. Machine/Engine.lean: a core's matrix engine, its queue and its accumulator tiles (spec/06 R131 to R138,
spec/03 R63), and the failures of engine operations after their issue (spec/11 R239). -/

namespace Sys2Proof.Machine

/-! ### Failures after issue (R239, R248) -/

/-- A trap caused by an engine operation is taken at the issuing group's next issue; when the group has ended it is
unhandled (R239). (log 77, DEDUCED) -/
def State.engTrap (s : State) (p gid lane : Nat) (pc : Addr) (cause : BitVec 8) (taddr : DWord) : State :=
  match s.loc p gid with
  | none => s
  | some l =>
    if l.grp.alive then
      s.updGroup p gid (fun g => { g with deferred := g.deferred ++ [{ lanes := allLanes, cause := cause, tpc := pc, taddr := taddr, lane := lane, whole := true }] })
    else s.unhandled l (laneBit lane) cause pc taddr lane

/-! ### The queue (R131) -/

def EngOp.isMarker (o : EngOp) : Bool :=
  match o.kind with
  | .marker _ => true
  | _ => false

/-- Operations that have not started; a marker occupies no entry (R360). -/
def Engine.waiting (e : Engine) : Nat := (e.queue.filter (fun o => !o.isMarker)).length
def Engine.ops (e : Engine) : List EngOp := e.run.toList ++ e.queue

/-- The signers of a KSGN retire: their waits are released (R132). -/
def Pkg.release (k : Pkg) (sigs : List Sig) : Pkg :=
  sigs.foldl (fun k x => k.updGroup x.gid (fun g => { g with holds := g.holds.map (fun h =>
    match h.kind, h.data with
    | .ksgn, [r, m, _] => if h.addr == x.pc then { h with data := [r, m, 1] } else h
    | _, _ => h) })) k

/-- Markers at the head of an idle engine are taken, and the next operation starts. -/
def Pkg.engKick (k : Pkg) (core : Nat) : Nat → Pkg
  | 0 => k
  | fuel + 1 =>
    let e := (k.core core).eng
    match e.run, e.queue with
    | none, o :: rest =>
      if e.stopped then k
      else
        let k1 := k.updCore core (fun c => { c with eng := { c.eng with queue := rest } })
        match o.kind with
        | .marker sigs => (k1.release sigs).engKick core fuel
        | _ => k1.updCore core (fun c => { c with eng := { c.eng with run := some { o with started := k.arith } } })
    | _, _ => k

def engFuel : Nat := 256
def Pkg.enqueueEng (k : Pkg) (core : Nat) (o : EngOp) : Pkg :=
  (k.updCore core (fun c => { c with eng := { c.eng with queue := c.eng.queue ++ [o] } })).engKick core engFuel

/-! ### Tiles and ACAL (R63, R134, R299) -/

/-- A name is bound, physically or swapped out (R299). -/
def Block.bound (b : Block) (t : Nat) : Bool := thas b.tiles t || thas b.swapped t
def Block.boundCount (b : Block) : Nat := b.tiles.length + b.swapped.length
def tilesIn (mask : Nat) : List Nat := (List.range 4).filter mask.testBit

/-- Physical tiles that are free on a core; a parked block keeps its own until it resumes or ends (R138). -/
def Pkg.freeTiles (k : Pkg) (core : Nat) : Nat := 4 - ((k.blocks.filter (fun e => e.2.tileCore == some core)).map (fun e => e.2.tiles.length)).sum
/-- The tiles that blocks bring to a core have room there, beside those that they hold there already. -/
def Pkg.tilesFit (k : Pkg) (core : Nat) (bs : List Nat) : Bool :=
  let mine := bs.filterMap (tget k.blocks)
  decide ((mine.map (·.tiles.length)).sum ≤ k.freeTiles core + ((mine.filter (fun x => x.tileCore == some core)).map (·.tiles.length)).sum)

/-- A waiting ACAL: the block's age, since when, the slot, where it stands and its mask. -/
structure TileReq where
  age : Nat
  since : Nat
  slot : Nat
  blk : Nat
  gid : Nat
  addr : Addr
  mask : Nat
deriving DecidableEq, Repr

def TileReq.before (x y : TileReq) : Bool :=
  if x.age != y.age then decide (x.age < y.age) else if x.since != y.since then decide (x.since < y.since) else decide (x.slot < y.slot)
def insertTile (x : TileReq) : List TileReq → List TileReq
  | [] => [x]
  | y :: ys => if x.before y then x :: y :: ys else y :: insertTile x ys

/-- The waiting requests of a core, the oldest block's first. (log 45, DEDUCED) -/
def Pkg.tileReqs (k : Pkg) (core : Nat) : List TileReq :=
  let of_ := fun (e : Nat × Group) => match tget k.blocks e.2.blk with
    | some b => if b.core = core && residentState b.state then e.2.holds.filterMap (fun h => match h.kind, h.data with
        | .acal, [m, 0] => some ({ age := b.age, since := h.since, slot := e.2.slot, blk := e.2.blk, gid := e.1, addr := h.addr, mask := m } : TileReq)
        | _, _ => none) else []
    | none => []
  ((k.groups.map of_).flatten).foldr insertTile []

/-- The operations of a block that are queued or running, on whatever core they entered (R67, R135). -/
def Pkg.opsOf (k : Pkg) (b : Nat) : List EngOp := ((k.cores.map (fun e => e.2.eng.ops)).flatten).filter (fun o => o.blk == b)
/-- Matrix operations of a block that are queued or running. -/
def Pkg.matrixBusy (k : Pkg) (b : Nat) : Bool := (k.opsOf b).any (fun o => !o.isMarker)

/-- Grants one request: the swapped tiles come back, the new ones hold +0 (R63, R134). -/
def Pkg.grantTile (k : Pkg) (core : Nat) (r : TileReq) : Pkg :=
  (k.updBlock r.blk (fun b => { b with tileCore := some core, tiles := b.tiles ++ b.swapped ++ (tilesIn r.mask).map (fun t => (t, [])), swapped := [] })).updGroup r.gid
    (fun g => { g with holds := g.holds.map (fun h => if h.addr == r.addr && h.kind == .acal then { h with data := [r.mask, 1] } else h) })

/-- The youngest block younger than the oldest waiter that holds tiles and itself waits (R63). -/
def Pkg.swapVictim (k : Pkg) (r : TileReq) (reqs : List TileReq) : Option Nat :=
  let cands := reqs.filter (fun x => x.blk != r.blk && decide (r.age < x.age) &&
    (match tget k.blocks x.blk with | some b => !b.tiles.isEmpty | none => false))
  (cands.foldl (fun (best : Option TileReq) x => match best with
    | none => some x
    | some y => if y.age < x.age then some x else best) none).map (·.blk)

/-- Grants in block age order; a holder that waits is swapped out once its matrix operations have completed (R63). The swap is a
release at pod scope for its threads, and the return of its tiles an acquire (R193). -/
def State.grantTiles (s : State) (p core : Nat) : Nat → State
  | 0 => s
  | fuel + 1 =>
    let k := s.pkg p
    let reqs := k.tileReqs core
    match reqs with
    | [] => s
    | r :: _ =>
      let back := ((tget k.blocks r.blk).map (fun b => b.swapped.length)).getD 0
      if (tilesIn r.mask).length + back ≤ k.freeTiles core then
        let s1 := s.updPkg p (·.grantTile core r)
        (if back = 0 then s1 else s1.podAcquire p [r.blk]).grantTiles p core fuel
      else match k.swapVictim r reqs with
        | none => s
        | some b =>
          if k.matrixBusy b then s
          else
            let d := s.podDrain p (((k.nodeOf b).map (·.asid)).getD 0) [b]
            if !d.1 then d.2
            else (d.2.updBlock p b (fun x => { x with swapped := x.swapped ++ x.tiles, tiles := [] })).grantTiles p core fuel

def tileFuel : Nat := 64

/-! ### Operand waits and struck words of an engine operation (R127, R262) -/

def EngOp.mma (o : EngOp) : Option Mma :=
  match o.kind with
  | .mma w _ => mmaOf (decode w.1 (w.2.getD 0))
  | _ => none

/-- The granules that an operation waits for: its scratchpad sources. -/
def EngOp.sources (o : EngOp) : List Nat :=
  match o.kind with
  | .mma _ sigs => match o.mma with
    | some m => ((m.tilesOf ((sigs.head?.map (·.ptrs)).getD [])).map (fun t => tpGranules t.1 t.2 128 128)).flatten
    | none => []
  | .acld ptr st => tpGranules (tpOffset ptr) ptr 128 (16 * st.width)
  | _ => []

/-- Does it read the tile it names? -/
def EngOp.readsTile (o : EngOp) : Bool :=
  match o.kind with
  | .mma _ _ | .acdr _ _ _ _ _ => true
  | _ => false

/-- The struck words among those that it reads. -/
def State.engWords (s : State) (p : Nat) (o : EngOp) : List SramWord :=
  (s.strikes.filter (fun x => x.pkg == p && (match x.word with
    | .scratch b w => b == o.blk && o.sources.contains (w / 2)
    | .fullBit b g => b == o.blk && o.sources.contains g
    | .tile b t _ => b == o.blk && o.readsTile && t == o.tile
    | _ => false))).map (·.word)

/-- The operands of an operation are there. The spec lets the engine read each granule once it is full; the model reads them all
at the completion, and asks that every one be full at that moment (R127). (log 101, DESIGN CHOICE) -/
def Block.ready (b : Block) (o : EngOp) : Bool := o.sources.all b.isFull && b.bound o.tile && thas b.tiles o.tile

/-- The operand lines of an MMA as the engine reads them (R373). -/
def mmaRead (m : Mma) (b : Block) (sigs : List Sig) : MmaIn :=
  let ps := (sigs.head?.map (·.ptrs)).getD []
  let lines := fun (base : Nat) (ptr : DWord) => (List.range 128).map (fun r => b.line base ptr r 128)
  { la := if m.o.as then lines (tpOffset (m.ptrA ps)) (m.ptrA ps) else sigs.map (fun x => x.regs2 m.o.a.toNat 32),
    lb := if m.o.bs then lines (tpOffset (m.ptrB ps)) (m.ptrB ps) else sigs.map (fun x => x.regs2 m.o.b.toNat 32),
    lb2 := if m.o.bs && m.o.sp then lines (tpOffset (m.ptrB ps) + tpTpitch (m.ptrB ps)) (m.ptrB ps) else [],
    signers := sigs }

/-! ### Ends of operations -/

/-- The running operation ends; the next starts, and waiting requests for tiles are looked at again. -/
def State.engEnd (s : State) (p core : Nat) : State :=
  (s.updPkg p (fun k => (k.updCore core (fun c => { c with eng := { c.eng with run := none } })).engKick core engFuel)).grantTiles p core tileFuel

/-- A clean read of an operation's words, or cause 0x07 for its issuing group (R248, R262). -/
def State.engRead (s : State) (p core : Nat) (o : EngOp) : Bool × State :=
  let rd := s.readWords p (unitCore core) (s.engWords p o)
  if rd.1 then (false, (rd.2.engEnd p core).engTrap p o.gid o.lane o.pc 0x07 0) else (true, rd.2)

/-- A tile written whole has fresh check bits (R262). -/
def State.setTile (s : State) (p b t : Nat) (x : Tile) : State :=
  let s1 := s.updBlock p b (fun y => { y with tiles := tset y.tiles t x })
  { s1 with strikes := s1.strikes.filter (fun y => !(y.pkg == p && (match y.word with | .tile b' t' _ => b' == b && t' == t | _ => false))) }

/-- The running operation of a core, where it is one that f accepts, has had its clocks and finds its operands. -/
def State.engDone (s : State) (p core clocks : Nat) (f : EngOp → Bool) : Option (EngOp × Block) :=
  let k := s.pkg p
  match (k.core core).eng.run with
  | some o =>
    if f o && decide (o.started + clocks ≤ k.arith) then
      match tget k.blocks o.blk with
      | some b => if b.ready o then some (o, b) else none
      | none => none
    else none
  | none => none

/-- The block of an operation has been dropped, or its node cancelled (R59, R138). -/
def Pkg.dropped (k : Pkg) (b : Nat) : Bool :=
  match k.nodeOf b with
  | some n => n.cancelled
  | none => true

/-- A running operation whose block is gone or cancelled completes into a tile that is unbound (R138). -/
def State.engOrphan (s : State) (p core : Nat) : State :=
  let k := s.pkg p
  match (k.core core).eng.run with
  | some o => if k.dropped o.blk then s.engEnd p core else s
  | none => s

/-- The persistent mismatch (R137): the operations of the engine are held with their blocks and the core retires. Operations of a
block that is resident on another core by now enter that core's queue first; a parked one is readied, to resume with its own.
(log 78, DEDUCED) -/
def Pkg.holdOps (k : Pkg) (core : Nat) : Pkg :=
  let ops := (k.core core).eng.ops.map (fun o => { o with mismatches := 0 })
  let k1 := k.updCore core (fun c => { c with eng := { run := none, queue := [], stopped := true } })
  let away := fun (o : EngOp) => match tget k.blocks o.blk with
    | some b => if residentState b.state && b.core != core then some b.core else none
    | none => none
  let hold := fun (k : Pkg) (o : EngOp) => match tget k.blocks o.blk with
    | some b =>
      let k2 := k.updBlock o.blk (fun b => { b with held := b.held ++ [o] })
      if b.state == .parked then k2.updCluster b.cluster (fun c => { c with ready := true }) else k2
    | none => k
  let k2 := (ops.filter (fun o => (away o).isNone)).foldl hold k1
  let k3 := (ops.filter (fun o => (away o).isSome)).reverse.foldl (fun k o => match away o with
    | some c => k.updCore c (fun x => { x with eng := { x.eng with queue := o :: x.eng.queue } })
    | none => k) k2
  (((ops.filterMap away).foldl addOnce []).foldl (fun k c => k.engKick c engFuel) k3).retireCore core

/-- MMA_COMPLETE (R137, R373). (log 78, DEDUCED) -/
def State.mmaDone (s : State) (p core : Nat) (residueBad : Bool) : State :=
  match s.engDone p core 128 (fun o => o.mma.isSome) with
  | none => s.engOrphan p core
  | some (o, b) =>
    match o.kind, o.mma with
    | .mma _ sigs, some m =>
      if residueBad then
        let s1 := s.bump p (unitCore core) wResc
        if o.mismatches < 2 then
          s1.updCore p core (fun c => { c with eng := { c.eng with run := some { o with mismatches := o.mismatches + 1, started := (s.pkg p).arith } } })
        else s1.updPkg p (·.holdOps core)
      else
        let rd := s.engRead p core o
        if !rd.1 then rd.2
        else (rd.2.setTile p o.blk o.tile (mmaTile m (mmaRead m b sigs) (tgetD b.tiles o.tile []))).engEnd p core
    | _, _ => s

/-- ACZR_COMPLETE (R135). -/
def State.aczrDone (s : State) (p core : Nat) : State :=
  match s.engDone p core 16 (fun o => o.kind == .aczr) with
  | none => s.engOrphan p core
  | some (o, _) => (s.setTile p o.blk o.tile []).engEnd p core

def EngOp.isAcld (o : EngOp) : Bool :=
  match o.kind with
  | .acld _ _ => true
  | _ => false
def EngOp.isAcdr (o : EngOp) : Bool :=
  match o.kind with
  | .acdr _ _ _ _ _ => true
  | _ => false

/-- ACLD_COMPLETE (R135). -/
def State.acldDone (s : State) (p core : Nat) : State :=
  match s.engDone p core 128 EngOp.isAcld with
  | none => s.engOrphan p core
  | some (o, b) => match o.kind with
    | .acld ptr st =>
      let rd := s.engRead p core o
      if !rd.1 then rd.2 else (rd.2.setTile p o.blk o.tile (acldTile b ptr st)).engEnd p core
    | _ => s

/-- ACDR_COMPLETE: the converted elements, then the full bits of the granules (R135, R136). -/
def State.acdrDone (s : State) (p core : Nat) : State :=
  match s.engDone p core 128 EngOp.isAcdr with
  | none => s.engOrphan p core
  | some (o, b) => match o.kind with
    | .acdr ptr scale ot rm nosat =>
      let rd := s.engRead p core o
      if !rd.1 then rd.2
      else
        let gs := tpGranules (tpOffset ptr) ptr 128 (16 * ot.width)
        let s1 := rd.2.updBlock p o.blk (·.drain (tgetD b.tiles o.tile []) ptr scale ot rm nosat)
        let s2 := s1.mend p ((gs.map (fun g => [SramWord.scratch o.blk (2 * g), SramWord.scratch o.blk (2 * g + 1)])).flatten)
        (gs.foldl (fun s g => s.fill p o.blk g) s2).engEnd p core
    | _ => s

end Sys2Proof.Machine
end

