-- ==== Sys2Proof/Machine/Rings.lean ====
section
/-! DEFINITION. Machine/Rings.lean: stage rings (spec/19 R385 to R389). -/

namespace Sys2Proof.Machine

/-! ### Ring state -/

def RingSlot.fresh : RingSlot := { full := false, ph := false, arr := 0, tgt := 1 }
def Ring.unset : Ring := { slots := [], inflight := 0 }
def Block.ring (b : Block) (q : Nat) : Ring := tgetD b.rings q Ring.unset
def Block.setRing (b : Block) (q : Nat) (r : Ring) : Block := { b with rings := tset b.rings q r }

/-- One arrival at a slot (R388); none on misuse. -/
def Ring.arrive (r : Ring) (slot cnt : Nat) (cons : Bool) : Option Ring :=
  match r.slots[slot]? with
  | none => none
  | some x =>
    if cnt < 1 || 32 < cnt then none
    else if x.full != cons then none
    else if 0 < x.arr && cnt != x.tgt then none
    else
      let tgt := if x.arr = 0 then cnt else x.tgt
      let arr := x.arr + 1
      let y : RingSlot :=
        if arr = tgt then { full := !cons, ph := if cons then !x.ph else x.ph, arr := 0, tgt := tgt }
        else { x with arr := arr, tgt := tgt }
      some { r with slots := r.slots.set slot y }

/-- The condition of a QWT (R389). -/
def Ring.met (r : Ring) (slot : Nat) (cons e : Bool) : Bool :=
  match r.slots[slot]? with
  | some x => x.full == cons && x.ph == e
  | none => false

/-- A QWT's wait: ring, slot, .cons, phase, and whether an arrival has met it. -/
def qwtData (q slot : Nat) (cons e met : Bool) : List Nat := [q, slot, Config.b2n cons, Config.b2n e, Config.b2n met]
def Hold.qwtTest (h : Hold) (q : Nat) (r : Ring) : Hold :=
  match h.kind, h.data with
  | .qwt, [q', slot, c, e, m] => if q' = q && (m = 1 || r.met slot (c == 1) (e == 1)) then { h with data := qwtData q slot (c == 1) (e == 1) true } else h
  | _, _ => h

/-- The waits of a block are tested after every arrival (R389). -/
def State.ringTest (s : State) (p b q : Nat) : State :=
  match tget (s.pkg p).blocks b with
  | none => s
  | some x => ((s.pkg p).groupsOf b).foldl (fun s g => s.updGroup p g (fun y => { y with holds := y.holds.map (fun h => h.qwtTest q (x.ring q)) })) s

/-- An arrival of a group or an engine at a block's ring; none on misuse. -/
def State.ringArrive (s : State) (p b q slot cnt : Nat) (cons : Bool) : Option State :=
  match (tget (s.pkg p).blocks b).bind (fun x => (x.ring q).arrive slot cnt cons) with
  | none => none
  | some r => some ((s.updBlock p b (·.setRing q r)).ringTest p b q)

/-! ### The instructions -/

/-- R387. -/
def execQcfg (q : BitVec 4) (n : BitVec 9) (s : State) : Out :=
  issue { uni := true, bad := n == 0 || decide (16 < n.toNat) } (fun i s =>
    let r := i.loc.blk.ring q.toNat
    if r.slots.any (fun x => x.full || decide (0 < x.arr)) || r.inflight != 0 then .bad 0x0B
    else .ok (s.updBlock i.loc.p i.loc.grp.blk (·.setRing q.toNat { slots := List.replicate n.toNat RingSlot.fresh, inflight := 0 }))) s

/-- R388: misuse and reserved bits of the slot word are before traps; a release at blk scope that does not otherwise
wait. -/
def execQarv (gd : Guard) (a : Reg) (q : BitVec 4) (cons : Bool) (s : State) : Out :=
  issue { gd := gd, uni := true, srcs := one a } (fun i s =>
    let l := i.loc
    let w := i.g.n i.leader a
    if w / 2 ^ 10 != 0 then .bad 0x0B
    else match (l.blk.ring q.toNat).arrive (w % 16) (w / 16 % 64) cons with
      | none => .bad 0x0B
      | some _ =>
        let rel := s.release l scBlk
        if !rel.1 then .wait .fence [] rel.2
        else match rel.2.ringArrive l.p l.grp.blk q.toNat (w % 16) (w / 16 % 64) cons with
          | some s1 => .ok s1
          | none => .bad 0x0B) s

/-- R389. A condition met while the group waited stays met. -/
def execQwt (gd : Guard) (a : Reg) (q : BitVec 4) (cons e : Bool) (s : State) : Out :=
  issue { gd := gd, uni := true, srcs := one a } (fun i s =>
    let l := i.loc
    let slot := i.g.n i.leader a % 16
    let r := l.blk.ring q.toNat
    let was := match i.g.hold? i.addr with
      | some h => h.kind == .qwt && h.data == qwtData q.toNat slot cons e true
      | none => false
    if r.slots.length ≤ slot then .bad 0x0B
    else if was || r.met slot cons e then .ok (s.acquire l scBlk)
    else .wait .qwt (qwtData q.toNat slot cons e false) s) s

end Sys2Proof.Machine
end

