-- ==== Sys2Proof/Machine/EngineMem.lean ====
section
/-! DEFINITION. Machine/EngineMem.lean: how the tile streamer and the bulk transfer engines reach global memory (spec/09
R205, spec/07 R164), and when a cancelled node has come to rest (spec/03 R59). -/

namespace Sys2Proof.Machine

/-- What an engine's access comes to. -/
inductive EngRes where
  | ok (v : Nat)
  | wait
  | fault (k : FltKind)
  | misplaced
  | poisoned
  | uncached
deriving DecidableEq, Repr

/-- A read of n bytes within one sector, for an engine of a die: its L2, which asks for the tokens that it lacks (R176), or the home
for host memory and uncached pages (R205). `lay` is what the engine sees over the L2's bytes. -/
def State.dieLoad (s : State) (p d asid va n : Nat) (lay : SectorKey → SectorData → SectorData) : EngRes × State :=
  let key := s.keyOf p asid va
  let s := s.checkL2 p d key
  if s.l2Ready p d key false then
    match s.l2 p d key with
    | some e => (if e.psn then .poisoned else .ok (secGet (lay key e.data) (va % 64) n), s)
    | none => (.wait, s)
  else
    let r := s.translate p asid va false
    match r.1 with
    | .fault k => (.fault k, r.2)
    | .misplaced => (.misplaced, r.2)
    | .poisoned => (.poisoned, r.2)
    | .host _ a => (.ok (leNat (readBytes s.mem (hostCell a) n)), r.2)
    | .frame h lin wr nc =>
      if s.atHome p h nc then
        match r.2.vaRead p asid 2 va n with
        | (.ok bs, t) => (.ok (secGet (lay key (BitVec.ofNat 512 (leNat bs * 2 ^ (8 * (va % 64))))) (va % 64) n), t)
        | (_, t) => (.poisoned, t)
      else (.wait, r.2.startReq p d key (lin / 64 * 64) wr false 0)

/-- A write of n bytes within one sector: at the die's L2 with all 64 tokens, at the home, or into host memory (R205). With `far`, a
home in another package performs it (R316). -/
def State.dieStore (s : State) (p d asid : Nat) (far : Bool) (va n v : Nat) : EngRes × State :=
  let key := s.keyOf p asid va
  let s := s.checkL2 p d key
  if s.l2Ready p d key true && !(far && key.home != p) then
    match s.l2 p d key with
    | some e => (.ok 0, s.setL2 p d key { e with data := secPut e.data (va % 64) n v, dirty := e.own, psn := e.psn && n != 64 })
    | none => (.wait, s)
  else
    let r := s.translate p asid va true
    match r.1 with
    | .fault k => (.fault k, r.2)
    | .misplaced => (.misplaced, r.2)
    | .poisoned => (.poisoned, r.2)
    | .host _ a => (.ok 0, r.2.hostWrite a (leBytes n v))
    | .frame h lin wr nc =>
      if s.atHome p h nc || (far && h != p) then
        let pa := lin / 64 * 64
        (.ok 0, r.2.cohPut (r.2.tokenName key pa) pa (va % 64) n v)
      else (.wait, r.2.startReq p d key (lin / 64 * 64) wr true 0)

/-- A read by the tile streamer of a core: a version first (R250). -/
def State.engLoad (s : State) (p core : Nat) (fused : Bool) (asid cid : Nat) (clu : Option Cluster) (va n : Nat) : EngRes × State :=
  let key := s.keyOf p asid va
  let ver := clu.bind (·.verSec key)
  let rv := s.readVersion p (dieOfCore core) cid key ver.isSome
  let mix := fun (x : SectorData) => match ver with | some v => secMerge x v.mask v.data | none => x
  if rv.1 then (.poisoned, rv.2)
  else if (match ver with | some v => (v.mask &&& byteMask (va % 64) n) == byteMask (va % 64) n | none => false) then
    (.ok (secGet (mix 0) (va % 64) n), rv.2)
  else rv.2.dieLoad p (dieOfCore core) asid va n (fun k d => mix (rv.2.forwarded p core fused k d))

/-- A write by an engine for a block. A fused launch's L1s keep no older copy, since its blk and clu scopes invalidate none
(R153, R206). -/
def State.engStore (s : State) (p core : Nat) (fused : Bool) (asid va n v : Nat) : EngRes × State :=
  let r := s.dieStore p (dieOfCore core) asid false va n v
  (r.1, if fused then r.2.l1Drop p core true (s.keyOf p asid va) else r.2)

/-- The owner of an engine operation's entry in the operand log. (log 77, DEDUCED) -/
def engGid (id : Nat) : Nat := 2 ^ 44 + id

/-- A page fault of an engine operation: one record, in its thread's name, and the operation waits (R164, R291). (log 77, DEDUCED) -/
def State.engFault (s : State) (p asid id gid lane : Nat) (pc : Addr) (ptr : DWord) (write : Bool) (va : Nat) (k : FltKind) : State :=
  if (s.pkg p).olog.any (fun o => o.gid == engGid id && o.page == va / 65536) then s
  else
    let n := s.takeId p
    let acc : Acc :=
      { id := id, gid := gid, lane := lane, pc := pc, words := (0, none), op := .fetch, bytes := 1, ptr := ptr, va := va,
        priv := false, acq := false, rel := false, scope := 0, sample := false, replayed := false }
    let e : OLog := { id := n.1, asid := asid, gid := engGid id, core := 2 ^ 20, kind := k, page := va / 65536, write := write,
                      accs := [acc], waiting := true }
    n.2.updPkg p (fun x => ({ x with olog := x.olog ++ [e] } : Pkg).faultRec (x.ownerFn asid)
      { asid := asid, kind := k, write := write, nothread := true, va := va, name := s.threadName p gid lane })

/-! ### Cancelled nodes (R59) -/

/-- Engine operations of a block that a cancel waits for: bulk transfers and the running matrix operation. -/
def Pkg.opsLeft (k : Pkg) (b : Nat) : Bool :=
  k.btes.any (fun e => e.2.any (fun o => o.blk == some b)) ||
    k.cores.any (fun e => match e.2.eng.run with | some o => o.blk == b | none => false)

/-- A cancelled node's writes have all arrived: those that had left its cores, and what their combining buffers still hold (R208). -/
def State.cancelDrained (s : State) (p nid : Nat) (n : Node) : Bool × State :=
  let bs := ((s.pkg p).blocks.filter (fun b => b.2.node == nid)).map (·.1)
  let cores := (s.pkg p).buffersOf bs
  let s1 := s.cbDrain p n.asid cores
  (s1.cbClear p n.asid cores && !(s1.pkg p).pends.any (fun q => decide (q.acc.id ∈ n.drains)), s1)

/-- Cancelled nodes whose engine operations have completed, and whose writes have arrived, end with status 0x01 (R59, R208).
(log 26, DEDUCED) -/
def State.settleCancels (s : State) (p : Nat) : State :=
  let k := s.pkg p
  let ready := k.nodes.filter (fun e => e.2.cancelled && e.2.incomplete &&
    !k.blocks.any (fun b => b.2.node == e.1 && k.opsLeft b.1) && !k.btes.any (fun t => t.2.any (fun o => o.node == some e.1)))
  ready.foldl (fun s e =>
    let d := s.cancelDrained p e.1 e.2
    if d.1 then (d.2.updPkg p (fun k => k.dropBlocks ((k.blocks.filter (fun b => b.2.node == e.1)).map (·.1)))).endNode p e.1 1
    else d.2) s

/-- After an engine operation has completed: cancelled nodes end. -/
def State.afterEngine (s : State) (p : Nat) : State := s.settleCancels p

end Sys2Proof.Machine
end

