-- ==== Sys2Proof/Machine/Streamer.lean ====
section
/-! DEFINITION. Machine/Streamer.lean: the tile streamer, TLD and TST (spec/19 R403, R404), and the ends of the matrix
engine's operations with the wake of parked clusters (spec/06 R135, spec/03 R68). -/

namespace Sys2Proof.Machine

/-! ### Geometry (R403) -/

def geoRowb (x : DWord) : Nat := bits x 12 0
def geoReserved (x : DWord) : Nat := bits x 15 13
def geoRows (x : DWord) : Nat := bits x 27 16 + 1
def geoSlot (x : DWord) : Nat := bits x 31 28
def geoPitch (x : DWord) : Nat := bits x 57 32
def geoCnt (x : DWord) : Nat := bits x 63 58

/-- The operands of a TLD or TST: the leader's pairs, the ring of .arv, the pointer of .flag. -/
structure Copy2D where
  store : Bool
  gptr : DWord
  sptr : DWord
  geo : DWord
  ring : Option Nat
  flag : Option DWord

/-- Global row r of the copy (R403). -/
def Copy2D.row (m : Copy2D) (r : Nat) : DWord := addOff m.gptr (r * geoPitch m.geo)

/-- May a row be copied: a global range with its permission, or argument space for a TLD (R143, R404). (log 69, DEDUCED) -/
def rowOk (c : Ctx) (n : Node) (store : Bool) (ptr : DWord) (len : Nat) : Bool :=
  let fits := fun (b : Bound) => decide (b.base ≤ vaOf ptr) && decide (vaOf ptr + len - 1 ≤ b.limit) && b.grants (if store then .wr else .rd)
  match boundOf c n (ridOf ptr) with
  | some (.global, b) => fits b
  | some (.arg, b) => !store && fits b
  | _ => false

/-- The traps at issue, in the order of R404. (log 69, DEDUCED) -/
def Copy2D.bad (m : Copy2D) (l : Loc) : Option (BitVec 8 × DWord) :=
  let L := geoRowb m.geo
  let ring := m.ring.map l.blk.ring
  if m.flag.isSome && l.versioned then some (0x08, 0)
  else if geoReserved m.geo != 0 || decide (L < 16) || decide (4096 < L) || L % 16 != 0 || vaOf m.gptr % 16 != 0 ||
      geoPitch m.geo % 16 != 0 || tpBad m.sptr L || (m.flag.any (fun f => vaOf f % 4 != 0)) then some (0x04, 0)
  else match firstFrom (fun r => wraps m.gptr (r * geoPitch m.geo) || !rowOk l.ctx l.node m.store (m.row r) L) 0 (geoRows m.geo) with
    | some r => some (0x05, m.row r)
    | none =>
      if m.flag.any (fun f => !coversGlobal l.ctx l.node f 4 .wr) then some (0x05, m.flag.getD 0)
      else match tpOutside (tpOffset m.sptr) m.sptr (geoRows m.geo) L l.node.desc.scratch with
        | some o => some (0x05, BitVec.ofNat 64 o)
        | none =>
          if ring.any (fun r => decide (r.slots.length ≤ geoSlot m.geo) || geoCnt m.geo == 0 || decide (32 < geoCnt m.geo)) then some (0x0B, 0)
          else none

def Block.flight (b : Block) (q : Option Nat) (f : Nat → Nat) : Block :=
  match q with
  | some q => b.setRing q { b.ring q with inflight := f (b.ring q).inflight }
  | none => b

/-- TLD and TST at issue: the traps, room in the streamer, the fork, and the operation enters the block's queue. -/
def streamBody (f : Iss → Copy2D) (i : Iss) (s : State) : Res :=
  let l := i.loc
  let m := f i
  match m.bad l with
  | some (c, a) => .trap c a none 0
  | none =>
    if Config.streamerOps ≤ l.blk.stream.length then .wait .streamerFull [] s
    else
      let fk := s.fork l
      if !fk.1 then .wait .fence [] fk.2
      else
        let id := fk.2.takeId l.p
        let op : StreamOp :=
          { id := id.1, store := m.store, gid := l.g, lane := i.leader, pc := i.addr, gptr := m.gptr, sptr := m.sptr,
            geo := m.geo, ring := m.ring, flag := m.flag,
            todo := tpGranules (tpOffset m.sptr) m.sptr (geoRows m.geo) (geoRowb m.geo) }
        .ok (id.2.updBlock l.p l.grp.blk (fun b => { (b.flight m.ring (· + 1)) with stream := b.stream ++ [op] }))

/-- R403: qN without .arv raises cause 0x01. -/
def execTld (gd : Guard) (a b c : Reg) (q : BitVec 4) (arv : Bool) (s : State) : Out :=
  issue { gd := gd, uni := true, srcs := pairs [a, b, c], needRole := some 1, bad := !arv && q != 0 }
    (streamBody (fun i => { store := false, gptr := i.g.x i.leader a.toNat, sptr := i.g.x i.leader b.toNat, geo := i.g.x i.leader c.toNat,
                            ring := if arv then some q.toNat else none, flag := none })) s

/-- R403: qN without .arv, and xd without .flag, raise cause 0x01. -/
def execTst (gd : Guard) (d a b c : Reg) (q : BitVec 4) (arv flag : Bool) (s : State) : Out :=
  issue { gd := gd, uni := true, srcs := pairs [a, b, c] ++ (if flag then pairOf d else []), needRole := some 1,
          bad := (!arv && q != 0) || (!flag && d != 0) }
    (streamBody (fun i => { store := true, gptr := i.g.x i.leader b.toNat, sptr := i.g.x i.leader a.toNat, geo := i.g.x i.leader c.toNat,
                            ring := if arv then some q.toNat else none, flag := if flag then some (i.g.x i.leader d.toNat) else none })) s

/-! ### The streamer's work (R404) -/

/-- The two stored words of a granule with the global pointers of the words they hold (R126): scratchpad offset and
pointer. -/
def StreamOp.words (o : StreamOp) (g : Nat) : List (Nat × DWord) :=
  let L := geoRowb o.geo
  let n := L / 8
  let r := (16 * g - tpOffset o.sptr) / tpPitch o.sptr
  let j := (16 * g - tpOffset o.sptr) % tpPitch o.sptr / 8
  [0, 1].map (fun k =>
    let w := (j + k + r * tpRot o.sptr * (n - 1)) % n
    (16 * g + 8 * k, addOff o.gptr (r * geoPitch o.geo + 8 * w)))

/-- The front operation of a block leaves the streamer; its arrival is no longer outstanding. -/
def State.streamDrop (s : State) (p b : Nat) (o : StreamOp) : State :=
  let s1 := s.updBlock p b (fun x => { (x.flight o.ring (· - 1)) with stream := x.stream.filter (fun y => y.id != o.id) })
  s1.updPkg p (fun k => { k with olog := k.olog.filter (fun e => e.gid != engGid o.id) })

/-- A failure after issue: the operation's arrival and flag never occur (R239, R404). -/
def State.streamFail (s : State) (p b : Nat) (o : StreamOp) (cause : BitVec 8) (taddr : DWord) : State :=
  (s.streamDrop p b o).engTrap p o.gid o.lane o.pc cause taddr

/-- The operation has done its work: its arrival, and parked clusters are looked at. -/
def State.streamEnd (s : State) (p b : Nat) (o : StreamOp) : State :=
  let s1 := s.streamDrop p b o
  let s2 := match o.ring with
    | none => s1
    | some q => match s1.ringArrive p b q (geoSlot o.geo) (geoCnt o.geo) false with
      | some t => t
      | none => s1.engTrap p o.gid o.lane o.pc 0x0B 0
  s2.afterEngine p

/-- The block's context and cluster, as its streamer needs them. -/
def State.streamAt (s : State) (p b : Nat) : Option (Block × Node × Cluster) :=
  match tget (s.pkg p).blocks b with
  | none => none
  | some x => match tget (s.pkg p).nodes x.node, tget (s.pkg p).clusters x.cluster with
    | some n, some c => some (x, n, c)
    | _, _ => none

/-- Reads the words of a granule, all or none. -/
def State.streamRead (s : State) (p : Nat) (x : Block) (n : Node) (c : Cluster) : List (Nat × DWord) → List Nat → EngRes × List Nat × DWord × State
  | [], got => (.ok 0, got, 0, s)
  | w :: ws, got =>
    if ridOf w.2 == 0xFF then
      s.streamRead p x n c ws (got ++ [leNat ((n.args.drop (vaOf w.2)).take 8)])
    else
      let r := s.engLoad p x.core n.desc.fused n.asid x.cluster (some c) (vaOf w.2) 8
      match r.1 with
      | .ok v => r.2.streamRead p x n c ws (got ++ [v])
      | e => (e, [], w.2, r.2)

/-- What a failed or waiting access does to the operation. -/
def State.streamStop (s : State) (p b : Nat) (o : StreamOp) (asid : Nat) (write : Bool) (e : EngRes) (ptr : DWord) : State :=
  match e with
  | .fault k => s.engFault p asid o.id o.gid o.lane o.pc ptr write (vaOf ptr) k
  | .misplaced => s.streamFail p b o 0x0F ptr
  | .poisoned => s.streamFail p b o 0x07 ptr
  | .uncached => s.streamFail p b o 0x08 ptr
  | _ => s

/-- TLD_GRANULE_LANDS: granule number idx of those that the block's front TLD has still to write (R404). -/
def State.tldLand (s : State) (p b idx : Nat) : State :=
  match s.streamAt p b with
  | none => s
  | some (x, n, c) => match x.stream with
    | [] => s
    | o :: _ =>
      match (if o.store then none else o.todo[idx]?) with
      | none => s
      | some g =>
        let ws := o.words g
        let rd := s.streamRead p x n c ws []
        match rd.1 with
        | .ok _ =>
          let s1 := (ws.zip rd.2.1).foldl (fun s w => s.spWrite p b w.1.1 8 w.2) rd.2.2.2
          let o' : StreamOp := { o with todo := o.todo.filter (· != g) }
          let s2 := s1.updBlock p b (fun y => { y with stream := y.stream.map (fun z => if z.id == o.id then o' else z) })
          let s3 := s2.fill p b g
          if o'.todo.isEmpty then s3.streamEnd p b o else s3.afterEngine p
        | e => rd.2.2.2.streamStop p b o n.asid false e rd.2.2.1

def execTldGranuleLands (p b idx : Nat) (s : State) : Out := .next (s.tldLand p b idx)

/-- One word of a TST in a versioned cluster goes into the version; a full one takes a quota checkpoint (R251, R255). -/
def State.versionWord (s : State) (p : Nat) (x : Block) (n : Node) (va v : Nat) : EngRes × State :=
  let key := s.keyOf p n.asid va
  match s.translate p n.asid va true with
  | (.fault k, t) => (.fault k, t)
  | (.misplaced, t) => (.misplaced, t)
  | (.poisoned, t) => (.poisoned, t)
  | (.host _ _, t) => (.uncached, t)
  | (.frame h _ _ nc, t) =>
    if t.atHome p h nc then (.uncached, t)
    else match tget (t.pkg p).clusters x.cluster with
      | none => (.wait, t)
      | some c =>
        let ver := c.ver.getD Version.empty
        if ver.bytes + 64 * ver.grow [key] ≤ n.desc.quota then (.ok 0, t.updVersion p x.cluster (fun y => y.put key (va % 64) 8 v))
        else if c.committing.isSome || (t.pkg p).clusterBusy x.cluster true || (t.pkg p).clusterHalted x.cluster then (.wait, t)
        else
          -- a checkpoint that fails discards the run, and the word with it (R256)
          let t1 := t.quotaCheckpoint p x.cluster
          match tget (t1.pkg p).clusters x.cluster with
          | some y => if y.committing.isSome then (.ok 0, t1.updVersion p x.cluster (fun y => y.put key (va % 64) 8 v)) else (.wait, t1)
          | none => (.wait, t1)

/-- Writes the words of one full granule. -/
def State.streamWrite (s : State) (p : Nat) (x : Block) (n : Node) : List (Nat × DWord) → EngRes × DWord × State
  | [] => (.ok 0, 0, s)
  | w :: ws =>
    let v := x.get w.1 8
    let r := if n.desc.fault == 2 then s.versionWord p x n (vaOf w.2) v
      else s.engStore p x.core n.desc.fused n.asid (vaOf w.2) 8 v
    match r.1 with
    | .ok _ => r.2.streamWrite p x n ws
    | e => (e, w.2, r.2)

/-- Writes granules as far as it can; the granules left, and what stopped it. (log 51, DEDUCED) -/
def State.streamWrites (s : State) (p b : Nat) (o : StreamOp) (n : Node) : List Nat → List Nat × EngRes × DWord × State
  | [] => ([], .ok 0, 0, s)
  | g :: gs =>
    match tget (s.pkg p).blocks b with
    | none => ([], .ok 0, 0, s)
    | some x =>
      if !x.isFull g then (g :: gs, .wait, 0, s)
      else
        let core := unitCore x.core
        let rd := s.readWords p core [.fullBit b g, .scratch b (2 * g), .scratch b (2 * g + 1)]
        if rd.1 then (g :: gs, .poisoned, 0, rd.2)
        else
          let w := rd.2.streamWrite p x n (o.words g)
          match w.1 with
          | .ok _ =>
            let left := fun (z : StreamOp) => if z.id == o.id then { z with todo := gs } else z
            (w.2.2.updBlock p b (fun y => { y with stream := y.stream.map left })).streamWrites p b o n gs
          | e => (g :: gs, e, w.2.1, w.2.2)

/-- TST_COMPLETE: the front TST writes its full granules; with the last one its flag, a release at sys scope, and its
arrival (R404). -/
def State.tstDone (s : State) (p b : Nat) : State :=
  match s.streamAt p b with
  | none => s
  | some (x, n, _) => match x.stream with
    | [] => s
    | o :: _ =>
      if !o.store then s
      else
        let r := s.streamWrites p b o n o.todo
        let left := r.1
        let s1 := r.2.2.2.updBlock p b (fun y => { y with stream := y.stream.map (fun z => if z.id == o.id then { z with todo := left } else z) })
        match r.2.1 with
        | .ok _ =>
          match o.flag with
          | none => s1.streamEnd p b o
          | some f =>
            let w := s1.engStore p x.core n.desc.fused n.asid (vaOf f) 4 1
            match w.1 with
            | .ok _ => w.2.streamEnd p b o
            | e => w.2.streamStop p b o n.asid true e f
        | e => s1.streamStop p b o n.asid true e r.2.2.1

def execTstComplete (p b : Nat) (s : State) : Out := .next (s.tstDone p b)

/-! ### Ends of the matrix engine's operations -/

def execMmaComplete (p core : Nat) (residueBad : Bool) (s : State) : Out := .next ((s.mmaDone p core residueBad).afterEngine p)
def execAczrComplete (p core : Nat) (s : State) : Out := .next ((s.aczrDone p core).afterEngine p)
def execAcldComplete (p core : Nat) (s : State) : Out := .next ((s.acldDone p core).afterEngine p)
def execAcdrComplete (p core : Nat) (s : State) : Out := .next ((s.acdrDone p core).afterEngine p)

end Sys2Proof.Machine
end

