-- ==== Sys2Proof/Machine/Bulk.lean ====
section
/-! DEFINITION. Machine/Bulk.lean: the bulk transfer engines, BXI and BXW (spec/15 R315 to R318). -/

namespace Sys2Proof.Machine

/-! ### The copy control block (R315) -/

def ccbPtr (w : List Word) (i : Nat) : DWord := w.getD (i + 1) 0 ++ w.getD i 0
def ccbNat (w : List Word) (i : Nat) : Nat := (w.getD i 0).toNat
def ccbSrc (w : List Word) : DWord := ccbPtr w 0
def ccbDst (w : List Word) : DWord := ccbPtr w 2
def ccbRowBytes (w : List Word) : Nat := ccbNat w 4
def ccbRows (w : List Word) : Nat := ccbNat w 5
def ccbRecord (w : List Word) : DWord := ccbPtr w 8
def ccbTag (w : List Word) : Nat := ccbNat w 10
def ccbQuiet (w : List Word) : Bool := bit (w.getD 11 0) 0

/-- The fields hold their legal values. -/
def ccbOk (w : List Word) : Bool :=
  decide (1 ≤ ccbRowBytes w) && decide (ccbRowBytes w ≤ 16777216) && decide (1 ≤ ccbRows w) && decide (ccbRows w ≤ 65536) &&
    (ccbRows w == 1 || decide (ccbRowBytes w ≤ ccbNat w 7)) && bits (w.getD 11 0) 31 1 == 0 &&
    (w.drop 12).all (· == 0)

/-- A block read at issue and not yet resolved holds its pointer alone (R316, R161). -/
def BteOp.unread (o : BteOp) : Bool := o.ccb.length == 2

/-- Traps 2 and 3 of R316 for the completion record. -/
def ccbRecordBad (c : Ctx) (n : Node) (w : List Word) : Option (BitVec 8 × DWord) :=
  if vaOf (ccbRecord w) % 16 != 0 then some (0x04, ccbRecord w)
  else if !coversGlobal c n (ccbRecord w) 16 .wr then some (0x05, ccbRecord w) else none

/-- A fetch of an engine's parameters or of a completion record, as the operand log holds it. -/
def Iss.fetchAcc (i : Iss) (id : Nat) (ptr : DWord) : Acc :=
  { id := id, gid := i.loc.g, lane := i.leader, pc := i.addr, words := i.words, op := .fetch, bytes := 64, ptr := ptr,
    va := vaOf ptr, priv := false, acq := false, rel := false, scope := 0, sample := false, replayed := false }

/-! ### BXI -/

def State.enqueueBte (s : State) (p e : Nat) (o : BteOp) : State :=
  s.updPkg p (fun k => { k with btes := tset k.btes e (k.bte e ++ [o]) })

/-- R316. -/
def bxiBody (a : Reg) (i : Iss) (s : State) : Res :=
  let l := i.loc
  let ptr := i.g.x i.leader a.toNat
  let op := fun (id : Nat) (w : List Word) => ({
    id := id, asid := l.asid, inc := l.ctx.inc, blk := some l.grp.blk, node := none, gid := l.g, lane := i.leader, ccb := w, die := l.die,
    cancelled := false, wait := none, done := 0 } : BteOp)
  if l.versioned then .bad 0x08
  else if vaOf ptr % 64 != 0 then .badAt 0x04 ptr i.leader
  else if !rowOk l.ctx l.node false ptr 64 then .badAt 0x05 ptr i.leader
  else
    let rd := if ridOf ptr == 0xFF then (VaRes.ok ((l.node.args.drop (vaOf ptr)).take 64), s) else s.vaRead l.p l.asid 65 (vaOf ptr) 64
    let enter := fun (w : List Word) (s : State) (f : Nat → State → State) =>
      match (s.pkg l.p).shortestBte s.part l.die with
      | none => Res.wait .bteFull [] s
      | some e =>
        let fk := s.fork l
        if !fk.1 then Res.wait .fence [] fk.2
        else
          let id := fk.2.takeId l.p
          Res.ok (f id.1 (id.2.enqueueBte l.p e (op id.1 w)))
    match rd.1 with
    | .misplaced _ => .badAt 0x0F ptr i.leader
    | .poisoned _ => .badAt 0x07 ptr i.leader
    | .fault k _ =>
      if decide (Config.ologEntries ≤ (s.pkg l.p).ologOf l.core) then .wait .table [] s
      else enter [ptr.extractLsb' 0 32, ptr.extractLsb' 32 32] rd.2 (fun id s => s.logFaults l false [(i.fetchAcc id ptr, k)])
    | .ok bs =>
      let w := wordsOf bs
      match ccbRecordBad l.ctx l.node w with
      | some (c, x) => .badAt c x i.leader
      | none => enter w rd.2 (fun _ s => s)

def execBxi (gd : Guard) (a : Reg) (s : State) : Out :=
  issue { gd := gd, uni := true, srcs := pairOf a, needRole := some 1 } (bxiBody a) s

/-! ### BXW -/

/-- R318. A page fault of its read is reported as any access's, and the wait goes on. -/
def bxwBody (a b : Reg) (i : Iss) (s : State) : Res :=
  let l := i.loc
  let waiting := match i.g.hold? i.addr with | some h => h.kind == .bxw | none => false
  let ptr := i.g.x i.leader a.toNat
  let tag := i.g.v i.leader b.toNat
  if vaOf ptr % 16 != 0 then .badAt 0x04 ptr i.leader
  else if !rowOk l.ctx l.node false ptr 16 then .badAt 0x05 ptr i.leader
  else if !waiting && s.orderWait l.p l.g then .wait .pending [] s
  else
    let rd := if ridOf ptr == 0xFF then (VaRes.ok ((l.node.args.drop (vaOf ptr)).take 8), s) else s.vaRead l.p l.asid 9 (vaOf ptr) 8
    let data := [vaOf ptr, tag.toNat]
    match rd.1 with
    | .misplaced _ => .badAt 0x0F ptr i.leader
    | .poisoned _ => .badAt 0x07 ptr i.leader
    | .fault k _ =>
      if (rd.2.pkg l.p).olog.any (fun o => o.gid == l.g && o.page == vaOf ptr / 65536) || decide (Config.ologEntries ≤ (s.pkg l.p).ologOf l.core) then
        .wait .bxw data rd.2
      else
        let id := rd.2.takeId l.p
        .wait .bxw data (id.2.logFaults l false [(i.fetchAcc id.1 ptr, k)])
    | .ok bs =>
      if wordOf bs == tag && bs.getD 4 0 != 0 then .ok (rd.2.acquire l 7) else .wait .bxw data rd.2

def execBxw (gd : Guard) (a b : Reg) (s : State) : Out :=
  issue { gd := gd, uni := true, srcs := pairOf a ++ one b, needRole := some 1 } (bxwBody a b) s

/-! ### The transfer (R316, R317) -/

/-- What stopped a transfer: nothing, a status of R317, tokens that are still to come, or a page fault at one of its pointers. -/
inductive BteStop where
  | end_ (status : Nat)
  | tokens
  | fault (ptr : DWord) (write : Bool) (va : Nat) (k : FltKind)
deriving DecidableEq, Repr

/-- The bounds check of an engine: any launch's arguments are out of its reach. -/
def engBound (c : Ctx) (ptr : DWord) (n : Nat) (perm : Perm) : Bool := cpBound c ptr n perm

/-- What stops a transfer at an access that fails or waits. -/
def EngRes.bteStop (e : EngRes) (ptr : DWord) (write : Bool) : BteStop :=
  match e with
  | .fault k => .fault ptr write (vaOf ptr) k
  | .poisoned => .end_ (if write then 4 else 5)
  | .wait => .tokens
  | _ => .end_ 4

/-- Copies from byte `pos` of the transfer on, chunk by chunk; the fuel is the bytes that are left. A fused launch's L1s keep no
older copy (R153). (log 30, DEDUCED) -/
def State.bteCopy (s : State) (p d asid : Nat) (fusedAt : Option Nat) (c : Ctx) (w : List Word) : Nat → Nat → BteStop × Nat × State
  | 0, pos => (.end_ 1, pos, s)
  | fuel + 1, pos =>
    let rb := ccbRowBytes w
    if rb * ccbRows w ≤ pos then (.end_ 1, pos, s)
    else
      let so := pos / rb * ccbNat w 6 + pos % rb
      let do_ := pos / rb * ccbNat w 7 + pos % rb
      let src := addOff (ccbSrc w) so
      let dst := addOff (ccbDst w) do_
      let n := min (rb - pos % rb) (min (64 - vaOf src % 64) (64 - vaOf dst % 64))
      if wraps (ccbSrc w) so || wraps (ccbDst w) do_ || !engBound c src n .rd || !engBound c dst n .wr then (.end_ 3, pos, s)
      else
        let rd := s.dieLoad p d asid (vaOf src) n (fun _ x => x)
        match rd.1 with
        | .ok v =>
          let wr := rd.2.dieStore p d asid true (vaOf dst) n v
          match wr.1 with
          | .ok _ =>
            let s1 := match fusedAt with | some core => wr.2.l1Drop p core true (s.keyOf p asid (vaOf dst)) | none => wr.2
            s1.bteCopy p d asid fusedAt c w fuel (pos + n)
          | e => (e.bteStop dst true, pos, wr.2)
        | e => (e.bteStop src false, pos, rd.2)

/-- The bytes already written hold undefined values (R317; log 2, DESIGN CHOICE). -/
def State.bteSpoil (s : State) (p asid : Nat) (w : List Word) : Nat → Nat → State
  | 0, _ => s
  | fuel + 1, count =>
    if count = 0 then s
    else
      let pos := count - 1
      let rb := ccbRowBytes w
      let dst := addOff (ccbDst w) (pos / rb * ccbNat w 7 + pos % rb : Nat)
      let r := s.vaWrite p asid (vaOf dst) [Config.freeByte s.draws]
      ({ r.2 with draws := s.draws + 1 } : State).bteSpoil p asid w fuel pos

/-- The completion record: bytes 8 to 15, then bytes 0 to 7 (R317). -/
def State.bteRecord (s : State) (p : Nat) (o : BteOp) (status count : Nat) : State :=
  let rp := ccbRecord o.ccb
  match tget (s.pkg p).ctxs o.asid with
  | none => s
  | some c =>
    if (status = 1 && ccbQuiet o.ccb) || !engBound c rp 16 .wr || vaOf rp % 16 != 0 then s
    else ((s.cpTry p o.asid (addOff rp 8) (leBytes 8 count) .nothing).2.cpTry p o.asid rp
      (leBytes 4 (ccbTag o.ccb) ++ leBytes 4 status) .nothing).2

/-- A transfer leaves its engine with a status: the record, then its node's end (R54, R59). (log 29, DEDUCED) -/
def State.bteEnd (s : State) (p e : Nat) (o : BteOp) (status count : Nat) : State :=
  let s1 := s.updPkg p (fun k => ({ k with
    btes := tset k.btes e ((k.bte e).filter (fun x => x.id != o.id)), olog := k.olog.filter (fun x => x.gid != engGid o.id) } : Pkg))
  let s2 := s1.bteRecord p o status count
  let s3 := match o.node with
    | some nid => s2.endNode p nid (if o.cancelled then 1 else 0)
    | none => s2
  (s3.updPkg p (fun k => k.startCopies s.part)).afterEngine p

/-- BXI_COMPLETE: the transfer at place idx of an engine's queue runs to its end, to a sector whose tokens are still to come, or to a
page fault (R164, R176, R316). -/
def State.bteRun (s : State) (p e idx : Nat) : State :=
  match ((s.pkg p).bte e)[idx]? with
  | none => s
  | some o => match tget (s.pkg p).ctxs o.asid with
    | none => s
    | some c =>
      if o.cancelled then s.bteEnd p e o 6 o.done
      else if o.unread || (s.pkg p).olog.any (fun x => x.gid == engGid o.id) then s
      else if !ccbOk o.ccb then s.bteEnd p e o 2 0
      else
        let at_ := o.blk.bind (fun b => match tget (s.pkg p).blocks b, (s.pkg p).nodeOf b with
          | some x, some n => if n.desc.fused then some x.core else none
          | _, _ => none)
        let r := s.bteCopy p (e / 8) o.asid at_ c o.ccb (ccbRowBytes o.ccb * ccbRows o.ccb) o.done
        let note := fun (s : State) => s.updPkg p (fun k => { k with
          btes := tset k.btes e ((k.bte e).map (fun x => if x.id == o.id then { x with done := r.2.1 } else x)) })
        match r.1 with
        | .end_ 5 => (r.2.2.bteSpoil p o.asid o.ccb r.2.1 r.2.1).bteEnd p e o 5 r.2.1
        | .end_ st => r.2.2.bteEnd p e o st r.2.1
        | .tokens => note r.2.2
        | .fault ptr write va k => (note r.2.2).engFault p o.asid o.id o.gid o.lane 0 ptr write va k

def execBxiComplete (p bte idx : Nat) (s : State) : Out := .next (s.bteRun p bte idx)

end Sys2Proof.Machine
end

