-- ==== Sys2Proof/Machine/Admission.lean ====
section
/-! DEFINITION. Machine/Admission.lean: how nodes are read, admitted and refused (spec/03 R50 to R58), and the memory
accesses of packets (R44, R49). -/

namespace Sys2Proof.Machine

/-! ### Memory accesses of a packet -/

/-- What a packet's access comes to: done, a page to wait for, or failed. -/
inductive CpGet where
  | ok (bs : List Byte) (s : State)
  | wait (page : Nat) (s : State)
  | fail (s : State)

/-- Reads n bytes for a packet of a context. -/
def State.cpGet (s : State) (p asid : Nat) (c : Ctx) (ptr : DWord) (n : Nat) : CpGet :=
  if !cpBound c ptr n .rd then .fail s
  else
    let r := s.vaRead p asid (n + 1) (vaOf ptr) n
    match r.1 with
    | .ok bs => .ok bs r.2
    | .fault k va => .wait (va / 65536) (r.2.agentFault p asid k false va)
    | _ => .fail r.2

/-- Writes bytes for a packet of a context. -/
def State.cpPut (s : State) (p asid : Nat) (c : Ctx) (ptr : DWord) (bs : List Byte) : CpGet :=
  if !cpBound c ptr bs.length .wr then .fail s
  else
    let r := s.vaWrite p asid (vaOf ptr) bs
    match r.1 with
    | .fault k va => .wait (va / 65536) (r.2.agentFault p asid k true va)
    | .ok _ => .ok [] r.2
    | _ => .fail r.2

/-! ### Kernel descriptors (R53) -/

def Desc.zero : Desc :=
  { entry := 0, groups := 0, cluster := 1, acc := 0, copy := false, matrix := false, regs := 0, fault := 0, fair := 0,
    scratch := 0, dieres := false, unchecked := false, fused := false, caps := 0, quotaKiB := 0 }

/-- The descriptor in 64 bytes. -/
def Desc.ofBytes (bs : List Byte) : Desc :=
  let n := fun (off len : Nat) => leNat ((bs.drop off).take len)
  { entry := BitVec.ofNat 64 (n 0 8), groups := n 8 1, cluster := n 9 1, acc := n 10 1, copy := n 11 1 % 2 == 1,
    matrix := n 11 1 / 2 % 2 == 1, regs := n 12 1, fault := n 13 1, fair := n 14 2, scratch := n 16 4,
    dieres := n 20 4 % 2 == 1, unchecked := n 20 4 / 2 % 2 == 1, fused := n 20 4 / 4 % 2 == 1, caps := n 24 4, quotaKiB := n 28 4 }

/-- Every field holds a legal value (R53). -/
def descLegal (bs : List Byte) : Bool :=
  let n := fun (off len : Nat) => leNat ((bs.drop off).take len)
  let d := Desc.ofBytes bs
  d.entry.toNat % 4 == 0 && decide (1 ≤ d.groups) && decide (d.groups ≤ 32) && decide (1 ≤ d.cluster) && decide (d.cluster ≤ 8) &&
    decide (d.acc ≤ 4) && decide (n 11 1 < 4) && decide (8 ≤ d.regs) && decide (d.regs ≤ 128) && d.regs % 8 == 0 &&
    decide (d.fault ≤ 2) && (d.fair == 0 || (decide (64 ≤ d.fair) && decide (d.fair ≤ 4096))) && decide (d.scratch ≤ 393216) &&
    decide (n 20 4 < 8) && decide (d.caps < 16) && decide (d.quotaKiB ≤ 32768) && (bs.drop 32).all (· == 0)

/-- Grid geometry and roles (R26, R37). R26 gives nblkx no lower bound; a grid without blocks is refused here as the others that
R26 excludes (log 106, DESIGN CHOICE). -/
def geometryOk (d : Desc) (nx ny nz : Nat) : Bool :=
  decide (1 ≤ nx) && decide (nx ≤ 2 ^ 24) && decide (1 ≤ ny) && decide (ny ≤ 65535) && decide (1 ≤ nz) && decide (nz ≤ 65535) &&
    decide (nx * ny * nz ≤ 2 ^ 24) && nx % d.cluster == 0 && decide (Config.b2n d.copy + 4 * Config.b2n d.matrix ≤ d.groups)

/-- A block fits a core in service, and each slice of a die-resident launch its die (R27, R29). -/
def Pkg.fits (part : Part) (k : Pkg) (d : Desc) (clusters : Nat) : Bool :=
  (k.coresInService part).any (fun c => (k.fullRoom c).holds d) &&
    (!d.dieres || ((k.diesInService part).zip (shares clusters (k.diesInService part).length)).all
      (fun e => decide (e.2.length ≤ k.dieCap part e.1 d)))

/-- The status that refuses a launch at step 2 of R51, in the order descriptor, geometry and roles, units, room. (log 28, DEDUCED) -/
def Pkg.launchStatus (part : Part) (k : Pkg) (bs : List Byte) (nx ny nz : Nat) : Nat :=
  let d := Desc.ofBytes bs
  if !descLegal bs then 9
  else if !geometryOk d nx ny nz then 2
  else if d.caps.land (Config.caps part).toNat != d.caps then 4
  else if !k.fits part d (nx * ny * nz / d.cluster) then 3
  else 0

/-! ### Drafts: a node as its packet gives it -/

/-- The words of a packet's pointers, as a draft keeps them until admission. -/
def words2 (x : DWord) : List Word := [x.extractLsb' 0 32, x.extractLsb' 32 32]

/-- A node as its packet gives it, before it is admitted (R51; log 28, DEDUCED). -/
def draftNode (p : Pkg) (q : Nat) (x : Queue) (kind : NodeKind) (conc : Bool) (tag label : Word) (report : DWord) (ptrs : List Word) : Node :=
  let _pkg := p
  { kind := kind, lid := 0, nid := 0, asid := x.asid, inc := 0, q := q, ord := 0, label := label, tag := tag, report := report,
    prio := x.prio, conc := conc, desc := Desc.zero, nx := 0, ny := 0, nz := 0, args := [], waitsFor := [], edges := [],
    tileOf := [], done := [], started := [], status := none, cancelled := false, drains := [], rsum := 0, rcnt := 0, graph := 0,
    phase := x.pnum, job := x.jnum, ccb := ptrs, die := 0, seq := 0 }

/-- Scheduler-area bytes in use in a context (R55). (log 86, DEDUCED) -/
def Ctx.schedUsed (c : Ctx) : Nat := (c.sched.map (·.2)).sum
def ceil64 (n : Nat) : Nat := (n + 63) / 64 * 64
/-- The bitmap of a launch (R55). -/
def Node.bitmapBytes (n : Node) : Nat := if n.kind == .launch then ceil64 ((n.nx * n.ny * n.nz + 7) / 8) else 0
def Node.argBytes (n : Node) : Nat := ceil64 n.args.length

/-- What the reads and checks of one node come to. -/
inductive Adm where
  | node (n : Node) (s : State)
  | refuse (status : Nat) (s : State)
  /-- It waits for a page, with the parts that have been read. -/
  | wait (page : Nat) (parts : List (List Byte)) (s : State)

/-- A part of a node is read once: what was read before a wait stands (R51). -/
def State.readPart (s : State) (p asid : Nat) (c : Ctx) (parts : List (List Byte)) (i : Nat) (ptr : DWord) (n : Nat) : CpGet :=
  match parts[i]? with
  | some bs => .ok bs s
  | none => if n = 0 then .ok [] s else s.cpGet p asid c ptr n

/-- Steps 1 to 3 of R51 for one draft: its descriptor, its grid and its arguments, or its control block, beyond the parts that
have been read already. -/
def State.readDraft (s : State) (p : Nat) (c : Ctx) (parts : List (List Byte)) (n : Node) : Adm :=
  match n.status with
  | some st => .refuse st s
  | none =>
    let ptr := fun (i : Nat) => n.ccb.getD (i + 1) 0 ++ n.ccb.getD i 0
    match n.kind with
    | .empty => .node n s
    | .copy =>
      if vaOf (ptr 0) % 64 != 0 then .refuse 7 s
      else match s.readPart p n.asid c parts 0 (ptr 0) 64 with
        | .fail s1 => .refuse 7 s1
        | .wait pg s1 => .wait pg [] s1
        | .ok bs s1 => .node { n with ccb := wordsOf bs } s1
    | .launch =>
      if vaOf (ptr 0) % 64 != 0 || (decide (5 < n.ccb.length) && vaOf (ptr 5) % 8 != 0) then .refuse 7 s
      else match s.readPart p n.asid c parts 0 (ptr 0) 64 with
        | .fail s1 => .refuse 7 s1
        | .wait pg s1 => .wait pg [] s1
        | .ok bs s1 =>
          match s1.readPart p n.asid c parts 1 (ptr 5) (if 5 < n.ccb.length then 8 else 0) with
          | .fail s2 => .refuse 7 s2
          | .wait pg s2 => .wait pg [bs] s2
          | .ok gr s2 =>
            let n1 := if gr.isEmpty then n else { n with nx := leNat (gr.take 4), ny := leNat ((gr.drop 4).take 2), nz := leNat ((gr.drop 6).take 2) }
            let st := (s2.pkg p).launchStatus s.part bs n1.nx n1.ny n1.nz
            if st != 0 then .refuse st s2
            else
              match s2.readPart p n.asid c parts 2 (ptr 2) (n.ccb.getD 4 0).toNat with
              | .fail s3 => .refuse 7 s3
              | .wait pg s3 => .wait pg [bs, gr] s3
              | .ok as s3 => .node { n1 with desc := Desc.ofBytes bs, args := as, ccb := [] } s3

/-- What a packet has read of its drafts: whole ones with their statuses, and parts of the next (R51). -/
structure Got where
  whole : List (Node × Nat)
  parts : List (List Byte)
deriving DecidableEq, Repr

/-- The reads of a list of drafts; or the page that one waits for, with what was read. -/
def State.readDrafts (s : State) (p : Nat) (c : Ctx) : List Node → Got → (Nat × Got × State) ⊕ (List (Node × Nat) × State)
  | [], g => .inr (g.whole, s)
  | n :: ns, g => match s.readDraft p c g.parts n with
    | .node m s1 => s1.readDrafts p c ns { whole := g.whole ++ [(m, 0)], parts := [] }
    | .refuse st s1 => s1.readDrafts p c ns { whole := g.whole ++ [(n, st)], parts := [] }
    | .wait pg parts s1 => .inl (pg, { g with parts := parts }, s1)

/-- The drafts of a packet, from where its reads stood (R51). -/
def State.readOn (s : State) (p q : Nat) (c : Ctx) (ns : List Node) : (Nat × Got × State) ⊕ (List (Node × Nat) × State) :=
  let x := (s.pkg p).queue q
  s.readDrafts p c (ns.drop x.got.length) { whole := x.got, parts := x.parts }
def State.keepGot (s : State) (p q : Nat) (g : Got) : State := s.updQueue p q (fun x => { x with got := g.whole, parts := g.parts })

/-! ### Admission (R51, R55) -/

/-- The lowest free Lehr entry; nodes that ended at admission stand above the 4,096. -/
def Pkg.freeNid (k : Pkg) : Option Nat := firstFrom (fun n => !thas k.nodes n) 0 Config.lehrNodes
def Pkg.lehrUsed (k : Pkg) : Nat := (k.nodes.filter (fun e => decide (e.1 < Config.lehrNodes))).length

/-- The counter of launch ids skips 0. -/
def nextLid (n : Nat) : Nat := if n < 2 ^ 32 - 1 then n + 1 else 1

/-- The slices of a die-resident launch, formed at admission from the dies that have cores in service (R29, R61). -/
def Pkg.addSlices (part : Part) (k : Pkg) (nid : Nat) (n : Node) : Pkg :=
  if n.kind == .launch && n.desc.dieres then
    let dies := k.diesInService part
    let parts := (dies.zip (shares (n.nx * n.ny * n.nz / max 1 n.desc.cluster) dies.length)).filter (fun e => !e.2.isEmpty)
    { k with slices := k.slices ++ parts.map (fun e =>
        (16 * n.seq + e.1, { node := nid, die := e.1, first := e.2.headD 0, count := e.2.length, clusters := [], bar := { ph := 0, mem := [], arr := [] } })) }
  else k

/-- Enters one node: its ordinal, its ids, its dependences. A refused one stands above the Lehr until it has ended. The
answer is its number. (log 86, DEDUCED) (log 89, DEDUCED) -/
def State.enterNode (s : State) (p q : Nat) (n : Node) (status : Nat) (waits : List Nat) (graph : Nat) : Nat × State :=
  let k := s.pkg p
  let x := k.queue q
  let nid := if status = 0 then (k.freeNid).getD (Config.lehrNodes + k.seq) else Config.lehrNodes + k.seq
  let launch := n.kind == .launch && status == 0
  let inc := s.ctxInc p n.asid
  let m : Node := { n with
    nid := nid, ord := x.ord + 1, inc := inc, lid := if launch then k.lidCtr else 0, waitsFor := waits, graph := graph, seq := k.seq }
  let room := fun (c : Ctx) => if status = 0 then { c with sched := c.sched ++
    (if m.argBytes = 0 then [] else [(2 * k.seq, m.argBytes)]) ++ (if m.bitmapBytes = 0 then [] else [(2 * k.seq + 1, m.bitmapBytes)]) } else c
  let k1 : Pkg := { k with nodes := tset k.nodes nid m, seq := k.seq + 1, lidCtr := if launch then nextLid k.lidCtr else k.lidCtr }
  let k2 := (k1.updQueue q (fun x => { x with ord := x.ord + 1, adm := BitVec.ofNat 32 (x.ord + 1) })).updCtx n.asid room
  (nid, s.updPkg p (fun _ => k2.addSlices s.part nid m))

/-- Admission waits: the Lehr or the scheduler area has no room (R55). -/
def Pkg.noRoom (k : Pkg) (c : Ctx) (ns : List (Node × Nat)) : Bool :=
  let ok := (ns.filter (fun e => e.2 = 0)).map (·.1)
  decide (Config.lehrNodes < k.lehrUsed + ok.length) ||
    decide (c.schedKiB * 1024 < c.schedUsed + (ok.map (fun n => n.argBytes + n.bitmapBytes)).sum)

/-- What becomes of nodes at once: refused ones end; those whose earlier nodes have failed end with 0x01; empty ones that
wait for nothing complete; COPY nodes start (R48, R54). -/
def State.settleNodes (s : State) (p : Nat) (ns : List (Nat × Nat)) : State :=
  let ends := ns.filterMap (fun e =>
    if e.2 != 0 then some e
    else match tget (s.pkg p).nodes e.1 with
      | some n => if n.kind == .empty && n.clear && n.edges.isEmpty then some (e.1, 0) else none
      | none => none)
  (State.endNodes p lehrFuel ends s).updPkg p (fun k => k.startCopies s.part)

/-- One node outside a graph (R51, R52). (log 17, DEDUCED) -/
def State.admitOne (s : State) (k : Pk) (n : Node) : PRes :=
  match s.readOn k.p k.q k.ctx [n] with
  | .inl (pg, g, s1) => .wait (.fault pg) (s1.keepGot k.p k.q g)
  | .inr (rs, s1) =>
    if (s1.pkg k.p).noRoom (((tget (s1.pkg k.p).ctxs k.x.asid)).getD k.ctx) rs then .wait .admission (s1.keepGot k.p k.q { whole := rs, parts := [] })
    else
      let before := if n.conc then [] else (s1.pkg k.p).openNodes k.q
      match rs with
      | [(m, st)] =>
        let r := s1.enterNode k.p k.q m st before 0
        .done (r.2.settleNodes k.p [(r.1, if st != 0 then st else if !n.conc && k.x.failed then 1 else 0)])
      | _ => .done s1

/-- A node packet: outside a graph it is admitted at once; inside one it joins the open graph (R49, R52). -/
def State.nodePacket (s : State) (k : Pk) (n : Node) : PRes :=
  match k.x.graph with
  | none => s.admitOne k n
  | some g =>
    if n.conc then .stop 0x02 s
    else if Config.lehrNodes ≤ g.nodes.length then .stop 0x05 s
    else .done (s.updQueue k.p k.q (fun x => { x with graph := some { g with nodes := g.nodes ++ [n] } }))

/-- Points the edges of drafts, which name places in the graph, at nodes. -/
def Edge.placed (e : Edge) (nids : List Nat) : Edge := { e with prod := nids.getD e.prod 0 }

/-- GRAPH_END: the graph's nodes are admitted together, in packet order (R49). (log 17, DEDUCED) -/
def State.admitGraph (s : State) (k : Pk) (g : OpenGraph) : PRes :=
  match s.readOn k.p k.q k.ctx g.nodes with
  | .inl (pg, got, s1) => .wait (.fault pg) (s1.keepGot k.p k.q got)
  | .inr (rs, s1) =>
    if (s1.pkg k.p).noRoom ((tget (s1.pkg k.p).ctxs k.x.asid).getD k.ctx) rs then .wait .admission (s1.keepGot k.p k.q { whole := rs, parts := [] })
    else
      let before := if g.conc then [] else (s1.pkg k.p).openNodes k.q
      let enter := fun (acc : List Nat × State) (e : Node × Nat) =>
        let r := acc.2.enterNode k.p k.q e.1 e.2 before k.x.gnum
        (acc.1 ++ [r.1], r.2)
      let r := rs.foldl enter ([], s1)
      let seqs := r.1.map (fun nid => ((tget (r.2.pkg k.p).nodes nid).map (·.seq)).getD 0)
      let fix := fun (s : State) (nid : Nat) => s.updNode k.p nid (fun n => { n with
        edges := n.edges.map (fun e => e.placed r.1),
        tileOf := (n.edges.filter (fun e => e.tile.isSome)).map (fun e => seqs.getD e.prod 0) })
      let s2 := r.1.foldl fix r.2
      let s3 := s2.updQueue k.p k.q (fun x => { x with graph := none, openG := tset x.openG k.x.gnum 0 })
      let sts := (r.1.zip (rs.map (·.2))).map (fun e => (e.1, if e.2 != 0 then e.2 else if !g.conc && k.x.failed then 1 else 0))
      .done ((s3.settleNodes k.p sts).updPkg k.p (fun k' => k'.countGroups k.q))

end Sys2Proof.Machine
end

