-- ==== Sys2Proof/Machine/Ends.lean ====
section
/-! DEFINITION. Machine/Ends.lean: how blocks end (spec/02 R30, spec/03 R54, R58, spec/11 R239, R255). -/

namespace Sys2Proof.Machine

/-- The completion bit of a block, and its count r in the node's average; each block counts once (R54, R64). -/
def Node.count (n : Node) (idx r : Nat) : Node :=
  if idx ∈ n.done then n else { n with done := n.done ++ [idx], rsum := n.rsum + r, rcnt := n.rcnt + 1 }

/-- A block that has ended leaves its core; its scratchpad no longer holds anything. (log 79, DEDUCED) -/
def Pkg.leaveCore (k : Pkg) (b : Nat) : Pkg :=
  match tget k.blocks b with
  | none => k
  | some x =>
    let k1 := k.dropBlock b
    { k1 with
      blocks := tset k1.blocks b { x with state := .done, core := 2 ^ 20, scratch := [], full := [], kregs := [], rings := [], bars := [],
                                          tiles := [], tileCore := none, swapped := [], uid := k1.uid }
      uid := k1.uid + 1 }

/-- A cluster all of whose blocks have ended is gone. (log 56, DEDUCED) -/
def Pkg.endCluster (k : Pkg) (c : Nat) : Pkg :=
  match tget k.clusters c with
  | none => k
  | some x =>
    if x.blocks.all (fun b => match tget k.blocks b with | some y => y.state == .done | none => true) then
      let k1 := k.dropCluster c
      { k1 with slices := k1.slices.map (fun e => (e.1, { e.2 with clusters := e.2.clusters.filter (· != c) })) }
    else k

/-- A node whose blocks have all ended completes (R54). A node that had ended before leaves the Lehr with its last block. -/
def State.nodeDone (s : State) (p nid : Nat) : State :=
  let k := s.pkg p
  match tget k.nodes nid with
  | none => s
  | some n =>
    if k.blocks.any (fun e => e.2.node == nid) then s
    else if n.status.isSome then
      (if k.cpWrites.any (fun w => match w.andThen with | .node i _ => i == nid | _ => false) then s
       else s.updPkg p (fun k => { k with nodes := tdel k.nodes nid, clusters := k.clusters.filter (fun e => e.2.node != nid),
                                          slices := k.slices.filter (fun e => e.2.node != nid) }))
    else if n.blocks ≤ n.done.length && !n.cancelled then s.endNode p nid 0
    else s

/-- A trap of a group that has ended, which no issue will take: it is reported for its block, or halts the extent of STOPW,
whatever the block's other groups do (R239). (log 75, DEDUCED) (log 80, DEDUCED) -/
def State.lateTrap (s : State) (p g : Nat) : Option State :=
  (s.loc p g).bind (fun l => if l.grp.alive then none else l.grp.deferred.head?.map (fun d =>
    let s1 := s.updGroup p g (fun x => { x with deferred := x.deferred.drop 1 })
    s1.unhandled { l with grp := { l.grp with deferred := l.grp.deferred.drop 1 } } d.lanes d.cause d.tpc d.taddr d.lane))
/-- The first such trap of a block's groups. -/
def State.lateTraps (s : State) (p b : Nat) : Option State := ((s.pkg p).groupsOf b).findSome? (s.lateTrap p)

/-- The last block of a versioned cluster has ended: the commit runs before any completion bit (R255). (log 81, DEDUCED) -/
def State.beginEndCommit (s : State) (p c : Nat) : State :=
  let rv := s.readWords p (unitSlice (32 * ((tget (s.pkg p).clusters c).map (·.die)).getD 0)) (s.versionStrikes p c)
  if rv.1 then (rv.2.clearVersion p c).consume7 p c
  else rv.2.updCluster p c (fun x => { x with endCommit := true, committing := some (x.ver.getD Version.empty), ver := x.ver.map (fun _ => Version.empty) })

/-- BLOCK_END: every group has ended, every engine operation has completed and every write is performed (R30, R208). (log 56, DEDUCED) (log 80, DEDUCED) -/
def State.blockEnd (s : State) (p b : Nat) : State :=
  let k := s.pkg p
  match tget k.blocks b with
  | none => s
  | some x => match tget k.nodes x.node, tget k.clusters x.cluster with
    | some n, some cl =>
      let gs := k.groupsOf b
      let rests := (x.state == .resident || x.state == .draining) && !gs.isEmpty && gs.all (fun g => !k.live g)
      if !rests then s
      else match s.lateTraps p b with
        | some s1 => s1
        | none =>
          if k.engineBusy b || k.olog.any (fun o => decide (o.gid ∈ gs)) || cl.committing.isSome then s
          else
            let cores := scalarCores n.desc.fused x.core
            let s1 := s.cbDrain p n.asid cores
            if (s1.pkg p).pends.any (fun q => decide (q.acc.gid ∈ gs)) || !s1.cbClear p n.asid cores then s1
            else
              let s2 := s1.updPkg p (·.leaveCore b)
              if n.desc.fault = 2 then
                let last := cl.blocks.all (fun c => match tget (s2.pkg p).blocks c with | some y => y.state == .done | none => true)
                if last then s2.beginEndCommit p x.cluster else s2
              else
                let s3 := (s2.updNode p x.node (fun n => n.count x.idx x.r)).updPkg p (·.endCluster x.cluster)
                s3.nodeDone p x.node
    | _, _ => s

end Sys2Proof.Machine
end

