-- ==== Sys2Proof/Machine/Commands.lean ====
section
/-! DEFINITION. Machine/Commands.lean: the command packets of spec/03 R47 to R59 and the packets that wait. -/

namespace Sys2Proof.Machine

/-! ### Shared parts -/

/-- One packet's rule: may it stand inside a graph, does it wait for the earlier nodes (R52), and its effect. -/
structure PktDef where
  inGraph : Bool
  drains : Bool
  body : Pk → State → PRes

/-- A condition of WAIT or IF (R48). -/
def pktCond (cond : Byte) (v operand : Nat) : Bool :=
  match cond.toNat with
  | 0 => decide (operand ≤ v)
  | 1 => v == operand
  | 2 => v != operand
  | _ => v.land operand != 0

/-- The queue that a packet names: 0xFF is its own; another must be bound to the same context. -/
def Pk.queueNo (k : Pk) (s : State) (q : Byte) : Option Nat :=
  if q = 0xFF then some k.q
  else if ((s.pkg k.p).queue q.toNat).asid = k.x.asid then some q.toNat else none

/-- A function owns an ASID (R289). -/
def Pk.owns (k : Pk) (s : State) (asid : Nat) : Bool := (s.pkg k.p).ownerFn asid == k.x.own

/-! ### Nodes (R49, R51) -/

def launchPkt (conc : Bool) (tag : Word) (desc : DWord) (nx : Word) (ny nz : BitVec 16) (argp : DWord) (argn : BitVec 16) (label : Word) (report : DWord) : PktDef :=
  { inGraph := true, drains := false, body := fun k s =>
      s.nodePacket k { draftNode (s.pkg k.p) k.q k.x .launch conc tag label report (words2 desc ++ words2 argp ++ [argn.setWidth 32]) with
        nx := nx.toNat, ny := ny.toNat, nz := nz.toNat } }

def launchIndirectPkt (conc nodrain : Bool) (tag : Word) (desc grid argp : DWord) (argn : BitVec 16) (label : Word) (report : DWord) : PktDef :=
  { inGraph := true, drains := !nodrain, body := fun k s =>
      s.nodePacket k (draftNode (s.pkg k.p) k.q k.x .launch conc tag label report (words2 desc ++ words2 argp ++ [argn.setWidth 32] ++ words2 grid)) }

def nodePkt (conc : Bool) (tag label : Word) (report : DWord) : PktDef :=
  { inGraph := true, drains := false, body := fun k s => s.nodePacket k (draftNode (s.pkg k.p) k.q k.x .empty conc tag label report []) }

def copyPkt (conc : Bool) (tag : Word) (ccb : DWord) (die : Byte) (label : Word) (report : DWord) : PktDef :=
  { inGraph := true, drains := false, body := fun k s =>
      s.nodePacket k { draftNode (s.pkg k.p) k.q k.x .copy conc tag label report (words2 ccb) with die := die.toNat } }

/-! ### Graphs, phases (R49, R58) -/

def graphBeginPkt (conc : Bool) : PktDef :=
  { inGraph := false, drains := false, body := fun k s =>
      .done (s.updQueue k.p k.q (fun x => { x with graph := some { conc := conc, nodes := [] }, gnum := x.gnum + 1 })) }

def graphEndPkt : PktDef :=
  { inGraph := true, drains := false, body := fun k s => match k.x.graph with
      | none => .stop 0x05 s
      | some g => s.admitGraph k g }

/-- The place of the last node of a graph with a label. (log 27, DEDUCED) -/
def labelPlace (ns : List Node) (label : Word) : Option Nat :=
  ((ns.zipIdx.filter (fun e => e.1.label == label)).getLast?).map (·.2)

/-- A TILE edge needs two launches; any other is a whole-node edge (R58). (log 27, DEDUCED) -/
def dependPkt (tile : Bool) (producer consumer : Word) (ax ay wx wy : BitVec 16) (bx by_ : Word) : PktDef :=
  { inGraph := true, drains := false, body := fun k s => match k.x.graph with
      | none => .stop 0x05 s
      | some g => match labelPlace g.nodes producer, labelPlace g.nodes consumer with
        | some i, some j =>
          if i < j then
            let launches := (g.nodes[i]?).any (fun n => n.kind == .launch) && (g.nodes[j]?).any (fun n => n.kind == .launch)
            let geo := (ax.toNat, ay.toNat, wx.toNat, wy.toNat, bx.toInt, by_.toInt)
            let e : Edge := { prod := i, tile := (if tile && launches then some geo else none) }
            .done (s.updQueue k.p k.q (fun x => { x with graph := some { g with
              nodes := g.nodes.modify j (fun n => { n with edges := n.edges ++ [e] }) } }))
          else .stop 0x05 s
        | _, _ => .stop 0x05 s }

def phasePkt (job : Bool) : PktDef :=
  { inGraph := false, drains := false, body := fun k s =>
      let close := fun (x : Queue) =>
        let x1 := { x with openP := tset x.openP x.pnum x.ord, pnum := x.pnum + 1, pOrd := x.ord }
        if job then { x1 with openJ := tset x.openJ x.jnum x.ord, jnum := x.jnum + 1, jOrd := x.ord } else x1
      .done ((s.updQueue k.p k.q close).updPkg k.p (fun k' => k'.countGroups k.q)) }

/-! ### WAIT, SIGNAL (R49) -/

/-- A counter of a queue (R48). -/
def Queue.counter (x : Queue) (c : Byte) : Word :=
  match c.toNat with
  | 0 => x.lcnt
  | 1 => x.gcnt
  | 2 => x.pcnt
  | _ => x.jcnt

/-- The queue's access to memory: its bytes, a page to wait for, or a stop with error 0x08. -/
def CpGet.go (g : CpGet) (f : List Byte → State → PRes) : PRes :=
  match g with
  | .ok bs s => f bs s
  | .wait pg s => .wait (.fault pg) s
  | .fail s => .stop 0x08 s

def waitPkt (nodrain : Bool) (kind cond counter queue : Byte) (addr value : DWord) : PktDef :=
  { inGraph := false, drains := kind != 0 && !nodrain, body := fun k s =>
      if kind = 0 then
        match k.queueNo s queue with
        | none => .stop 0x02 s
        | some q => if pktCond cond (((s.pkg k.p).queue q).counter counter).toNat value.toNat then .done s else .wait .wait s
      else
        let n := 4 * kind.toNat
        (s.cpGet k.p k.x.asid k.ctx addr n).go (fun bs s1 =>
          if pktCond cond (leNat bs) (value.toNat % 2 ^ (8 * n)) then .done s1 else .wait .wait s1) }

def signalPkt (nodrain msix : Bool) (op : Byte) (vector : BitVec 16) (addr value : DWord) : PktDef :=
  { inGraph := false, drains := !nodrain, body := fun k s =>
      let n := if op.toNat % 2 = 0 then 4 else 8
      let old : CpGet := if op.toNat < 2 then .ok [] s
        else match s.vaRead k.p k.x.asid (n + 1) (vaOf addr) n with
          | (.ok bs, s1) => if cpBound k.ctx addr n .wr then .ok bs s1 else .fail s
          | (.fault f va, s1) => if cpBound k.ctx addr n .wr then .wait (va / 65536) (s1.agentFault k.p k.x.asid f true va) else .fail s
          | (_, s1) => .fail s1
      old.go (fun bs s1 =>
        (s1.cpPut k.p k.x.asid k.ctx addr (leBytes n (leNat bs + value.toNat))).go (fun _ s2 =>
          .done (if msix then s2.updPkg k.p (fun k' => k'.msix k.ctx.fn vector.toNat) else s2))) }

/-! ### LOOP, IF (R49) -/

def pushNest (s : State) (k : Pk) (n : Nest) : State := s.updQueue k.p k.q (fun x => { x with nest := x.nest ++ [n] })

/-- Enters a loop of n iterations; a count of 0 skips it. -/
def enterLoop (k : Pk) (n : Nat) (s : State) : PRes :=
  if 8 ≤ k.x.depth then .stop 0x05 s
  else
    let start := (k.x.rd + BitVec.ofNat 32 k.units).toNat
    let s1 := pushNest s k (.loopBlk start n k.x.rd.toNat)
    .done (if n = 0 then s1.updQueue k.p k.q (fun x => { x with skip := some (.loopEnd 0) }) else s1)

/-- R48 names WAIT, IF and SIGNAL where it speaks of alignment; it gives a misaligned address of a LOOP's count no rule, and here
the access fails, which stops the queue with 0x08 (log 113, DESIGN CHOICE). -/
def loopPkt (nodrain mem : Bool) (count : Word) (addr : DWord) : PktDef :=
  { inGraph := false, drains := mem && !nodrain, body := fun k s =>
      if !mem then enterLoop k count.toNat s
      else if vaOf addr % 4 != 0 then .stop 0x08 s
      else (s.cpGet k.p k.x.asid k.ctx addr 4).go (fun bs s1 => enterLoop k (leNat bs) s1) }

/-- LOOP_END: back to the first packet of the loop while iterations are left. -/
def loopEndPkt : PktDef :=
  { inGraph := false, drains := false, body := fun k s => match k.x.nest.getLast? with
      | some (.loopBlk start left rp) =>
        if 1 < left then
          .done (s.updQueue k.p k.q (fun x => { x with
            nest := x.nest.dropLast ++ [.loopBlk start (left - 1) rp], rd := BitVec.ofNat 32 start - BitVec.ofNat 32 k.units }))
        else .done (s.updQueue k.p k.q (fun x => { x with nest := x.nest.dropLast }))
      | _ => .stop 0x05 s }

def ifBegin (nodrain : Bool) (cond width : Byte) (addr value : DWord) : PktDef :=
  { inGraph := false, drains := !nodrain, body := fun k s =>
      let n := 4 + 4 * width.toNat
      if 8 ≤ k.x.depth then .stop 0x05 s
      else (s.cpGet k.p k.x.asid k.ctx addr n).go (fun bs s1 =>
        let s2 := pushNest s1 k (.ifBlk false)
        .done (if pktCond cond (leNat bs) (value.toNat % 2 ^ (8 * n)) then s2
          else s2.updQueue k.p k.q (fun x => { x with skip := some (.elseOrEnd 0) }))) }

def elseMid : PktDef :=
  { inGraph := false, drains := false, body := fun k s => match k.x.nest.getLast? with
      | some (.ifBlk false) => .done (s.updQueue k.p k.q (fun x => { x with skip := some (.endIf 0) }))
      | _ => .stop 0x05 s }

def endIfPkt : PktDef :=
  { inGraph := false, drains := false, body := fun k s => match k.x.nest.getLast? with
      | some (.ifBlk _) => .done (s.updQueue k.p k.q (fun x => { x with nest := x.nest.dropLast }))
      | _ => .stop 0x05 s }

/-! ### CANCEL (R59) -/

/-- Which nodes and drafts of a queue a CANCEL names. (log 26, DEDUCED) -/
def cancelNames (x : Queue) (level : Nat) (label : Word) (n : Node) : Bool :=
  match level with
  | 0 => n.label == label
  | 1 => n.graph == x.gnum && x.gnum != 0
  | 2 => n.phase == (if x.pOrd < x.ord then x.pnum else x.pnum - 1)
  | _ => n.job == (if x.jOrd < x.ord then x.jnum else x.jnum - 1)

/-- An access of a dropped group that has left its core as a write: it is performed for no one. -/
def Pend.detached (q : Pend) : Pend :=
  { q with fenced := none, acc := { q.acc with gid := noGroup, op := (match q.acc.op with | .atom op w64 ops _ => .atom op w64 ops none | o => o) } }
def Pend.writes (q : Pend) : Bool := match q.acc.op with | .load .. | .fetch => false | _ => true

/-- A cancelled node's blocks are dropped without saving. They stand without groups until the engine operations under way have
completed and the writes that have left their cores have arrived; a running matrix operation keeps its block's tiles
(R59, R138, R208). (log 26, DEDUCED) (log 79, DEDUCED) -/
def Pkg.cancelBlocks (k : Pkg) (nid : Nat) : Pkg :=
  let bs := (k.blocks.filter (fun e => e.2.node == nid)).map (·.1)
  let gone := fun (q : Pend) => q.writes && (match tget k.groups q.acc.gid with | some g => decide (g.blk ∈ bs) | none => false)
  let left := (k.pends.filter gone).map (·.acc.id)
  let k0 := { k with pends := k.pends.map (fun q => if gone q then q.detached else q) }.updNode nid (fun n => { n with drains := n.drains ++ left })
  let k1 := bs.foldl (fun k b => match tget k.blocks b with
    | none => k
    | some x =>
      let busy := k.cores.any (fun e => match e.2.eng.run with | some o => o.blk == b | none => false)
      let k1 := k.dropBlock b
      { k1 with blocks := tset k1.blocks b { x with
          state := .done, stream := [], held := [], swapped := [], tiles := if busy then x.tiles else [],
          tileCore := if busy then x.tileCore else none } }) k0
  let flag := fun (o : BteOp) => if o.blk.any (fun b => decide (b ∈ bs)) || o.node == some nid then { o with cancelled := true } else o
  { k1 with
    btes := k1.btes.map (fun e => (e.1, e.2.map flag)),
    clusters := k1.clusters.filter (fun e => e.2.node != nid), slices := k1.slices.filter (fun e => e.2.node != nid) }

/-- The nodes that a CANCEL has still to end: blocks whose every group has ended come to their end first (R59). -/
def State.endDue (s : State) (p : Nat) (nids : List Nat) : State :=
  ((s.pkg p).blocks.filter (fun e => decide (e.2.node ∈ nids))).foldl (fun s e => s.blockEnd p e.1) s

/-- The skip under way as the structures that it stands in (R49). -/
def Queue.skipNest (x : Queue) : List Nest :=
  match x.skip with
  | some (.elseOrEnd d) => List.replicate d (.ifBlk false)
  | some (.endIf d) => List.replicate d (.ifBlk false)
  | some (.loopEnd d) => List.replicate d (.loopBlk 0 1 0)
  | _ => []

/-- A cancelled job's queue skips to the closing PHASE from where it stands; the drafts of an open graph end at once (R59). -/
def State.skipJob (s : State) (p q : Nat) : State :=
  let x := (s.pkg p).queue q
  let skip := fun (x : Queue) => { x with
    nest := x.nest ++ x.skipNest, skip := some .jobEnd, hold := none, got := [], parts := [],
    state := if x.hold.isSome then (if x.en then 1 else 0) else x.state }
  match x.graph, tget (s.pkg p).ctxs x.asid with
  | some g, some c =>
    let dead : OpenGraph := { g with nodes := g.nodes.map (fun n => { n with status := some 1 }) }
    let s0 := s.updQueue p q (fun x => { x with got := [], parts := [] })
    (match s0.admitGraph { p := p, q := q, units := 0, x := (s0.pkg p).queue q, ctx := c } dead with
     | .done t | .stop _ t | .wait _ t => t).updQueue p q skip
  | _, _ => s.updQueue p q skip

/-- CANCEL (R59). (log 26, DEDUCED) -/
def cancelPkt (level queue : Byte) (label : Word) : PktDef :=
  { inGraph := false, drains := false, body := fun k s => match k.queueNo s queue with
      | none => .stop 0x02 s
      | some q =>
        let x := (s.pkg k.p).queue q
        let named := fun (s : State) => ((s.pkg k.p).nodes.filter (fun e => e.2.q == q && e.2.incomplete && cancelNames x level.toNat label e.2)).map (·.1)
        let s := s.endDue k.p (named s)
        let hit := named s
        let s1 := hit.foldl (fun s nid => (s.updPkg k.p (·.cancelBlocks nid)).updNode k.p nid (fun n => { n with cancelled := true })) s
        let draft := fun (n : Node) => if level = 1 || cancelNames x level.toNat label n then { n with status := some 1 } else n
        let read := fun (e : Node × Nat) => if (draft e.1).status.isSome then (e.1, 1) else e
        let s2 := if level = 3 && (x.graph.isSome || decide (x.jOrd < x.ord)) then s1.skipJob k.p q
          else s1.updQueue k.p q (fun x => { x with
            graph := x.graph.map (fun g => { g with nodes := g.nodes.map draft }), got := x.got.map read })
        .done (s2.settleCancels k.p) }

/-! ### Contexts (R49, R233, R235) -/

def killPkt (preserve : Bool) (tag : Word) (asid : BitVec 16) (report : DWord) : PktDef :=
  { inGraph := false, drains := false, body := fun k s =>
      if !k.owns s asid.toNat then .stop 0x07 s
      else
        let s1 := s.beginKill k.p k.q asid.toNat preserve tag report
        if ((s1.pkg k.p).queue k.q).state = 3 then .stop 0x06 s1 else .done s1 }

/-- The counter's value when the fence was read stands in the queue's hold. -/
def reclaimFencePkt (asid : BitVec 16) : PktDef :=
  { inGraph := false, drains := false, body := fun k s =>
      if !k.owns s asid.toNat then .stop 0x07 s
      else
        let now := ((s.pkg k.p).recl asid.toNat).cnt.toNat
        match k.x.hold with
        | some (.fence a cnt) => if a = asid.toNat && now != cnt then .done s else .wait (.fence a cnt) s
        | _ => .wait (.fence asid.toNat now) s }

def scopeTablePkt (nodrain : Bool) (id : Byte) (pkgs : BitVec 16) (cores : BitVec 256) : PktDef :=
  { inGraph := false, drains := !nodrain, body := fun k s =>
      .done (s.updCtx k.p k.x.asid (fun c => { c with scopes := tset c.scopes id.toNat (pkgs, cores) })) }

def timeslicePkt (weight : Word) (d t : Byte) : PktDef :=
  { inGraph := false, drains := false, body := fun k s =>
      .done (s.updCtx k.p k.x.asid (fun c => { c with weight := max 4096 weight.toNat, dThr := d.toNat, tThr := t.toNat })) }

def priorityPkt (prio : Byte) : PktDef :=
  { inGraph := false, drains := false, body := fun k s => .done (s.updQueue k.p k.q (fun x => { x with prio := prio.toNat })) }

def nopPkt : PktDef := { inGraph := true, drains := false, body := fun _ s => .done s }

/-! ### Channels (R49, R219) -/

/-- The tag of a channel's receive state in the scheduler area (R55). (log 86, DEDUCED) -/
def chanTag (src ch : Nat) : Nat := 2 ^ 40 + rcvKey src ch
def rcvBytes (journaled : Bool) : Nat := if journaled then 16 + 256 * 1024 else 16

/-- The channel that an allocate gets, where every condition of R219 holds. -/
def allocChan (k : Pk) (s : State) (journaled : Bool) (peer : Nat) (ch : Nat) (journal : DWord) (jsize : Nat) : Option Nat :=
  let free := if ch = 0xFFFF then firstFrom (fun n => (s.snd k.p n).isNone) 0 Config.channels
    else if (s.snd k.p ch).isNone then some ch else none
  let room := match tget (s.pkg peer).ctxs k.x.asid with
    | some c => decide (c.schedUsed + rcvBytes journaled ≤ c.schedKiB * 1024) && !c.killed
    | none => false
  if bit k.ctx.pkgs peer && peer != k.p && thas s.pkgs peer && room && (!journaled || vaOf journal % 2 ^ jsize == 0) then free else none

/-- Both command processors set up a channel's states (R219). (log 32, DEDUCED) -/
def State.openChan (s : State) (p asid ch peer : Nat) (journaled : Bool) (journal : DWord) (jsize : Nat) : State :=
  let x : Snd := { asid := asid, inc := s.ctxInc p asid, peer := peer, sent := 0, seq := 0, ack := 0, gen := 0, brk := false,
                   jptr := journal, jsize := if journaled then some jsize else none, jhead := 0, jtail := 0, jwait := none, kept := [] }
  let r : Rcv := { asid := asid, inc := s.ctxInc peer asid, journaled := journaled, last := 0, gen := 0, cur := 0, next := 0, mapc := [],
                   mapn := [], tadopt := none, shn := false, unr := false, held := [], heldAt := s.now, lastShort := s.now }
  ((s.updPkg p (·.updChan (fun c => { c with snd := tset c.snd ch x }))).updPkg peer
    (·.updChan (fun c => { c with rcv := tset c.rcv (rcvKey p ch) r }))).updCtx peer asid
    (fun c => { c with sched := tset c.sched (chanTag p ch) (rcvBytes journaled) })

/-- A free releases both states (R49, R219). (log 32, DEDUCED) -/
def State.closeChan (s : State) (p asid ch peer : Nat) : State :=
  let mine := fun (d : DepWait) => d.msg.src.pkg == p && (match d.msg.body with
    | .deposit c _ _ _ _ _ _ _ => c == ch
    | .release c _ _ _ _ _ => c == ch
    | _ => false)
  ((s.updPkg p (·.updChan (fun c => { c with snd := tdel c.snd ch }))).updPkg peer
    (·.updChan (fun c => { c with rcv := tdel c.rcv (rcvKey p ch), deps := c.deps.filter (fun d => !mine d) }))).updCtx peer asid
    (fun c => { c with sched := tdel c.sched (chanTag p ch) })

/-- A part without release channels would answer 0xFFFF_FFFE (R50). (log 28, DEDUCED) -/
def channelAllocatePkt (journaled : Bool) (peer : Byte) (ch : BitVec 16) (result journal : DWord) (jsize : Byte) : PktDef :=
  { inGraph := false, drains := false, body := fun k s =>
      if !Config.hasChannels s.part then .done (s.cpWrite k.p k.x.asid result (leBytes 4 0xFFFFFFFE))
      else match allocChan k s journaled peer.toNat ch.toNat journal jsize.toNat with
      | some n => .done ((s.openChan k.p k.x.asid n peer.toNat journaled journal jsize.toNat).cpWrite k.p k.x.asid result (leBytes 4 n))
      | none => .done (s.cpWrite k.p k.x.asid result (leBytes 4 0xFFFFFFFF)) }

def channelFreePkt (ch : BitVec 16) (result : DWord) : PktDef :=
  { inGraph := false, drains := false, body := fun k s =>
      match (s.snd k.p ch.toNat).bind (fun x => if x.asid = k.x.asid then some x else none) with
      | none => .done (s.cpWrite k.p k.x.asid result (leBytes 4 0xFFFFFFFF))
      | some x =>
        if x.brk || (x.sent = 0 && x.kept.isEmpty) then
          .done ((s.closeChan k.p k.x.asid ch.toNat x.peer).cpWrite k.p k.x.asid result (leBytes 4 ch.toNat))
        else .wait (.chanFree ch.toNat) s }

/-! ### Every packet's rule -/

def pktOf : Instr → Option PktDef
  | .launch conc tag desc nx ny nz argp argn label report => some (launchPkt conc tag desc nx ny nz argp argn label report)
  | .node conc tag label report => some (nodePkt conc tag label report)
  | .depend tile _ pr co ax ay wx wy bx by_ => some (dependPkt tile pr co ax ay wx wy bx by_)
  | .graphBegin conc _ => some (graphBeginPkt conc)
  | .graphEnd _ => some graphEndPkt
  | .phase job _ => some (phasePkt job)
  | .wait nodrain _ kind cond counter queue addr value => some (waitPkt nodrain kind cond counter queue addr value)
  | .signal nodrain msix _ op vector addr value => some (signalPkt nodrain msix op vector addr value)
  | .loop nodrain mem _ count addr => some (loopPkt nodrain mem count addr)
  | .loopEnd _ => some loopEndPkt
  | .ifPkt nodrain _ cond width addr value => some (ifBegin nodrain cond width addr value)
  | .elsePkt _ => some elseMid
  | .endIf _ => some endIfPkt
  | .launchIndirect conc nodrain tag desc grid argp argn label report => some (launchIndirectPkt conc nodrain tag desc grid argp argn label report)
  | .copy conc tag ccb die label report => some (copyPkt conc tag ccb die label report)
  | .cancel _ level queue label => some (cancelPkt level queue label)
  | .killContext preserve tag asid report => some (killPkt preserve tag asid report)
  | .reclaimFence _ asid => some (reclaimFencePkt asid)
  | .scopeTable nodrain _ id pkgs cores => some (scopeTablePkt nodrain id pkgs cores)
  | .channelAllocate _ journaled peer ch result journal jsize => some (channelAllocatePkt journaled peer ch result journal jsize)
  | .channelFree _ _ _ ch result _ _ => some (channelFreePkt ch result)
  | .timeslice _ weight d t => some (timeslicePkt weight d t)
  | .priority _ prio => some (priorityPkt prio)
  | .nopPacket _ _ => some nopPkt
  | _ => none

/-- A packet's meaning from its rule. -/
def runPkt (i : Instr) (d : PktDef) (s : State) : Out := packet i d.inGraph d.drains d.body s

def execLaunch (conc : Bool) (tag : Word) (desc : DWord) (nx : Word) (ny nz : BitVec 16) (argp : DWord) (argn : BitVec 16) (label : Word) (report : DWord) (s : State) : Out :=
  runPkt (.launch conc tag desc nx ny nz argp argn label report) (launchPkt conc tag desc nx ny nz argp argn label report) s
def execNode (conc : Bool) (tag label : Word) (report : DWord) (s : State) : Out :=
  runPkt (.node conc tag label report) (nodePkt conc tag label report) s
def execDepend (tile : Bool) (tag producer consumer : Word) (ax ay wx wy : BitVec 16) (bx by_ : Word) (s : State) : Out :=
  runPkt (.depend tile tag producer consumer ax ay wx wy bx by_) (dependPkt tile producer consumer ax ay wx wy bx by_) s
def execGraphBegin (conc : Bool) (tag : Word) (s : State) : Out := runPkt (.graphBegin conc tag) (graphBeginPkt conc) s
def execGraphEnd (tag : Word) (s : State) : Out := runPkt (.graphEnd tag) graphEndPkt s
def execPhase (job : Bool) (tag : Word) (s : State) : Out := runPkt (.phase job tag) (phasePkt job) s
def execWait (nodrain : Bool) (tag : Word) (kind cond counter queue : Byte) (addr value : DWord) (s : State) : Out :=
  runPkt (.wait nodrain tag kind cond counter queue addr value) (waitPkt nodrain kind cond counter queue addr value) s
def execSignal (nodrain msix : Bool) (tag : Word) (op : Byte) (vector : BitVec 16) (addr value : DWord) (s : State) : Out :=
  runPkt (.signal nodrain msix tag op vector addr value) (signalPkt nodrain msix op vector addr value) s
def execLoop (nodrain mem : Bool) (tag count : Word) (addr : DWord) (s : State) : Out :=
  runPkt (.loop nodrain mem tag count addr) (loopPkt nodrain mem count addr) s
def execLoopEnd (tag : Word) (s : State) : Out := runPkt (.loopEnd tag) loopEndPkt s
def execIfPkt (nodrain : Bool) (tag : Word) (cond width : Byte) (addr value : DWord) (s : State) : Out :=
  runPkt (.ifPkt nodrain tag cond width addr value) (ifBegin nodrain cond width addr value) s
def execElsePkt (tag : Word) (s : State) : Out := runPkt (.elsePkt tag) elseMid s
def execEndIf (tag : Word) (s : State) : Out := runPkt (.endIf tag) endIfPkt s
def execLaunchIndirect (conc nodrain : Bool) (tag : Word) (desc grid argp : DWord) (argn : BitVec 16) (label : Word) (report : DWord) (s : State) : Out :=
  runPkt (.launchIndirect conc nodrain tag desc grid argp argn label report) (launchIndirectPkt conc nodrain tag desc grid argp argn label report) s
def execCopy (conc : Bool) (tag : Word) (ccb : DWord) (die : Byte) (label : Word) (report : DWord) (s : State) : Out :=
  runPkt (.copy conc tag ccb die label report) (copyPkt conc tag ccb die label report) s
def execCancel (tag : Word) (level queue : Byte) (label : Word) (s : State) : Out :=
  runPkt (.cancel tag level queue label) (cancelPkt level queue label) s
def execKillContext (preserve : Bool) (tag : Word) (asid : BitVec 16) (report : DWord) (s : State) : Out :=
  runPkt (.killContext preserve tag asid report) (killPkt preserve tag asid report) s
def execReclaimFence (tag : Word) (asid : BitVec 16) (s : State) : Out := runPkt (.reclaimFence tag asid) (reclaimFencePkt asid) s
def execScopeTable (nodrain : Bool) (tag : Word) (id : Byte) (pkgs : BitVec 16) (cores : BitVec 256) (s : State) : Out :=
  runPkt (.scopeTable nodrain tag id pkgs cores) (scopeTablePkt nodrain id pkgs cores) s
def execChannelAllocate (tag : Word) (journaled : Bool) (peer : Byte) (ch : BitVec 16) (result journal : DWord) (jsize : Byte) (s : State) : Out :=
  runPkt (.channelAllocate tag journaled peer ch result journal jsize) (channelAllocatePkt journaled peer ch result journal jsize) s
/-- The mode, the peer and the journal fields of a free are not used (R48, R49). -/
def execChannelFree (tag : Word) (mode peer : Byte) (ch : BitVec 16) (result journal : DWord) (jsize : Byte) (s : State) : Out :=
  runPkt (.channelFree tag mode peer ch result journal jsize) (channelFreePkt ch result) s
def execTimeslice (tag weight : Word) (d t : Byte) (s : State) : Out := runPkt (.timeslice tag weight d t) (timeslicePkt weight d t) s
def execPriority (tag : Word) (prio : Byte) (s : State) : Out := runPkt (.priority tag prio) (priorityPkt prio) s
def execNopPacket (units : BitVec 16) (tag : Word) (s : State) : Out := runPkt (.nopPacket units tag) nopPkt s

/-! ### Packets that were held (R45, R49, R52, R55) -/

/-- The packet at the read pointer acts again: it goes on, or waits further. -/
def State.rerun (s : State) (p q : Nat) : State :=
  let k := s.pkg p
  let x := k.queue q
  if k.plat.d3hot || (match tget k.ctxs x.asid with | some c => c.error || c.killed | none => true) then s
  else match s.ringPacket p q with
    | .none => s
    | .stop e => s.stopQueue p q e
    | .run i n => match pktOf i with
      | some d => packetWith p q n i d.inGraph d.drains d.body s
      | none => s

/-- A queue held for one reason tries its packet again. -/
def State.retry (s : State) (p q : Nat) (why : QHold → Bool) : State :=
  match ((s.pkg p).queue q).hold with
  | some h => if why h && ((s.pkg p).queue q).state == 2 then s.rerun p q else s
  | none => s

def execWaitMet (p q : Nat) (s : State) : Out := .next (s.retry p q (fun h => h == .wait))
def execReclaimFenceMet (p q : Nat) (s : State) : Out :=
  .next (s.retry p q (fun h => match h with | .fence _ _ => true | _ => false))
def execAdmissionResumes (p q : Nat) (s : State) : Out := .next (s.retry p q (fun h => h == .admission))
def execPacketDrainMet (p q : Nat) (s : State) : Out := .next (s.retry p q (fun h => h == .drain))
def execChannelFreeComplete (p q : Nat) (s : State) : Out :=
  .next (s.retry p q (fun h => match h with | .chanFree _ => true | _ => false))

/-- The page that a held packet waits for is unresolvable: a node of it is refused with status 0x07, any other packet
stops its queue (R49, R51). -/
def State.packetLost (s : State) (p q : Nat) : State :=
  match s.ringPacket p q with
  | .run i n =>
    let x := (s.pkg p).queue q
    match tget (s.pkg p).ctxs x.asid with
    | none => s
    | some c =>
      let k : Pk := { p := p, q := q, units := n, x := x, ctx := c }
      let finish := fun (r : PRes) => match r with
        | .done s1 => s1.consume p q n
        | .stop e s1 => s1.stopQueue p q e
        | .wait h s1 => s1.holdQueue p q h
      let refused := fun (m : Node) => ({ m with status := some 7 } : Node)
      let draft := fun (kind : NodeKind) (conc : Bool) (tag label : Word) (report : DWord) =>
        finish (s.nodePacket k (refused (draftNode (s.pkg p) q x kind conc tag label report [])))
      match i with
      | .launch conc tag _ _ _ _ _ _ label report => draft .launch conc tag label report
      | .launchIndirect conc _ tag _ _ _ _ label report => draft .launch conc tag label report
      | .copy conc tag _ _ label report => draft .copy conc tag label report
      | .graphEnd _ =>
        -- the first node that has not been read in full
        let s1 := s.updQueue p q (fun x => { x with parts := [], graph := x.graph.map (fun g => { g with nodes := g.nodes.modify x.got.length refused }) })
        s1.rerun p q
      | _ => s.stopQueue p q 0x08
  | _ => s.stopQueue p q 0x08

end Sys2Proof.Machine
end

