-- ==== Sys2Proof/Machine/Versions.lean ====
section
/-! DEFINITION. Machine/Versions.lean: the checkpoint collective and the commit of a version (spec/11 R252 to R257,
spec/15 R320). -/

namespace Sys2Proof.Machine

/-! ### CKPT -/

/-- One arrived group retires its CKPT: its first wait there (R253). -/
def State.retireCkpt (s : State) (p g : Nat) : State :=
  match s.loc p g with
  | none => s
  | some l => match l.grp.holds.find? (fun h => h.kind == .ckpt) with
    | none => s
    | some h =>
      let i : Iss := { loc := l, addr := h.addr, sel := h.lanes, ex := h.lanes, words := (0, none) }
      (s.retire i [] .keep).afterTraps i 0

/-- The checkpoint is taken when every live group has arrived, none is halted (R257), and nothing of the cluster is still to complete: its words
are read, the version's codes are checked (the commit's first pass, R254), every arrived group retires together, and the
slot is written. -/
def State.tryCheckpoint (s : State) (p c : Nat) : State :=
  let k := s.pkg p
  match tget k.clusters c with
  | none => s
  | some x =>
    if x.arrived.isEmpty || !k.allArrived c || x.committing.isSome || k.clusterBusy c false || k.clusterHalted c then s
    else
      let rd := s.ckptChecked p c
      if !rd.1 then rd.2
      else ((k.groupsOfCluster c).foldl (fun s g => s.retireCkpt p g) rd.2).updPkg p (·.checkpoint c)

/-- R253, R320: in a launch that is not versioned, and in the handler, a NOP. -/
def ckptBody (i : Iss) (s : State) : Res :=
  if !i.loc.versioned || i.g.handler.isSome then .ok s
  else .wait .ckpt [] (s.updCluster i.loc.p i.loc.blk.cluster (fun c => { c with arrived := addOnce c.arrived i.loc.g }))

/-- After the arrival, the collective is tried. -/
def State.afterArrival (s : State) : State :=
  match s.cur with
  | .issue p g _ _ _ => match s.loc p g with
    | some l => if l.versioned then s.tryCheckpoint p l.blk.cluster else s
    | none => s
  | _ => s

def execCkpt (s : State) : Out :=
  match issue { uni := true } ckptBody s with
  | .next t => .next t.afterArrival
  | o => o

/-! ### The commit's second pass (R254) -/

/-- The owner of a commit's fault entries in the operand log. -/
def commitGid (c : Nat) : Nat := noGroup + 1 + c

/-- What became of one sector or one log entry of a commit. -/
inductive Committed where
  | done (s : State)
  | waits (s : State)
  | lost (cause : Nat) (s : State)

/-- A commit's write met a page fault: one report, and the write waits for the resolution (R254, R161). -/
def State.commitFault (s : State) (p c asid va : Nat) (k : FltKind) : State :=
  if (s.pkg p).olog.any (fun o => o.gid == commitGid c && o.page == va / 65536) then s
  else
    let id := s.takeId p
    let e : OLog := { id := id.1, asid := asid, gid := commitGid c, core := 0, kind := k, page := va / 65536, write := true, accs := [], waiting := true }
    (id.2.updPkg p (fun x => { x with olog := x.olog ++ [e] })).agentFault p asid k true va

/-- The bytes of a mask, written one by one at the sector's owner. -/
def State.cohMasked (s : State) (key : SectorKey) (pa : Nat) (x : VSec) : State :=
  (List.range 64).foldl (fun s i => if bit x.mask i then s.cohPut key pa i 1 (secGet x.data i 1) else s) s

/-- The L1s and scalar caches of the cluster's cores keep no copy older than the commit's write (R254). -/
def State.commitL1 (s : State) (p c : Nat) (key : SectorKey) : State :=
  match tget (s.pkg p).clusters c with
  | none => s
  | some x => (x.blocks.filterMap (tget (s.pkg p).blocks)).foldl (fun s b => (s.l1Drop p b.core false key).l1Drop p b.core true key) s
/-- A struck word of a committing version has been dealt with. -/
def State.unstrike (s : State) (p : Nat) (w : SramWord) : State :=
  { s with strikes := s.strikes.filter (fun y => !(y.pkg == p && y.word == w)) }
def State.hitTwice (s : State) (p : Nat) (w : SramWord) : Bool := s.strikes.any (fun y => y.pkg == p && y.double && y.word == w)
/-- A sector lost to an uncorrectable error is reported in a record of kind 4 (R254, R431). -/
def State.reportLost (s : State) (p asid va : Nat) : State := s.updPkg p (fun k => k.report (k.ownerFn asid) (errRec 4 asid 0 0 0 va 0 Name3.zero))
/-- A sector's poison stands at its home, for what is written there directly. -/
def State.poisonHome (s : State) (key : SectorKey) (pa : Nat) : State := s.setHomeSec key pa { s.homeSec key pa with psn := true }

/-- One sector's bytes, as plain writes with all 64 tokens. A sector that met an uncorrectable error in the version is
written poisoned and reported (R254). -/
def State.commitSector (s : State) (p c die asid : Nat) (key : SectorKey) (x : VSec) : Committed :=
  let va := keyVa key
  let r := s.translate p asid va true
  match r.1 with
  | .fault k => .waits (r.2.commitFault p c asid va k)
  | .misplaced => .lost 0x0F r.2
  | .poisoned => .lost 0x07 r.2
  | .host _ a => .done ((List.range 64).foldl (fun s i =>
      if bit x.mask i then s.hostWrite (a + i) [BitVec.ofNat 8 (secGet x.data i 1)] else s) r.2)
  | .frame h lin wr nc =>
    let pa := lin / 64 * 64
    let hit := s.hitTwice p (.version c key)
    if s.atHome p h nc then
      let name := r.2.tokenName key pa
      let s1 := (r.2.cohMasked name pa x).unstrike p (.version c key)
      .done (if hit then (s1.poisonHome name pa).reportLost p asid va else s1)
    else if r.2.l2Ready p die key true then
      match r.2.l2 p die key with
      | none => .waits r.2
      | some e =>
        let e' : L2Sec := { e with data := secMerge e.data x.mask x.data, dirty := e.own, psn := hit || (e.psn && x.mask != BitVec.allOnes 64) }
        let s1 := ((r.2.setL2 p die key e').unstrike p (.version c key)).commitL1 p c key
        .done (if hit then s1.reportLost p asid va else s1)
    else .waits (r.2.startReq p die key pa wr true 0)

/-- One logged reduction, performed once as a near atomic, or at its home in one step (R252, R202; log 15). An entry struck since the
first pass writes its sector poisoned, as a sector of the version does (R254). (log 51, DEDUCED) -/
def State.commitRed (s : State) (p c die asid : Nat) (e : RedLog) : Committed :=
  let n := if e.w64 then 8 else 4
  let key := s.keyOf p asid e.va
  let r := s.translate p asid e.va true
  let ops : Tab Nat (DWord × DWord) := [(0, (e.val, 0))]
  match r.1 with
  | .fault k => .waits (r.2.commitFault p c asid e.va k)
  | .misplaced => .lost 0x0F r.2
  | .poisoned => .lost 0x07 r.2
  | .host _ a => .done (r.2.hostPerform a (.atom e.va e.op e.w64 ops)).2
  | .frame h lin wr nc =>
    let pa := lin / 64 * 64
    let hit := s.hitTwice p (.redLog c)
    if s.atHome p h nc || h != p then
      let name := r.2.tokenName key pa
      let d := (r.2.cohData name pa).1
      let s1 := ((r.2.cohPut name pa (e.va % 64) n (rmw e.op (8 * n) (secGet d (e.va % 64) n) ops).1).unstrike p (.redLog c)).commitL1 p c key
      .done (if hit then (s1.poisonHome name pa).reportLost p asid (e.va / 64 * 64) else s1)
    else if r.2.l2Ready p die key true then
      match r.2.l2 p die key with
      | none => .waits r.2
      | some x =>
        let v := (rmw e.op (8 * n) (secGet x.data (e.va % 64) n) ops).1
        let s1 := ((r.2.setL2 p die key { x with data := secPut x.data (e.va % 64) n v, dirty := x.own, psn := x.psn || hit }).unstrike p (.redLog c)).commitL1 p c key
        .done (if hit then s1.reportLost p asid (e.va / 64 * 64) else s1)
    else .waits (r.2.startReq p die key pa wr true 0)

def State.updCommitting (s : State) (p c : Nat) (f : Version → Version) : State :=
  s.updCluster p c (fun x => { x with committing := x.committing.map f })

/-- A sector lost to a misplaced frame or an unreadable translation: not written, and the context errs whatever the fault mode
(R254). -/
def State.commitLost (s : State) (p asid cause va : Nat) : State := s.contextError p asid cause va 0 Name3.zero

/-- Every sector of the commit that can be written now. -/
def State.commitSectors (s : State) (p c die asid : Nat) (v : Version) : State :=
  v.secs.foldl (fun s e =>
    let drop := fun (v : Version) => { v with secs := tdel v.secs e.1 }
    match s.commitSector p c die asid e.1 e.2 with
    | .done s' => s'.updCommitting p c drop
    | .waits s' => s'
    | .lost cause s' => (s'.updCommitting p c drop).commitLost p asid cause (keyVa e.1)) s

/-- The reductions, in the order in which they were logged, as far as they can go now. -/
def State.commitReds (s : State) (p c die asid : Nat) : List RedLog → State
  | [] => s
  | e :: es =>
    let drop := fun (v : Version) => { v with log := v.log.drop 1 }
    match s.commitRed p c die asid e with
    | .done s' => (s'.updCommitting p c drop).commitReds p c die asid es
    | .waits s' => s'
    | .lost cause s' => ((s'.updCommitting p c drop).commitLost p asid cause e.va).commitReds p c die asid es

/-- A commit goes on as far as it can; the Bool says that every write of it has been performed. -/
def State.commitStep (s : State) (p c : Nat) : Bool × State :=
  match tget (s.pkg p).clusters c with
  | none => (false, s)
  | some x => match x.committing, tget (s.pkg p).nodes x.node with
    | some v, some n =>
      let s1 := s.commitSectors p c x.die n.asid v
      let rest := fun (s : State) => ((tget (s.pkg p).clusters c).bind (·.committing)).getD Version.empty
      let s2 := if (rest s1).secs.isEmpty then s1.commitReds p c x.die n.asid (rest s1).log else s1
      ((rest s2).secs.isEmpty && (rest s2).log.isEmpty, s2)
    | _, _ => (false, s)

end Sys2Proof.Machine
end

