-- ==== Sys2Proof/Machine/Faults.lean ====
section
/-! DEFINITION. Machine/Faults.lean: the driver's answers to page faults and what waits for them (spec/07 R161 to R164,
spec/14 R291): replays from the operand log, engines, commits, packets, command results and deposits. -/

namespace Sys2Proof.Machine

/-! ### Replays from the operand log (R161) -/

def sizeOfBytes (n : Nat) : Size :=
  match n with
  | 1 => .b8
  | 2 => .b16
  | 4 => .b32
  | _ => .b64

/-- The event of a logged access, and an issue in whose name it is made. -/
def Acc.want (a : Acc) : Want :=
  let half := match a.op with | .load _ h _ _ => h | _ => 0
  { lane := a.lane, ptr := a.ptr, va := a.va, n := a.bytes, half := half, priv := a.priv }
def Acc.iss (a : Acc) (l : Loc) : Iss := { loc := l, addr := a.pc, sel := laneBit a.lane, ex := laneBit a.lane, words := a.words }

/-- What became of one logged access: made again, still to be made, or met by another fault. -/
inductive Replay where
  | done (s : State)
  | stop (s : State)
  | again (k : FltKind) (s : State)

/-- A replayed store of a versioned cluster enters the version; one that finds it full takes a quota checkpoint, which
records the entry as pending, and goes on after it (R255). A checkpoint that fails discards the run, and the store with it (R256).
(log 51, DEDUCED) -/
def State.replayVersioned (s : State) (l : Loc) (va : Nat) (put : State → State) : Replay :=
  let c := l.blk.cluster
  match tget (s.pkg l.p).clusters c with
  | none => .stop s
  | some x =>
    let v := x.ver.getD Version.empty
    if v.bytes + 64 * v.grow [s.keyOf l.p l.asid va] ≤ l.node.desc.quota then .done (put s)
    else if x.committing.isSome || (s.pkg l.p).clusterBusy c true || (s.pkg l.p).clusterHalted c then .stop s
    else
      let s1 := s.quotaCheckpoint l.p c
      match tget (s1.pkg l.p).clusters c with
      | some y => if y.committing.isSome then .done (put s1) else .stop s1
      | none => .stop s1

def Pkg.unreadBxi (k : Pkg) (id : Nat) : Bool := k.btes.any (fun e => e.2.any (fun o => o.id == id && o.unread))
def State.dropBxi (s : State) (p id : Nat) : State :=
  s.updPkg p (fun k => { k with btes := k.btes.map (fun e => (e.1, e.2.filter (fun o => o.id != id))) })

/-- A bulk transfer of the block at a pointer is read, now that its page is there (R316). -/
def State.readCcb (s : State) (p : Nat) (l : Loc) (a : Acc) : Replay :=
  let fail := fun (s : State) (cause : BitVec 8) (x : DWord) => Replay.done ((s.dropBxi p a.id).engTrap p a.gid a.lane a.pc cause x)
  let rd := s.vaRead p l.asid 65 (vaOf a.ptr) 64
  match rd.1 with
  | .misplaced _ => fail rd.2 0x0F a.ptr
  | .poisoned _ => fail rd.2 0x07 a.ptr
  | .fault k _ => .again k rd.2
  | .ok bs =>
    let w := wordsOf bs
    match ccbRecordBad l.ctx l.node w with
    | some (c, x) => fail rd.2 c x
    | none =>
      let put := fun (o : BteOp) => if o.id == a.id then { o with ccb := w } else o
      .done (rd.2.updPkg p (fun k => { k with btes := k.btes.map (fun e => (e.1, e.2.map put)) }))

/-- One access of a log entry is made again (R161). (log 7, DEDUCED) -/
def State.replayAcc (s : State) (l : Loc) (a : Acc) : Replay :=
  let i := a.iss l
  let free := fun (s : State) => s.updGroup l.p l.g (fun g => g.clearPend a.id)
  match a.op with
  | .load dst _ sx uni =>
    let r := s.planLoad l uni a.want
    let m : LoadForm := { uni := uni, d := dst, a := 0, size := sizeOfBytes a.bytes, sx := sx, acq := a.acq, sc := a.scope, off := 0 }
    match r.1 with
    | .misplaced => .done (r.2.defer l.p a 0x0F)
    | .poisoned => .done (r.2.defer l.p a 0x07)
    | .fault k => .again k r.2
    | .value v level =>
      let s1 := r.2.applyLoad i m a.sample ((a, a.want), .value v level)
      .done (if a.acq then s1.acquireL1 l.p l.core l.asid l.node.desc.fused a.scope else s1)
    | plan => .done ((free r.2).applyLoad i m a.sample ((a, a.want), plan))
  | .store _ =>
    let r := s.planWrite l a.va a.priv
    match r.1 with
    | .misplaced => .done (r.2.defer l.p a 0x0F)
    | .poisoned => .done (r.2.defer l.p a 0x07)
    | .fault k => .again k r.2
    | plan =>
      let go := fun (s : State) => s.applyStore i ((a, a.want), plan)
      if l.versioned && !a.priv then
        (if plan.isUncached then .done (r.2.defer l.p a 0x08) else r.2.replayVersioned l a.va go)
      else .done (go r.2)
  | .atom op w64 _ dst =>
    let r := s.planWrite l a.va false
    let m : AtomForm := { d := dst, a := 0, b := 0, c := 0, op := op, w64 := w64, ord := .plain, sc := a.scope, off := 0 }
    match r.1 with
    | .misplaced => .done (r.2.defer l.p a 0x0F)
    | .poisoned => .done (r.2.defer l.p a 0x07)
    | .fault k => .again k r.2
    | plan =>
      let s1 := match plan with | .wait key _ _ _ _ => r.2.cbSector l key | _ => r.2
      if s1.atomHeld l [plan] then .stop s1 else .done ((free s1).applyAtom i m ((a, a.want), plan))
  | .fetch => if (s.pkg l.p).unreadBxi a.id then s.readCcb l.p l a else .done s
  | .flush _ _ _ => .done s

/-- The accesses of an entry that lie on a page. -/
def OLog.onPage (o : OLog) (page : Nat) : List Acc := o.accs.filter (fun a => a.va / 65536 == page)
/-- An entry some of whose pages are resolved. -/
def OLog.ready (o : OLog) : Bool := o.accs.any (·.replayed)

/-- An entry after a change of its accesses: it waits while the page of one is unresolved, and an empty one leaves the log. -/
def State.updEntry (s : State) (p entry : Nat) (f : OLog → OLog) : State :=
  let one := fun (o : OLog) => if o.id == entry then (let x := f o; { x with waiting := x.accs.any (fun a => !a.replayed) }) else o
  s.updPkg p (fun k => { k with olog := (k.olog.map one).filter (fun o => o.id != entry || !o.accs.isEmpty) })
def State.dropAcc (s : State) (p entry acc : Nat) : State := s.updEntry p entry (fun o => { o with accs := o.accs.filter (fun a => a.id != acc) })
/-- The accesses of a page wait for its resolution, or are resolved; they stay in their entry (R161). -/
def State.markPage (s : State) (p entry page : Nat) (resolved : Bool) : State :=
  s.updEntry p entry (fun o => { o with accs := o.accs.map (fun a => if a.va / 65536 == page then { a with replayed := resolved } else a) })

/-- A replay met a fault again: its entry stays, and the driver is told of the page once more (R161, R291). -/
def State.faultAgain (s : State) (l : Loc) (entry : Nat) (a : Acc) (k : FltKind) : State :=
  let write := match a.op with | .load .. | .fetch => false | _ => true
  ((s.markPage l.p entry (a.va / 65536) false).updEntry l.p entry (fun o => { o with kind := pageFaultKind a.priv k })).faultRecords
    l.p l.g l.asid write [(a, pageFaultKind a.priv k)]

def State.entryAcc (s : State) (p entry acc : Nat) : Option Acc :=
  ((s.pkg p).olog.find? (fun o => o.id == entry)).bind (fun o => o.accs.find? (fun a => a.id == acc && a.replayed))

/-- The resolved accesses of an entry, in their order, as far as they can go. (log 53, DEDUCED) -/
def State.replayAccs (s : State) (p entry : Nat) : List Nat → State
  | [] => s
  | id :: rest =>
    match s.entryAcc p entry id with
    | none => s.replayAccs p entry rest
    | some a => match s.loc p a.gid with
      | none => s
      | some l => match s.replayAcc l a with
        | .stop s1 => s1
        | .done s1 => (s1.dropAcc p entry id).replayAccs p entry rest
        | .again k s1 => (s1.faultAgain l entry a k).replayAccs p entry rest

/-- Resolved entries are replayed, each group's in its program order; those of a group that is not resident wait for its restore
(R163). (log 53, DEDUCED) -/
def State.replayReady (s : State) (p : Nat) : State :=
  let here := fun (o : OLog) => (s.pkg p).groupResident o.gid || o.accs.any (fun a => a.op == .fetch)
  ((s.pkg p).olog.filter (fun o => o.ready && here o)).foldl (fun s o =>
    let earlier := ((s.pkg p).olog.takeWhile (fun y => y.id != o.id)).any (fun y => y.gid == o.gid && y.ready)
    if earlier then s else s.replayAccs p o.id (o.accs.map (·.id))) s

/-! ### What an answer does to the entries of a page -/

/-- An access of a page that cannot be resolved: its thread takes cause 0x06 at its next issue (R163); a bulk transfer
that was never read is dropped. -/
def State.loseAcc (s : State) (p : Nat) (a : Acc) : State :=
  let s1 := if (s.pkg p).unreadBxi a.id then s.dropBxi p a.id else s
  (s1.updGroup p a.gid (fun g => g.clearPend a.id)).engTrap p a.gid a.lane a.pc 0x06 a.ptr

/-- An engine's operation whose page cannot be resolved fails (R164, R317). (log 77, DEDUCED) -/
def State.loseEngine (s : State) (p : Nat) (o : OLog) : State :=
  let id := o.gid - 2 ^ 44
  let ptr := (o.accs.head?.map (·.ptr)).getD 0
  match (s.pkg p).blocks.find? (fun e => e.2.stream.any (fun x => x.id == id)) with
  | some (b, x) => match x.stream.find? (fun y => y.id == id) with
    | some op => s.streamFail p b op 0x06 ptr
    | none => s
  | none => match (s.pkg p).btes.find? (fun e => e.2.any (fun x => x.id == id)) with
    | some (e, ops) => match ops.find? (fun x => x.id == id) with
      | some op => s.bteEnd p e op 4 op.done
      | none => s
    | none => s

/-- The sectors and reductions of a commit on a page that cannot be resolved are lost, and the context errs; the record names the
first of them (R254). (log 51, DEDUCED) -/
def State.loseCommit (s : State) (p : Nat) (o : OLog) : State :=
  let c := o.gid - (noGroup + 1)
  let here := fun (va : Nat) => va / 65536 == o.page
  match (tget (s.pkg p).clusters c).bind (·.committing) with
  | none => s
  | some v =>
    let lost := ((v.secs.map (fun e => keyVa e.1)) ++ v.log.map (·.va)).filter here
    let cut := fun (v : Version) => { v with secs := v.secs.filter (fun e => !here (keyVa e.1)), log := v.log.filter (fun r => !here r.va) }
    (s.updCommitting p c cut).contextError p o.asid 0x06 (lost.headD (65536 * o.page)) 0 Name3.zero

/-- One waiting entry of the page (R161, R163, R164, R254). -/
def State.settleEntry (s : State) (p page : Nat) (ok : Bool) (o : OLog) : State :=
  let drop := s.updPkg p (fun k => { k with olog := k.olog.filter (fun x => x.id != o.id) })
  if 2 ^ 44 ≤ o.gid then (if ok then drop else drop.loseEngine p o)
  else if noGroup < o.gid then (if ok then drop else drop.loseCommit p o)
  else if ok then s.markPage p o.id page true
  else (o.onPage page).foldl (fun s a => (s.dropAcc p o.id a.id).loseAcc p a) s

/-- A command result that waited for the page is written, or lost (R49). -/
def State.settleWrite (s : State) (p : Nat) (ok : Bool) (w : CpWrite) : State :=
  if ok then
    let r := s.cpTry p w.asid w.ptr w.bytes w.andThen
    match r.1 with
    | .waits => r.2
    | _ => r.2.afterWrite p w.andThen
  else
    (s.updPkg p (fun k => k.report (k.ownerFn w.asid) (errRec 6 w.asid 0 0 0 (vaOf w.ptr) 0 Name3.zero))).afterWrite p w.andThen

/-- Channels whose journal waited for the page: their instruction tries again; a journal without a page breaks the
channel. (log 31, DEDUCED) -/
def State.settleJournals (s : State) (p asid page : Nat) (ok : Bool) : State :=
  ((s.pkg p).chan.snd.filter (fun e => e.2.asid == asid && e.2.jwait == some page)).foldl (fun s e =>
    let s1 := s.updSnd p e.1 (fun c => { c with jwait := none })
    if ok then s1 else s1.breakChan p e.1 { e.2 with jwait := none }) s

/-- A resolution applies to everything that waits for the page (R291); one that nothing waits for is ignored. -/
def State.settlePage (s : State) (p asid page : Nat) (ok : Bool) : State :=
  let touches := fun (o : OLog) => o.asid == asid && o.waiting &&
    (if o.accs.isEmpty then o.page == page else (o.onPage page).any (fun a => !a.replayed))
  let s1 := ((s.pkg p).olog.filter touches).foldl (fun s o => s.settleEntry p page ok o) s
  let ws := (s1.pkg p).cpWrites.filter (fun w => w.asid == asid && w.page == page)
  let s2 := s1.updPkg p (fun k => { k with cpWrites := k.cpWrites.filter (fun w => !(w.asid == asid && w.page == page)) })
  let s3 := ws.foldl (fun s w => s.settleWrite p ok w) s2
  let qs := (s3.pkg p).queues.filter (fun e => e.2.asid == asid && e.2.hold == some (.fault page))
  let s4 := qs.foldl (fun s e => if ok then s.rerun p e.1 else s.packetLost p e.1) s3
  ((s4.depositsResolved p asid page ok).settleJournals p asid page ok).replayReady p

/-! ### FLTRES and FLTRPH (R291) -/

/-- The write of FLTRPH with the answer that FLTRES holds, for a context of the function. -/
def State.answerFault (s : State) (p fn : Nat) (v : Word) (ok : Bool) : State :=
  let f := (s.pkg p).fn fn
  let asid := bits f.fltres 10 1
  if s.windowOpen p fn && bit f.fltres 0 == ok && thas (s.pkg p).ctxs asid && (s.pkg p).ownerFn asid == fn then
    s.settlePage p asid ((f.fltrpl.toNat + 2 ^ 32 * v.toNat) % 2 ^ 40) ok
  else s

def execFaultResolved (p fn : Nat) (v : Word) (s : State) : Out := .next (s.answerFault p fn v true)
def execFaultUnresolvable (p fn : Nat) (v : Word) (s : State) : Out := .next (s.answerFault p fn v false)

/-- The read of FLTREC6 pops the head record; a record that waited for room enters (R291). -/
def Fn.popFault (f : Fn) : Fn :=
  { f with flt := f.flt.drop 1 ++ f.fltWait.take (if f.flt.isEmpty then 0 else 1), fltWait := f.fltWait.drop (if f.flt.isEmpty then 0 else 1) }
def execFaultRecordPop (p fn : Nat) (s : State) : Out :=
  .next (if s.windowOpen p fn then s.updFn p fn Fn.popFault else s)

/-- The read of ERRREC9 (R431). -/
def Fn.popError (f : Fn) : Fn :=
  { f with errs := f.errs.drop 1 ++ f.errWait.take (if f.errs.isEmpty then 0 else 1), errWait := f.errWait.drop (if f.errs.isEmpty then 0 else 1) }
def execErrorRecordPop (p fn : Nat) (s : State) : Out :=
  .next (if s.windowOpen p fn then s.updFn p fn Fn.popError else s)

/-- The read of RFQ by the physical function (R291). -/
def execRetiredFramePop (p : Nat) (s : State) : Out :=
  .next (if s.windowOpen p 0 then s.updPkg p (·.updPlat (fun x => { x with rfq := x.rfq.drop 1 })) else s)

end Sys2Proof.Machine
end

