-- ==== Sys2Proof/Machine/Matrix.lean ====
section
/-! DEFINITION. Machine/Matrix.lean: signing convergence registers, and the accumulator instructions (spec/06 R130 to
R136; spec/15 R298 to R302, spec/17 R359, R360, spec/18 R370 to R377). -/

namespace Sys2Proof.Machine

/-! ### Convergence registers -/

def Block.kreg (b : Block) (k : Nat) : KReg := tgetD b.kregs k { set := 0, sigs := [] }
def Desc.roleOf (d : Desc) (gidx : Nat) : Nat :=
  let c := Config.b2n d.copy
  if gidx < c then 1 else if d.matrix && gidx < c + 4 then 2 else 0
/-- The block's four matrix groups (R37, R130). -/
def Desc.matrixSet (d : Desc) : Mask := Mask.ofPred (fun g => d.roleOf g == 2)

/-- The groups that a set names, by group index. -/
def Pkg.setGroups (k : Pkg) (b : Nat) (set : Mask) : List (Nat × Group) :=
  ((Mask.lanes set).map (fun n => k.groups.filter (fun e => e.2.blk == b && e.2.gidx == n))).flatten

/-- Words equal but for the guard (R130). -/
def sameSigning (x y : Word × Option Word) : Bool :=
  x.1 == y.1 && (x.2.getD 0).extractLsb' 0 28 == (y.2.getD 0).extractLsb' 0 28

/-- The signatures of a whole set by signing rank; none while it is not complete (R39, R130). -/
def Pkg.ranked (k : Pkg) (b : Nat) (kr : KReg) : Option (List Sig) :=
  let want := ((k.setGroups b kr.set).map (fun e => (Mask.lanes e.2.live).map (fun n => (e.1, n)))).flatten
  let got := want.map (fun w => kr.sigs.find? (fun x => x.gid == w.1 && x.lane == w.2))
  if got.all Option.isSome && !want.isEmpty then some (got.filterMap id) else none

/-- Misuse at a signing instruction (R39, R133): the signing lanes trap here, every other signer at its next issue. -/
def Iss.misused (i : Iss) (s : State) (k : Nat) (cause : BitVec 8) (taddr : DWord) (lane : Nat) : Res :=
  let l := i.loc
  let mine := fun (x : Sig) => x.gid == l.g && bit i.sel x.lane && x.pc == i.addr
  let s1 := s.updBlock l.p l.grp.blk (fun b => { b with kregs := tmod b.kregs k (fun r => { r with sigs := r.sigs.filter (fun x => !mine x) }) })
  .fail cause taddr (some lane) (s1.misuse l.p l.grp.blk k cause taddr)

/-- One signing: the lanes that still have to sign and do not hold a signature sign; which lanes have signed by now; and
the first lane that disagrees. -/
structure Signed where
  s : State
  mask : Mask
  newly : Mask

def Iss.sign (i : Iss) (s : State) (k : Nat) (before : Mask) (m : Option Mma) : Signed :=
  let l := i.loc
  let kr := l.blk.kreg k
  let newly := Mask.ofPred (fun n => bit i.ex n && !bit before n && !kr.sigs.any (fun x => x.gid == l.g && x.lane == n))
  let captured := fun (n : Nat) => (m.map (fun m => (m.regs.foldl addOnce []).map (fun r => (r, i.g.v n r)))).getD []
  let sigOf : Nat → Sig := fun n =>
    { gid := l.g, lane := n, pc := i.addr, words := i.words, ptrs := (m.map (fun m => m.ptrs i.g n)).getD [], regs := captured n }
  { s := s.updBlock l.p l.grp.blk (fun b => { b with kregs := tset b.kregs k { kr with sigs := kr.sigs ++ (Mask.lanes newly).map sigOf, freed := kr.freed && !kr.sigs.isEmpty } }),
    mask := before ||| newly, newly := newly }

/-- The lanes of this issue that have signed in it before (the wait's progress). -/
def Iss.signedBefore (i : Iss) : Mask :=
  match i.g.hold? i.addr with
  | some h => match h.kind, h.data with
    | .resign, [m] => BitVec.ofNat 32 m
    | .engineFull, [m, _, _, _] => BitVec.ofNat 32 m
    | .ksgn, [_, m, _] => BitVec.ofNat 32 m
    | _, _ => 0
  | none => 0

/-- A named group of the set has an exited lane (R39). -/
def Pkg.exitedIn (k : Pkg) (b : Nat) (set : Mask) : Bool :=
  (k.setGroups b set).any (fun e => e.2.live != allLanes) || decide ((k.setGroups b set).length < (Mask.lanes set).length)

def State.clearSigs (s : State) (p b k : Nat) : State :=
  s.updBlock p b (fun x => { x with kregs := tmod x.kregs k (fun r => { r with sigs := [], freed := false }) })

/-! ### MMA (R373, R374) -/

/-- Items 1 to 3 of R374, for the lanes that are to sign. -/
def Iss.mmaBad (i : Iss) (k : Pkg) (m : Mma) (todo : List Nat) : Option (BitVec 8 × Nat) :=
  let l := i.loc
  let kr := l.blk.kreg m.o.k.toNat
  match todo with
  | [] => none
  | n0 :: _ =>
    if kr.set != l.node.desc.matrixSet || kr.set == 0 || k.exitedIn l.grp.blk kr.set then some (0x0A, n0)
    else
      let first := (kr.sigs.head?.map (fun x => (x.words, x.ptrs))).getD (i.words, m.ptrs i.g n0)
      match todo.find? (fun n => !sameSigning first.1 i.words || first.2 != m.ptrs i.g n) with
      | some n => some (0x0A, n)
      | none => if !l.blk.bound m.t || (kr.freed && !kr.sigs.isEmpty) then some (0x09, n0) else none

/-- Items 4 and 5 of R374: the tile pointers of the complete operation. -/
def mmaIssueBad (m : Mma) (ps : List DWord) (size : Nat) : Option (BitVec 8 × DWord) :=
  if ps.any (fun x => tpBad x 128) then some (0x04, 0)
  else
    let outs := (m.tilesOf ps).filterMap (fun t => tpOutside t.1 t.2 128 128 size)
    match outs with
    | [] => none
    | o :: os => some (0x05, BitVec.ofNat 64 (os.foldl min o))

/-- The convergence register that a stalled operation names; a group instruction names none. -/
def Hold.engReg (h : Hold) : Nat :=
  match h.data with
  | [_, _, _, k] => k
  | _ => 0
/-- A complete operation of the core stalls that comes before this one: complete earlier, or in the same clock under a lower
convergence register (R131). (log 102, DEDUCED) -/
def State.engBehind (s : State) (i : Iss) (k : Nat) : Bool :=
  let l := i.loc
  let since := match i.g.hold? i.addr with | some h => if h.kind == .engineFull then h.since else (s.pkg l.p).arith | none => (s.pkg l.p).arith
  (s.pkg l.p).groups.any (fun e => e.2.core == l.core && !e.2.halted && (s.pkg l.p).groupResident e.1 && e.2.holds.any (fun h =>
    h.kind == .engineFull && h.counted.isSome && !(e.1 == l.g && h.addr == i.addr) &&
      (decide (h.since < since) || (h.since == since && decide (h.engReg < k)))))

/-- An MMA whose set is complete enters the engine queue, or its last signer stalls (R131): while the queue is full, behind one
that stalls already, or until the signers' prior accesses are performed (R132). -/
def Iss.mmaEnter (i : Iss) (s : State) (m : Mma) (sigs : List Sig) (mask : Mask) : Res :=
  let l := i.loc
  let k := m.o.k.toNat
  match mmaIssueBad m ((sigs.head?.map (·.ptrs)).getD []) l.node.desc.scratch with
  | some (c, a) => i.misused s k c a i.leader
  | none =>
    let id := match i.g.hold? i.addr with
      | some h => (match h.kind, h.data with | .engineFull, [_, n, _, _] => (n, s) | _, _ => s.takeId l.p)
      | none => s.takeId l.p
    let fk := id.2.forkOf l.p l.asid (scalarCores l.node.desc.fused l.core) ((sigs.map (·.gid)).foldl addOnce [])
    if decide (Config.engineQueue ≤ ((s.pkg l.p).core l.core).eng.waiting) || s.engBehind i k || !fk.1 then
      .wait .engineFull [mask.toNat, id.1, m.t, k] fk.2
    else
      let o : EngOp := { blk := l.grp.blk, tile := m.t, gid := l.g, lane := i.leader, pc := i.addr, kind := .mma i.words sigs, k := k,
                         mismatches := 0, started := 0, id := id.1 }
      let s1 := (fk.2.clearSigs l.p l.grp.blk k).updPkg l.p (·.enqueueEng l.core o)
      if i.ex &&& ~~~ mask == 0 then .ok s1 else .wait .resign [mask.toNat] s1

def mmaBody (m : Mma) (i : Iss) (s : State) : Res :=
  let l := i.loc
  let before := i.signedBefore
  match i.mmaBad (s.pkg l.p) m (Mask.lanes (i.ex &&& ~~~ before)) with
  | some (c, n) => i.misused s m.o.k.toNat c 0 n
  | none =>
    let r := i.sign s m.o.k.toNat before (some m)
    let stalled := match i.g.hold? i.addr with | some h => h.kind == .engineFull | none => false
    let kr := ((r.s.block? l.p l.grp.blk).map (fun b => b.kreg m.o.k.toNat)).getD { set := 0, sigs := [] }
    match (if r.newly != 0 || stalled then (r.s.pkg l.p).ranked l.grp.blk kr else none) with
    | some sigs => i.mmaEnter r.s m sigs r.mask
    | none => if i.ex &&& ~~~ r.mask == 0 then .ok r.s else .wait .resign [r.mask.toNat] r.s

/-- The checks of R372 that need .regs lie in the registers named; the rest are decode's. -/
def mmaIssue (gd : Guard) (m : Mma) (s : State) : Out :=
  issue { gd := gd, srcs := m.regs, needRole := some 2, bad := !m.o.wf m.fmt.scaled } (mmaBody m) s

def execMmaF4 (gd : Guard) (t : BitVec 2) (o : MmaOps) (s : State) : Out := mmaIssue gd { fmt := .f4, t := t.toNat, o := o } s
def execMmaF8 (gd : Guard) (t : BitVec 2) (ae5m2 be5m2 : Bool) (o : MmaOps) (s : State) : Out :=
  mmaIssue gd { fmt := .f8 ae5m2 be5m2, t := t.toNat, o := o } s
def execMmaI8 (gd : Guard) (t : BitVec 2) (au bu : Bool) (o : MmaOps) (s : State) : Out :=
  mmaIssue gd { fmt := .i8 au bu, t := t.toNat, o := o } s
def execMmaI4 (gd : Guard) (t : BitVec 2) (au bu : Bool) (o : MmaOps) (s : State) : Out :=
  mmaIssue gd { fmt := .i4 au bu, t := t.toNat, o := o } s
def execMmaBf (gd : Guard) (t : BitVec 2) (o : MmaOps) (s : State) : Out := mmaIssue gd { fmt := .bf, t := t.toNat, o := o } s
def execMmaH (gd : Guard) (t : BitVec 2) (o : MmaOps) (s : State) : Out := mmaIssue gd { fmt := .h, t := t.toNat, o := o } s

/-! ### KSGN (R360) and KCFG (R359) -/

/-- The traps of KSGN, for the lanes that are to sign. -/
def Iss.ksgnBad (i : Iss) (k : Pkg) (reg : Nat) (todo : List Nat) : Option Nat :=
  let l := i.loc
  let kr := l.blk.kreg reg
  match todo with
  | [] => none
  | n :: _ =>
    if kr.set == 0 || (Mask.lanes kr.set).any (fun g => l.node.desc.roleOf g != 2) || k.exitedIn l.grp.blk kr.set ||
        kr.sigs.any (fun x => !sameSigning x.words i.words) then some n
    else none

def ksgnBody (reg : Nat) (i : Iss) (s : State) : Res :=
  let l := i.loc
  let released := match i.g.hold? i.addr with | some h => h.kind == WaitKind.ksgn && h.data.getD 2 0 == 1 | none => false
  if released then .ok s
  else
    let before := i.signedBefore
    match i.ksgnBad (s.pkg l.p) reg (Mask.lanes (i.ex &&& ~~~ before)) with
    | some n => i.misused s reg 0x0A 0 n
    | none =>
      let r := i.sign s reg before none
      let kr := ((r.s.block? l.p l.grp.blk).map (fun b => b.kreg reg)).getD { set := 0, sigs := [] }
      match (if r.newly != 0 then (r.s.pkg l.p).ranked l.grp.blk kr else none) with
      | none => .wait .ksgn [reg, r.mask.toNat, 0] r.s
      | some sigs =>
        let id := r.s.takeId l.p
        let o : EngOp := { blk := l.grp.blk, tile := 4, gid := l.g, lane := i.leader, pc := i.addr, kind := .marker sigs, k := reg,
                           mismatches := 0, started := 0, id := id.1 }
        let s1 := (id.2.clearSigs l.p l.grp.blk reg).updPkg l.p (·.enqueueEng l.core o)
        if ((s1.pkg l.p).core l.core).eng.ops.any (fun y => y.id == id.1) then .wait .ksgn [reg, r.mask.toNat, 0] s1 else .ok s1

def execKsgn (gd : Guard) (k : BitVec 4) (s : State) : Out := issue { gd := gd, needRole := some 2 } (ksgnBody k.toNat) s

def execKcfg (k : BitVec 4) (a : Reg) (s : State) : Out :=
  issue { uni := true, srcs := one a } (fun i s =>
    let l := i.loc
    let m := i.g.v i.leader a.toNat
    if 2 ^ l.node.desc.groups ≤ m.toNat || !(l.blk.kreg k.toNat).sigs.isEmpty then .bad 0x0A
    else .ok (s.updBlock l.p l.grp.blk (fun b => { b with kregs := tset b.kregs k.toNat { set := m, sigs := [] } }))) s

/-! ### ACAL and ACFR (R298 to R300) -/

/-- Tiles that waiting ACALs of a block have asked for. -/
def Pkg.requested (k : Pkg) (b : Nat) : List Nat :=
  ((k.groups.filter (fun e => e.2.blk == b)).map (fun e => (e.2.holds.map (fun h => match h.kind, h.data with
    | .acal, [m, 0] => tilesIn m
    | _, _ => [])).flatten)).flatten

def acalBody (mask : Nat) (i : Iss) (s : State) : Res :=
  let l := i.loc
  match (match i.g.hold? i.addr with | some h => if h.kind == .acal then h.data else [] | none => []) with
  | [_, 1] => .ok s
  | [_, _] => .wait .acal [mask, 0] s
  | _ =>
    let asked := (s.pkg l.p).requested l.grp.blk
    if (tilesIn mask).any (fun t => l.blk.bound t || decide (t ∈ asked)) ||
        decide (l.node.desc.acc < l.blk.boundCount + asked.length + (tilesIn mask).length) then .bad 0x09
    else .wait .acal [mask, 0] s

/-- After a request has entered the list, the core grants what it can. -/
def State.afterRequest (s : State) : State :=
  match s.cur with
  | .issue p g _ _ _ => match s.group? p g with
    | some gr => s.grantTiles p gr.core tileFuel
    | none => s
  | _ => s

def execAcal (mask : BitVec 4) (s : State) : Out :=
  match issue { uni := true, needRole := some 2, bad := mask == 0 } (acalBody mask.toNat) s with
  | .next t => .next t.afterRequest
  | o => o

/-- Operations on tiles of a block that are queued, running, held, or complete and stalled for room (R134). -/
def Pkg.tileOps (k : Pkg) (b : Nat) (ts : List Nat) : List Nat :=
  ((k.opsOf b ++ ((tget k.blocks b).map (·.held)).getD []).filter (fun o => decide (o.tile ∈ ts))).map (·.id) ++
  ((k.groups.filter (fun e => e.2.blk == b)).map (fun e => e.2.holds.filterMap (fun h => match h.kind, h.data with
    | .engineFull, [_, id, t, _] => if t ∈ ts then some id else none
    | _, _ => none))).flatten

/-- The signatures of an MMA on one of these tiles: it takes cause 0x09 when it next receives one (R134, R374). -/
def KReg.free (r : KReg) (ts : List Nat) : KReg :=
  match r.sigs.head?.bind (fun x => mmaOf (decode x.words.1 (x.words.2.getD 0))) with
  | some m => if m.t ∈ ts then { r with freed := true } else r
  | none => r

def execAcfr (mask : BitVec 4) (s : State) : Out :=
  issue { uni := true, needRole := some 2, bad := mask == 0 } (fun i s =>
    let l := i.loc
    let ts := tilesIn mask.toNat
    if !ts.all l.blk.bound then .bad 0x09
    else if !((s.pkg l.p).tileOps l.grp.blk ts).isEmpty then .wait .acfr [] s
    else
      let free := fun (b : Block) => { b with
        tiles := b.tiles.filter (fun e => !(e.1 ∈ ts)), swapped := b.swapped.filter (fun e => !(e.1 ∈ ts)),
        kregs := b.kregs.map (fun e => (e.1, e.2.free ts)) }
      .ok ((s.updBlock l.p l.grp.blk free).grantTiles l.p l.core tileFuel)) s

/-! ### ACZR, ACLD, ACDR, MWT (R301, R302, R377) -/

/-- A group instruction enters the engine queue, or stalls while it is full, behind one that stalls already, or until the group's
prior accesses are performed (R131, R135). -/
def Iss.engEnter (i : Iss) (s : State) (t : Nat) (kind : EngKind) : Res :=
  let l := i.loc
  let fk := s.fork l
  if decide (Config.engineQueue ≤ ((s.pkg l.p).core l.core).eng.waiting) || s.engBehind i 0 || !fk.1 then .wait .engineFull [] fk.2
  else
    let id := fk.2.takeId l.p
    let o : EngOp := { blk := l.grp.blk, tile := t, gid := l.g, lane := i.leader, pc := i.addr, kind := kind, k := 0, mismatches := 0,
                       started := 0, id := id.1 }
    .ok (id.2.updPkg l.p (·.enqueueEng l.core o))

/-- The traps of R302 for a pointer. -/
def Iss.acBad (i : Iss) (t : Nat) (ptr : DWord) (ty : Ty) : Option (BitVec 8 × DWord) :=
  let L := 16 * ty.width
  if !i.loc.blk.bound t then some (0x09, 0)
  else if tpBad ptr L then some (0x04, 0)
  else match tpOutside (tpOffset ptr) ptr 128 L i.loc.node.desc.scratch with
    | some o => some (0x05, BitVec.ofNat 64 o)
    | none => none

def execAczr (t : BitVec 2) (s : State) : Out :=
  issue { uni := true, needRole := some 2 } (fun i s =>
    if !i.loc.blk.bound t.toNat then .bad 0x09 else i.engEnter s t.toNat .aczr) s

def acldTy (t : Ty) : Bool :=
  match t with
  | .fa64 | .f32 | .i32 | .f16 | .bf16 => true
  | _ => false
def acdrTy (t : Ty) : Bool :=
  match t with
  | .fa64 | .f32 | .f16 | .bf16 | .e4m3 | .e5m2 | .i32 | .i8 => true
  | _ => false

def execAcld (gd : Guard) (t : BitVec 2) (a : Reg) (st : Ty) (s : State) : Out :=
  issue { gd := gd, uni := true, srcs := pairOf a, needRole := some 2, bad := !acldTy st || !evenReg a } (fun i s =>
    let ptr := i.g.x i.leader a.toNat
    match i.acBad t.toNat ptr st with
    | some (c, x) => .trap c x none 0
    | none => i.engEnter s t.toNat (.acld ptr st)) s

def execAcdr (gd : Guard) (t : BitVec 2) (a b : Reg) (ot : Ty) (r : Rm) (nosat : Bool) (s : State) : Out :=
  issue { gd := gd, uni := true, srcs := pairOf a ++ one b, needRole := some 2,
          bad := !acdrTy ot || !evenReg a || (nosat && ot.isInt) } (fun i s =>
    let ptr := i.g.x i.leader a.toNat
    match i.acBad t.toNat ptr ot with
    | some (c, x) => .trap c x none 0
    | none => i.engEnter s t.toNat (.acdr ptr (if b = 0 then none else some (i.g.v i.leader b.toNat)) ot r nosat)) s

def execMwt (t : BitVec 2) (s : State) : Out :=
  issue { uni := true, needRole := some 2 } (fun i s =>
    let l := i.loc
    let now := (s.pkg l.p).tileOps l.grp.blk [t.toNat]
    match (match i.g.hold? i.addr with | some h => if h.kind == WaitKind.mwt then some h.data else none | none => none) with
    | some w =>
      let left := w.filter (fun id => decide (id ∈ now))
      if left.isEmpty then .ok s else .wait .mwt left s
    | none =>
      if !l.blk.bound t.toNat then .bad 0x09
      else if now.isEmpty then .ok s else .wait .mwt now s) s

end Sys2Proof.Machine
end

