-- ==== Sys2Proof/Machine/Scratchpad.lean ====
section
/-! DEFINITION. Machine/Scratchpad.lean: LDS, LDSX, STS, STSX and FEOP (spec/04 R91; spec/16 R343, R344, spec/17 R364,
R365, spec/19 R401, R402). -/

namespace Sys2Proof.Machine

/-! ### Operands: sp[va+off] and sx[va+off] with its rank register (R146) -/

structure SpForm where
  a : Reg
  /-- The rank register of the sx forms. -/
  c : Option Reg
  n : Nat
  off : Int

/-- The offset, in 32 bits without wrap. (log 70, DEDUCED) -/
def Iss.spOff (i : Iss) (m : SpForm) (lane : Nat) : Int := (i.g.n lane m.a : Int) + m.off

/-- The block addressed: the own one, or that of the cluster rank in the register. -/
def Iss.spBlock (i : Iss) (s : State) (m : SpForm) (lane : Nat) : Option Nat :=
  match m.c with
  | none => some i.loc.grp.blk
  | some c =>
    let r := i.g.n lane c
    if i.loc.node.desc.cluster ≤ r then none
    else i.loc.clu.blocks.find? (fun b => match s.block? i.loc.p b with | some x => x.rank == r | none => false)

/-- The traps in their order: misaligned, then a rank or an offset outside (R365). (log 70, DEDUCED) -/
def Iss.spBad (i : Iss) (s : State) (m : SpForm) (lanes : List Nat) : Option (BitVec 8 × DWord × Nat) :=
  match lanes.find? (fun j => i.spOff m j % (m.n : Int) != 0) with
  | some j => some (0x04, BitVec.ofInt 64 (i.spOff m j), j)
  | none =>
    let outside := fun (j : Nat) => decide (i.spOff m j < 0) || decide ((i.loc.node.desc.scratch : Int) < i.spOff m j + m.n)
    match lanes.find? (fun j => (i.spBlock s m j).isNone || outside j) with
    | some j => some (0x05, if (i.spBlock s m j).isNone then BitVec.ofNat 64 ((m.c.map (i.g.n j)).getD 0) else BitVec.ofInt 64 (i.spOff m j), j)
    | none => none

/-- Each lane's block and offset. -/
def Iss.spPlaces (i : Iss) (s : State) (m : SpForm) (lanes : List Nat) : List (Nat × Nat × Nat) :=
  lanes.filterMap (fun j => (i.spBlock s m j).map (fun b => (b, (i.spOff m j).toNat, j)))

/-! ### LDS, LDSX -/

/-- Writes the values read to each lane's destination (R365). -/
def Iss.spResult (i : Iss) (s : State) (d n : Nat) (sx : Bool) (got : Tab Nat Nat) : State :=
  i.upd s (fun g => got.foldl (fun g e => g.onLanes (laneBit e.1) (fun _ x => x.setLoaded d n sx e.2)) g)

/-- Performs what can be performed of an LDS.fe; the third component names a lane that read an uncorrectable word. -/
def State.feTry (s : State) (p core : Nat) (w : FeWait) : FeWait × State × Option (Nat × Nat) :=
  w.ops.foldl (fun acc op =>
    match acc.2.2, acc.2.1.block? p op.1 with
    | none, some b =>
      if !b.isFull op.2 then acc
      else
        let rd := acc.2.1.readWords p (unitCore core) (acc.1.words op)
        if rd.1 then (acc.1, rd.2, ((acc.1.lanesAt op).head?).map (fun e => (e.2.1, e.2.2)))
        else let r := rd.2.feOne p acc.1 op; (r.1, r.2, none)
    | _, _ => acc) (w, s, none)

/-- R365. A plain load reads at once; with .fe each operation waits for its granule. -/
def ldsBody (m : SpForm) (d : Reg) (sx fe clr : Bool) (i : Iss) (s : State) : Res :=
  let l := i.loc
  let lanes := Mask.lanes i.ex
  match i.spBad s m lanes with
  | some (c, a, j) => .badAt c a j
  | none =>
    let places := i.spPlaces s m lanes
    let waiting := match i.g.hold? i.addr with | some h => h.kind == .fe | none => false
    if !waiting && s.orderWait l.p l.g then .wait .pending [] s
    else if !fe then
      let rd := s.readWords l.p (unitCore l.core) ((places.map (fun e => SramWord.scratch e.1 (e.2.1 / 8))).foldl addOnce [])
      if rd.1 then
        let hit := places.find? (fun e => match s.struck l.p (SramWord.scratch e.1 (e.2.1 / 8)) with | some x => x.double | none => false)
        .fail 0x07 (BitVec.ofNat 64 ((hit.map (fun e => e.2.1)).getD 0)) (hit.map (fun e => e.2.2)) rd.2
      else
        .ok (i.spResult rd.2 d.toNat m.n sx (places.filterMap (fun e => (s.block? l.p e.1).map (fun b => (e.2.2, b.get e.2.1 m.n)))))
    else
      let w0 : FeWait := match i.g.hold? i.addr with
        | some h => (if h.kind == .fe then FeWait.ofData h.data else none).getD { clr := clr, n := m.n, todo := [], got := [] }
        | none => { clr := clr, n := m.n, todo := [], got := [] }
      let fresh := places.filter (fun e => !(w0.todo.any (fun y => y.2.2 == e.2.2) || thas w0.got e.2.2))
      let r := s.feTry l.p l.core { w0 with todo := w0.todo ++ fresh }
      match r.2.2 with
      | some (o, j) => .fail 0x07 (BitVec.ofNat 64 o) (some j) r.2.1
      | none =>
        if r.1.todo.isEmpty then .ok ((i.spResult r.2.1 d.toNat m.n sx r.1.got).acquire l scClu) else .wait .fe r.1.data r.2.1

def execLds (gd : Guard) (d a : Reg) (size : Size) (sx fe clr : Bool) (off : BitVec 10) (s : State) : Out :=
  issue { gd := gd, srcs := one a, dsts := sized (size == .b64) d }
    (ldsBody { a := a, c := none, n := size.bytes, off := off.toInt } d sx fe clr) s

def execLdsx (gd : Guard) (d a c : Reg) (size : Size) (sx fe clr : Bool) (off : BitVec 10) (s : State) : Out :=
  issue { gd := gd, srcs := one a ++ one c, dsts := sized (size == .b64) d }
    (ldsBody { a := a, c := some c, n := size.bytes, off := off.toInt } d sx fe clr) s

/-! ### STS, STSX -/

/-- R402: the lanes' bytes in ascending order of lanes; with .set, a release at clu scope, then the full bits. -/
def stsBody (m : SpForm) (b : Reg) (set : Bool) (i : Iss) (s : State) : Res :=
  let l := i.loc
  let lanes := Mask.lanes i.ex
  match i.spBad s m lanes with
  | some (c, a, j) => .badAt c a j
  | none =>
    let places := i.spPlaces s m lanes
    let write := fun (s : State) => places.foldl (fun s e => s.spWrite l.p e.1 e.2.1 m.n (i.g.nw (m.n == 8) e.2.2 b)) s
    let ops := (places.map (fun e => (e.1, e.2.1 / 16))).foldl addOnce []
    i.ordered s <| if !set then .ok (write s)
    else
      let rel := s.release l scClu
      if !rel.1 then .wait .fence [] rel.2 else .ok (ops.foldl (fun s o => s.fill l.p o.1 o.2) (write rel.2))

def execSts (gd : Guard) (a b : Reg) (size : Size) (set : Bool) (off : BitVec 10) (s : State) : Out :=
  issue { gd := gd, srcs := one a ++ sized (size == .b64) b }
    (stsBody { a := a, c := none, n := size.bytes, off := off.toInt } b set) s

def execStsx (gd : Guard) (a b c : Reg) (size : Size) (set : Bool) (off : BitVec 10) (s : State) : Out :=
  issue { gd := gd, srcs := one a ++ sized (size == .b64) b ++ one c }
    (stsBody { a := a, c := some c, n := size.bytes, off := off.toInt } b set) s

/-! ### FEOP -/

def Iss.feGranules (i : Iss) (a b : Reg) (lane : Nat) : List Nat := granules (i.g.n lane a) (i.g.n lane b)

/-- R344. -/
def feopBody (kind : FeKind) (a b : Reg) (i : Iss) (s : State) : Res :=
  let l := i.loc
  let lanes := Mask.lanes i.ex
  match lanes.find? (fun j => i.g.n j b != 0 && decide (l.node.desc.scratch < i.g.n j a + i.g.n j b)) with
  | some j => .badAt 0x05 (BitVec.ofNat 64 (i.g.n j a)) j
  | none =>
    let gs := ((lanes.map (i.feGranules a b)).flatten).foldl addOnce []
    i.ordered s <| match kind with
    | .set =>
      let rel := s.release l scClu
      if !rel.1 then .wait .fence [] rel.2 else .ok (gs.foldl (fun s g => s.fill l.p l.grp.blk g) rel.2)
    | .clr => .ok (gs.foldl (fun s g => s.empty l.p l.grp.blk g) s)
    | .test d =>
      let rd := s.readWords l.p (unitCore l.core) (gs.map (SramWord.fullBit l.grp.blk))
      if rd.1 then .fail 0x07 0 none rd.2
      else
        let all1 := fun (n : Nat) => (i.feGranules a b n).all l.blk.isFull
        let s1 := i.upd rd.2 (fun g => g.onLanes i.ex (fun n x => x.setP d.toNat (all1 n)))
        .ok (if lanes.any all1 then s1.acquire l scClu else s1)

def execFeop (gd : Guard) (kind : FeKind) (a b : Reg) (s : State) : Out :=
  issue { gd := gd, srcs := regs [a, b] } (feopBody kind a b) s

end Sys2Proof.Machine
end

