-- ==== Sys2Proof/Machine/Parking.lean ====
section
/-! DEFINITION. Machine/Parking.lean: when a waiting cluster is parked, and when one of its waits is met (spec/03 R67, R68). -/

namespace Sys2Proof.Machine

/-! ### What a wait needs -/

/-- The completion record that a BXW waits for: its tag and a status (R318). -/
def State.recordMet (s : State) (p asid va : Nat) (tag : Word) : Bool :=
  match (s.vaRead p asid 2 va 8).1 with
  | .ok bs => wordOf bs == tag && (bs.getD 4 0) != 0
  | _ => false

/-- A channel wait's channels are ready, or end the wait with a trap (R328, R331). -/
def State.chanMet (s : State) (p asid : Nat) (rel : Bool) (data : List Nat) : Bool :=
  let named := (pairsIn data).filterMap (fun e => (s.snd p e.1).bind (fun x => if x.asid = asid then some (e.2, x) else none))
  let go := fun (e : Nat × Snd) => if rel then e.2.open_ else e.2.ready e.1
  let ends := fun (e : Nat × Snd) => e.2.brk || (!rel && e.2.stuck e.1)
  (named.all go || named.any ends) && named.all (fun e => e.2.jwait.isNone)

/-- A wait is met: its instruction completes, or traps, when it issues next (R68). -/
def State.waitMet (s : State) (p g : Nat) (l : Loc) (h : Hold) : Bool :=
  let k := s.pkg p
  match h.kind, h.data with
  | .bxw, [ptr, tag] => s.recordMet p l.asid ptr (BitVec.ofNat 32 tag)
  | .fe, d => match FeWait.ofData d with
    | some w => w.todo.isEmpty || w.ops.any (fun o => match s.block? p o.1 with | some b => b.isFull o.2 | none => false)
    | none => false
  | .qwt, [q, slot, c, e, m] => m == 1 || (l.blk.ring q).met slot (c == 1) (e == 1)
  | .mwt, ids => let now := k.tileOps l.grp.blk [0, 1, 2, 3]; !ids.any (fun id => decide (id ∈ now))
  | .bar, [1, ph, lvl, n] => (l.bar k (BarLvl.ofNum lvl) n).ph != BitVec.ofNat 32 ph
  | .chan, rel :: d => s.chanMet p l.asid (rel == 1) d
  | .clin, _ => s.clinReady p g
  | .table, _ => decide (k.pendsOf l.core < Config.otEntries) && decide (k.ologOf l.core < Config.ologEntries)
  | _, _ => false

/-- The granules that an engine operation under way will fill. -/
def StreamOp.fills (o : StreamOp) (g : Nat) : Bool := !o.store && decide (g ∈ o.todo)
def EngOp.fills (o : EngOp) (g : Nat) : Bool :=
  match o.kind with
  | .acdr ptr _ ot _ _ => decide (g ∈ tpGranules (tpOffset ptr) ptr 128 (16 * ot.width))
  | _ => false
def Pkg.granuleDue (k : Pkg) (b g : Nat) : Bool :=
  (match tget k.blocks b with | some x => x.stream.any (·.fills g) | none => false) || (k.opsOf b).any (·.fills g)

/-- A wait that can be met from outside the cluster's groups (R67): for a completion record, or for a granule, a ring slot or a tile
that depends on an engine operation still in flight. (log 54, DEDUCED) -/
def Pkg.outsideWait (k : Pkg) (b : Nat) (h : Hold) : Bool :=
  match h.kind, h.data with
  | .bxw, _ => true
  | .fe, d => match FeWait.ofData d with
    | some w => w.ops.any (fun o => k.granuleDue o.1 o.2)
    | none => false
  | .qwt, q :: _ => match tget k.blocks b with
    | some x => x.stream.any (fun o => o.ring == some q)
    | none => false
  | .mwt, ids => (k.opsOf b).any (fun o => decide (o.id ∈ ids))
  | _, _ => false

/-! ### Parking (R67) -/

/-- The blocking waits of R33; a CKPT is never parked (R253). -/
def WaitKind.parks (w : WaitKind) : Bool :=
  match w with
  | .fe | .qwt | .mwt | .bxw | .bar | .clin | .chan | .table => true
  | _ => false

/-- Parking-pool space of a cluster's blocks, in KiB (R67, R290). (log 54, DEDUCED) -/
def Pkg.poolKiB (k : Pkg) (bs : List Nat) : Nat :=
  (bs.map (fun b => slotGroupKiB * (k.groupsOf b).length + slotBlockKiB)).sum

/-- The blocking wait that a group stands in. -/
def Group.blocked? (g : Group) : Option Hold := (g.hold? g.select.2.1).bind (fun h => if h.kind.parks then some h else none)

def State.clusterMet (s : State) (p c : Nat) : Bool :=
  ((s.pkg p).groupsOfCluster c).any (fun g => match s.loc p g with
    | some l => l.grp.holds.any (s.waitMet p g l)
    | none => false)

/-- PARK: every live group has been in a blocking wait for 131,072 clocks, and one of the waits can be met from outside. A wait
that is met by then makes the cluster ready at once (R68). (log 54, DEDUCED) (log 89, DEDUCED) -/
def State.park (s : State) (p c : Nat) : State :=
  let k := s.pkg p
  match tget k.clusters c with
  | none => s
  | some x => match tget k.nodes x.node with
    | none => s
    | some n =>
      let bs := x.blocks.filter (fun b => match tget k.blocks b with | some y => y.state != .done | none => false)
      let gs := (k.liveGroups (k.groupsOfCluster c)).filterMap (tget k.groups)
      let long := fun (g : Group) => !g.halted && (match g.blocked? with | some h => decide (h.since + 131072 ≤ k.arith) | none => false)
      let here := bs.all (fun b => match tget k.blocks b with | some y => y.state == .resident | none => false)
      let outside := gs.any (fun g => match g.blocked? with | some h => k.outsideWait g.blk h | none => false)
      if n.desc.dieres || gs.isEmpty || !gs.all long || !here || !outside || decide (k.arith < x.parkTest) then s
      else
        let need := k.poolKiB bs
        let room := match tget k.ctxs n.asid with | some y => decide (y.parkedKiB + need ≤ y.poolKiB) | none => false
        if !room then s.updCluster p c (fun y => { y with parkTest := k.arith + 131072 })
        else
          let d := s.podDrain p n.asid bs
          if !d.1 then d.2
          else
            let s1 := d.2.updPkg p (fun k => (bs.foldl (fun k b => k.updBlock b (fun y => { y with state := .parked })) k).updCtx n.asid
              (fun y => { y with parkedKiB := y.parkedKiB + need }))
            if s1.clusterMet p c then s1.updCluster p c (fun y => { y with ready := true }) else s1

def execPark (p cluster : Nat) (s : State) : Out := .next (s.park p cluster)

/-! ### Waking parked clusters (R68) -/

/-- A cluster is parked, and none of its waits has been seen met. -/
def Pkg.sleeps (k : Pkg) (x : Cluster) : Bool :=
  !x.ready && x.blocks.any (fun b => match tget k.blocks b with | some y => y.state == .parked | none => false)

/-- Marks every parked cluster ready of which some wait is met. -/
def State.wakeParked (s : State) (p : Nat) : State :=
  ((s.pkg p).clusters.filter (fun e => (s.pkg p).sleeps e.2)).foldl
    (fun s e => if s.clusterMet p e.1 then s.updCluster p e.1 (fun x => { x with ready := true }) else s) s

end Sys2Proof.Machine
end

