-- ==== Sys2Proof/Machine/Schedule.lean ====
section
/-! DEFINITION. Machine/Schedule.lean: time slices, dispatch, starts, steals, pre-emption, and the ends of blocks and
commits (spec/02 R24 to R30, spec/03 R57 to R66, spec/11 R249 to R257). -/

namespace Sys2Proof.Machine

/-! ### Readiness (R58, R60) -/

/-- A rectangle of producer blocks, clipped to the producer's grid, as linear indices. -/
def tileRect (n : Node) (t : Nat × Nat × Nat × Nat × Int × Int) (cx cy cz : Nat) : List Nat :=
  let axis := fun (a c w size : Nat) (b : Int) =>
    (List.range w).filterMap (fun (j : Nat) =>
      let v : Int := (a : Int) * (c : Int) + b + (j : Int)
      if 0 ≤ v ∧ v < (size : Int) then some v.toNat else none)
  if n.nz ≤ cz then []
  else ((axis t.2.1 cy t.2.2.2.1 n.ny t.2.2.2.2.2).map (fun y =>
    (axis t.1 cx t.2.2.1 n.nx t.2.2.2.2.1).map (fun x => x + n.nx * (y + n.ny * cz)))).flatten

/-- A consumer block is ready when every block of every rectangle that it depends on has ended (R58). -/
def Pkg.blockReady (k : Pkg) (n : Node) (idx : Nat) : Bool :=
  n.edges.all (fun e => match e.tile, tget k.nodes e.prod with
    | _, none => true
    | none, some _ => false
    | some t, some x => (tileRect x t (idx % n.nx) (idx / n.nx % n.ny) (idx / (n.nx * n.ny))).all (fun b => decide (b ∈ x.done)))

def Pkg.clusterReady (k : Pkg) (n : Node) (ci : Nat) : Bool :=
  (List.range n.desc.size).all (fun r => k.blockReady n (ci * n.desc.size + r))

/-- A node that the Lehr may serve. -/
def Node.serves (n : Node) (asid : Nat) : Bool :=
  n.asid == asid && n.kind == .launch && n.incomplete && !n.cancelled && n.clear

/-- The Lehr's order: priority 3 first, then admission order (R60). -/
def lehrBefore (x y : Nat × Node) : Bool := if x.2.prio != y.2.prio then decide (y.2.prio < x.2.prio) else decide (x.2.seq < y.2.seq)
def insertNode (x : Nat × Node) : List (Nat × Node) → List (Nat × Node)
  | [] => [x]
  | y :: ys => if lehrBefore x y then x :: y :: ys else y :: insertNode x ys
def Pkg.lehr (k : Pkg) (asid : Nat) : List (Nat × Node) := (k.nodes.filter (fun e => e.2.serves asid)).foldr insertNode []

/-- Something that a dispatcher can place: clusters that come back, an unstarted cluster, or an unplaced slice. -/
inductive Placeable where
  | back (clusters : List Nat)
  | fresh (nid ci : Nat)
  | slice (key : Nat)
deriving DecidableEq, Repr

/-- Clusters of a node that wait in the Lehr to be placed again, outside slices. -/
def Pkg.backClusters (k : Pkg) (nid : Nat) : List Nat := (k.clusters.filter (fun e => e.2.node == nid && e.2.ready)).map (·.1)

/-- Of a slice: the clusters that wait, when nothing else of it has still to be saved. -/
def Slice.back (k : Pkg) (x : Slice) : List Nat :=
  let waits := x.clusters.filter (fun c => match tget k.clusters c with | some y => y.ready | none => false)
  if (k.blocksOfClusters x.clusters).any (fun b => match tget k.blocks b with | some y => y.state == .saving | none => false) then [] else waits

/-- A cluster that has not been started is ready. -/
def Pkg.freshReady (k : Pkg) (n : Node) (ci : Nat) : Bool := !(ci ∈ n.started) && k.clusterReady n ci
/-- The runs of consecutive ready block indices of a node that the Lehr serves (R57). -/
def Pkg.runsOf (k : Pkg) (n : Node) : Nat :=
  if n.kind == .launch && n.incomplete && !n.cancelled && n.clear then
    ((List.range n.clusters).filter (fun ci => k.freshReady n ci && (ci == 0 || !k.freshReady n (ci - 1)))).length
  else 0
/-- A node's blocks hold range entries: the table's 65,536 fill in the order in which the nodes were admitted, and what finds none
stays in its node's readiness bitmap until entries free (R57). (log 104, DESIGN CHOICE) -/
def Pkg.hasRange (k : Pkg) (n : Node) : Bool :=
  decide (((k.nodes.filter (fun e => decide (e.2.seq < n.seq))).map (fun e => k.runsOf e.2)).sum < Config.lehrRanges)

/-- What a node has ready, in the order in which it is served: units that come back first (R65), then blocks of ready ranges. -/
def Pkg.readyUnits (k : Pkg) (nid : Nat) (n : Node) : List Placeable :=
  if n.desc.dieres then
    let mine := k.slices.filter (fun e => e.2.node == nid)
    (mine.filterMap (fun e => if (e.2.back k).isEmpty then none else some (Placeable.back (e.2.back k)))) ++
      (mine.filterMap (fun e =>
        if e.2.clusters.isEmpty && (List.range e.2.count).all (fun i => k.freshReady n (e.2.first + i)) && k.hasRange n then
          some (Placeable.slice e.1) else none))
  else
    (k.backClusters nid).map (fun c => Placeable.back [c]) ++
      (match firstFrom (k.freshReady n) 0 n.clusters with
       | some ci => if k.hasRange n then [Placeable.fresh nid ci] else []
       | none => [])

/-- A context that may be served and has ready work. -/
def Pkg.runs (k : Pkg) (asid : Nat) : Bool :=
  match tget k.ctxs asid with
  | some c => !c.error && !c.killed && c.haltedSince.isNone
  | none => false
def Pkg.hasReady (k : Pkg) (asid : Nat) : Bool :=
  k.runs asid && (k.lehr asid).any (fun e => !(k.readyUnits e.1 e.2).isEmpty)

/-! ### Time slices (R60) -/

/-- The context with ready work that was served longest ago, other than one; R60 orders no two that were never served, and the lower
ASID goes first (log 107, DESIGN CHOICE). (log 22, DEDUCED) -/
def Pkg.nextServed (k : Pkg) (not : Option Nat) : Option Nat :=
  (k.ctxs.foldl (fun (best : Option (Nat × Nat)) e =>
    if some e.1 == not || !k.hasReady e.1 then best
    else match best with
      | none => some (e.1, e.2.lastService)
      | some b => if e.2.lastService < b.2 || (e.2.lastService == b.2 && decide (e.1 < b.1)) then some (e.1, e.2.lastService) else best)
    none).map (·.1)

def State.grantSlice (s : State) (p asid : Nat) : State :=
  (s.updPkg p (fun k => { k with served := some asid, sliceAt := s.now })).updCtx p asid (fun c => { c with lastService := s.now })

/-- Blocks of a context on the device. -/
def Pkg.onDevice (k : Pkg) (asid : Nat) : Bool :=
  (k.blocksOfCtx asid).any (fun b => match tget k.blocks b with | some x => x.state == .queued || residentState x.state | none => false)

/-- A slice is granted when none runs, or the one that runs has neither ready nor placed work (log 22, DEDUCED). -/
def State.serveNext (s : State) (p : Nat) : State :=
  let k := s.pkg p
  let idle := match k.served with
    | some a => !k.hasReady a && !k.onDevice a
    | none => true
  if idle then (match k.nextServed none with | some a => s.grantSlice p a | none => s) else s

/-! ### Placing (R28, R29, R61) -/

/-- Fresh blocks of a cluster, in rank order. -/
def Pkg.freshBlocks (k : Pkg) (nid : Nat) (n : Node) (c ci : Nat) : List Nat × Pkg :=
  let ids := (List.range n.desc.size).map (k.uid + ·)
  let blk := fun (r : Nat) => ({
    node := nid, lid := n.lid, idx := ci * n.desc.size + r, cluster := c, rank := r, core := 0, state := .queued, age := 0, r := 0,
    scratch := [], full := [], kregs := [], rings := [], bars := [], tiles := [], tileCore := none, swapped := [], stream := [], held := [],
    uid := k.uid + r } : Block)
  (ids, { k with uid := k.uid + n.desc.size, blocks := ids.zipIdx.foldl (fun t e => tset t e.1 (blk e.2)) k.blocks })

/-- A new cluster of a node. -/
def Pkg.newCluster (k : Pkg) (nid : Nat) (n : Node) (ci : Nat) : Nat × Pkg :=
  let x : Cluster :=
    { node := nid, index := ci, die := 0, blocks := [], relaunches := 0, discards := 0, bars := [],
      ver := if n.desc.fault = 2 then some Version.empty else none, ckpt := none, arrived := [], committing := none, endCommit := false,
      discardAfter := none, decided := 0, parkTest := 0, ready := true }
  (k.uid, ({ k with uid := k.uid + 1, clusters := tset k.clusters k.uid x }).updNode nid (fun n => { n with started := n.started ++ [ci] }))

/-- The blocks of a cluster that have still to run: fresh ones where it starts from its launch record. -/
def Pkg.liveBlocks (k : Pkg) (c : Nat) : List Nat × Pkg :=
  match tget k.clusters c with
  | none => ([], k)
  | some x =>
    if x.blocks.isEmpty then match tget k.nodes x.node with
      | none => ([], k)
      | some n =>
        let r := k.freshBlocks x.node n c x.index
        (r.1, r.2.updCluster c (fun y => { y with blocks := r.1 }))
    else (x.blocks.filter (fun b => match tget k.blocks b with | some y => y.state != .done | none => false), k)

/-- Blocks that were parked leave the pool. -/
def Pkg.unpark (k : Pkg) (bs : List Nat) : Pkg :=
  bs.foldl (fun k b => match tget k.blocks b with
    | some x => if x.state == .parked then match tget k.nodes x.node with
        | some n => k.updCtx n.asid (fun c => { c with parkedKiB := c.parkedKiB - k.poolKiB [b] })
        | none => k
      else k
    | none => k) k

/-- Gives the blocks of a cluster their cores, in the core queues or, for a slice, at once. -/
def Pkg.assign (k : Pkg) (c : Nat) (bs cores : List Nat) (queued : Bool) : Pkg :=
  let k0 := (k.unpark bs).updCluster c (fun x => { x with ready := false, die := dieOfCore (cores.headD 0) })
  (bs.zip cores).foldl (fun k e =>
    let k1 := k.updBlock e.1 (fun b => { b with core := e.2, state := .queued })
    if queued then k1.updCore e.2 (fun y => { y with queue := y.queue ++ [e.1] }) else k1) k0

/-! ### A block becomes resident (R61, R66, R149) -/

def startLane (entry : DWord) (uid : Nat) : Lane :=
  { pc := entry.extractLsb' 0 56, live := true, fill := .free uid, v := [], p := 0, ff := 0 }

/-- The private windows that a context's groups hold. (log 55, DEDUCED) -/
def Pkg.windowsHeld (k : Pkg) (asid : Nat) : List Nat :=
  ((k.groups.filter (fun e => k.groupHeld e.1 && k.asidOfGroup e.1 == some asid)).map (·.2.window))

/-- The groups of a block that starts for the first time. (log 55, DEDUCED) -/
def Pkg.launchGroups (k : Pkg) (b core turn : Nat) (n : Node) : Pkg :=
  ((List.range n.desc.groups).zip (k.freeSlots core)).foldl (fun k e =>
    let held := k.windowsHeld n.asid
    let g : Group := {
      blk := b, gidx := e.1, core := core, slot := e.2, lanes := List.replicate 32 (startLane n.desc.entry k.uid),
      fair := { len := n.desc.fair, cnt := 0, slice := false, set := 0, n := 0 }, handler := none, holds := [], pend := [],
      deferred := [], halted := false, haltedAt := 0, skipBp := false, step := none, retries := 0, readySince := turn,
      window := (firstFrom (fun w => !(w ∈ held)) 0 (held.length + 1)).getD 0 }
    { k with groups := tset k.groups k.uid g, uid := k.uid + 1 }) k

/-- The groups of a block that comes back: new slots, and their entries are now the new core's (R163); of the fairness state only the
length was kept (R65). (log 89, DEDUCED) -/
def Pkg.restoreGroups (k : Pkg) (b core turn : Nat) : Pkg :=
  let gs := k.groupsOf b
  let mine := fun (o : OLog) => if o.gid ∈ gs then { o with core := core } else o
  (gs.zip (k.freeSlots core)).foldl (fun k e => k.updGroup e.1 (fun g => { g with
    core := core, slot := e.2, fair := { g.fair with cnt := 0, slice := false }, retries := 0, readySince := turn,
    holds := g.holds.map (fun h => { h with counted := h.counted.map (fun _ => k.arith) }) })) { k with olog := k.olog.map mine }

/-- One block starts on its core, which takes its tiles; operations held for it enter the core's engine queue first (R137). -/
def Pkg.startBlock (turn : Nat) (k : Pkg) (b : Nat) : Pkg :=
  match tget k.blocks b with
  | none => k
  | some x => match tget k.nodes x.node with
    | none => k
    | some n =>
      let k1 := if (k.groupsOf b).isEmpty then k.launchGroups b x.core turn n else k.restoreGroups b x.core turn
      let k2 := (k1.updCore x.core (fun c => { c with queue := c.queue.filter (· != b) })).updBlock b (fun y => { y with
        state := .resident, age := k1.uid, held := [], tileCore := some x.core })
      let k3 : Pkg := { k2 with uid := k2.uid + 1 }
      x.held.foldl (fun k o => k.enqueueEng x.core o) k3

/-- The blocks of a cluster start together; each core acquires for the threads that begin there (R193, R208). -/
def State.startCluster (s : State) (p c : Nat) (bs : List Nat) : State :=
  let s1 := s.updPkg p (fun k => (bs.foldl (Pkg.startBlock s.turns) k).updCluster c (fun x => { x with parkTest := k.arith }))
  (s1.podAcquire p bs).replayReady p

/-! ### DISPATCH (R29, R61) -/

/-- The clusters of a slice that have still to run. -/
def Slice.live (x : Slice) : Nat := if x.clusters.isEmpty then x.count else x.clusters.length

/-- The die for a slice: its own, else the lowest other one whose cores in service can hold it (R21). (log 82, DEDUCED) -/
def Pkg.sliceDie (part : Part) (k : Pkg) (x : Slice) (d : Desc) : Option Nat :=
  if x.live ≤ k.dieCap part x.die d then some x.die
  else (k.diesInService part).find? (fun e => decide (x.live ≤ k.dieCap part e d))

/-- Cores for n clusters at once (R29): their quotas fit the die (R249), and the tiles of blocks that come back fit their cores. -/
def State.slicePlan (s : State) (p die nid : Nat) (n : Node) (saved : List (List Nat)) (count : Nat) : Option (List (Nat × List Nat)) :=
  let k := s.pkg p
  if !k.quotaFits die n.desc count then none
  else
    let plan := placeSlice n.desc ((k.octetsFor die nid n.desc).map (fun o => (o, k.roomChoices s.part o))) count
    plan.filter (fun ps =>
      let at_ := ((saved.zip ps).map (fun e => e.1.zip e.2.2)).flatten
      at_.all (fun e => k.tilesFit e.2 ((at_.filter (fun x => x.2 == e.2)).map (·.1))))

/-- Places a list of clusters on a die at once, or not at all. -/
def State.placeAll (s : State) (p die nid : Nat) (n : Node) (cs : List Nat) : State :=
  match s.slicePlan p die nid n (cs.map (fun c => ((s.pkg p).liveBlocks c).1)) cs.length with
  | none => s
  | some ps =>
    (cs.zip ps).foldl (fun s e =>
      let r := (s.pkg p).liveBlocks e.1
      (s.updPkg p (fun _ => r.2.assign e.1 r.1 e.2.2 false)).startCluster p e.1 r.1) s

/-- A cluster goes into the block queues of one octet. -/
def State.placeOne (s : State) (p die nid : Nat) (n : Node) (c : Nat) : State :=
  let r := (s.pkg p).liveBlocks c
  let d : Desc := { n.desc with cluster := r.1.length }
  if !r.2.quotaFits die n.desc then s
  else match r.2.placeCluster s.part die nid d with
    | none => s
    | some x => s.updPkg p (fun _ => r.2.assign c r.1 x.2 true)

/-- Clusters of a slice come back: the whole slice on the die that can hold it, or some of them beside the others. (log 82, DEDUCED) -/
def State.placeBack (s : State) (p die nid : Nat) (n : Node) (cs : List Nat) : State :=
  let k := s.pkg p
  match k.slices.find? (fun e => e.2.node == nid && e.2.clusters.any (fun c => decide (c ∈ cs))) with
  | none => s
  | some (key, x) =>
    if cs.length < x.clusters.length then (if x.die = die then s.placeAll p die nid n cs else s)
    else match k.sliceDie s.part x n.desc with
      | none => (s.updPkg p (fun k => (cs.foldl Pkg.dropCluster k))).endNode p nid 3
      | some d =>
        if d = die then (s.updPkg p (fun k => { k with slices := tset k.slices key { x with die := d } })).placeAll p die nid n cs else s

/-- A slice that has not been placed yet. -/
def State.placeNew (s : State) (p die key nid : Nat) (n : Node) : State :=
  let k := s.pkg p
  match tget k.slices key with
  | none => s
  | some x => match k.sliceDie s.part x n.desc with
    | none => s.endNode p nid 3
    | some d =>
      if d != die || (s.slicePlan p die nid n [] x.count).isNone then s
      else
        let r := (List.range x.count).foldl (fun (acc : List Nat × Pkg) i => let y := acc.2.newCluster nid n (x.first + i); (acc.1 ++ [y.1], y.2)) ([], k)
        let k1 : Pkg := { r.2 with slices := tset r.2.slices key { x with die := d, clusters := r.1 } }
        (s.updPkg p (fun _ => k1)).placeAll p die nid n r.1

/-- A unit may go to this die: a slice only to its own. -/
def Pkg.unitDie (part : Part) (k : Pkg) (n : Node) (die : Nat) : Placeable → Bool
  | .fresh _ _ => true
  | .slice key => match tget k.slices key with
    | some x => (match k.sliceDie part x n.desc with | some d => d == die | none => true)
    | none => false
  | .back cs =>
    if !n.desc.dieres then true
    else match k.slices.find? (fun e => e.2.clusters.any (fun c => decide (c ∈ cs))) with
      | some (_, x) => if cs.length < x.clusters.length then x.die == die else
          (match k.sliceDie part x n.desc with | some d => d == die | none => true)
      | none => false

/-- The range that the Lehr gives a die: the first ready one in its order that may go there. -/
def Pkg.rangeFor (part : Part) (k : Pkg) (asid die : Nat) : Option (Nat × Node × Placeable) :=
  ((k.lehr asid).filterMap (fun e => ((k.readyUnits e.1 e.2).find? (k.unitDie part e.2 die)).map (fun u => (e.1, e.2, u)))).head?

/-- An uncorrectable word of the command processor, the Lehr or the scheduler area (R262). -/
def State.schedStrike (s : State) (p : Nat) : State :=
  let of_ := fun (x : Strike) => match x.word with | .sched _ => x.pkg == p | _ => false
  match s.strikes.find? of_ with
  | none => s
  | some x =>
    let s1 : State := { s with strikes := s.strikes.filter (fun y => y != x) }
    if !x.double then s1
    else match x.word with
      | .sched (some a) => s1.contextError p a 0x07 0 0 Name3.zero
      | _ => s1.updPkg p Pkg.deviceError

/-- DISPATCH: a die dispatcher takes one range while a core of its die has a free block-queue entry. -/
def State.dispatch (s : State) (p die : Nat) : State :=
  let s := (s.schedStrike p).serveNext p
  let k := s.pkg p
  match k.served with
  | none => s
  | some asid =>
    if !k.plat.ready || !k.runs asid || !(die ∈ k.diesInService s.part) then s
    else match k.rangeFor s.part asid die with
      | none => s
      | some (nid, n, u) => match u with
        | .back cs => if n.desc.dieres then s.placeBack p die nid n cs else s.placeOne p die nid n (cs.headD 0)
        | .fresh nid ci =>
          let r := k.newCluster nid n ci
          let t := (s.updPkg p (fun _ => r.2)).placeOne p die nid n r.1
          if (match tget (t.pkg p).clusters r.1 with | some x => x.ready | none => true) then s else t
        | .slice key => s.placeNew p die key nid n

def execDispatch (p die : Nat) (s : State) : Out := .next (s.dispatch p die)

/-! ### BLOCK_START (R28, R61) -/

/-- The queued blocks of a cluster that stand on a core. -/
def Pkg.queuedOn (k : Pkg) (c core : Nat) : List Nat :=
  ((k.core core).queue).filter (fun b => match tget k.blocks b with | some x => x.cluster == c && x.state == .queued | none => false)

/-- A core can start all the blocks of a cluster that stand at the front of its queue: slots, scratchpad, places and the
tiles of restored blocks. -/
def Pkg.coreStarts (k : Pkg) (c core : Nat) (d : Desc) : Bool :=
  let mine := k.queuedOn c core
  let front := ((k.core core).queue).take mine.length
  let room := (List.range mine.length).foldl (fun (r : Option CoreRoom) _ => match r with
    | some x => if x.holds d then some (x.less d) else none
    | none => none) (some (k.room core))
  front == mine && room.isSome && k.tilesFit core mine

/-- BLOCK_START: the head of a core's queue starts with its whole cluster, once every core of the cluster has room. -/
def State.blockStart (s : State) (p core : Nat) : State :=
  let k := s.pkg p
  match (k.core core).queue.head? with
  | none => s
  | some b => match tget k.blocks b with
    | none => s
    | some x => match tget k.clusters x.cluster, tget k.nodes x.node with
      | some cl, some n =>
        let bs := cl.blocks.filter (fun b => match tget k.blocks b with | some y => y.state == .queued | none => false)
        let cores := (bs.filterMap (tget k.blocks)).map (·.core)
        if k.runs n.asid && cores.all (fun c => k.coreStarts x.cluster c n.desc) then s.startCluster p x.cluster bs else s
      | _, _ => s

def execBlockStart (p core : Nat) (s : State) : Out := .next (s.blockStart p core)

/-! ### Steals (R62) -/

/-- One step of the LFSR x^16 + x^14 + x^13 + x^11 + 1 (log 23, DEDUCED). -/
def lfsrStep (x : BitVec 16) : BitVec 16 :=
  let b := ((x ^^^ (x >>> 2)) ^^^ ((x >>> 3) ^^^ (x >>> 5))) &&& 1
  (x >>> 1) ||| (b <<< 15)

/-- A core whose queue is empty and that has room for a block. -/
def Pkg.hungry (k : Pkg) (core : Nat) : Bool :=
  let r := k.room core
  !(k.core core).retired && !((core / 64) ∈ k.plat.deadDies) && (k.core core).queue.isEmpty && decide (1 ≤ r.slots) && decide (1 ≤ r.blocks)

/-- The victim's tail entry, if it gives it. -/
def Pkg.gives (k : Pkg) (victim thief : Nat) : Option Nat :=
  let q := (k.core victim).queue
  if q.length < 2 then none
  else q.getLast?.bind (fun b => match tget k.blocks b, k.descOf b with
    | some x, some d =>
      if d.size = 1 && (k.room thief).holds d && k.tilesFit thief [b] && k.octetTakes (thief / 8) x.node d && x.state == .queued then
        some b else none
    | _, _ => none)

/-- One request: the LFSR advances, and the victim gives its tail or refuses. R62 replaces a value that names the thief once; where the
next one does so again, the request goes to the thief itself, which refuses (log 108, DESIGN CHOICE). (log 23, DEDUCED) -/
def Pkg.steal (k : Pkg) (core : Nat) : Pkg :=
  let x1 := lfsrStep (k.core core).lfsr
  let x2 := if x1.toNat % 64 = core % 64 then lfsrStep x1 else x1
  let victim := core / 64 * 64 + x2.toNat % 64
  let k1 := k.updCore core (fun c => { c with lfsr := x2 })
  match (if (k.core victim).retired then none else k1.gives victim core) with
  | some b =>
    let k2 := (k1.updCore victim (fun c => { c with queue := c.queue.dropLast })).updBlock b (fun y => { y with core := core })
    k2.updCore core (fun c => { c with queue := [b], stealing := false })
  | none => k1.updCore core (fun c => { c with stealing := true, stealAt := k.arith + 64 })

def execStealRequest (p core : Nat) (s : State) : Out :=
  .next (s.updPkg p (fun k => if k.hungry core && !(k.core core).stealing then k.steal core else k))
/-- STEAL_RETRY: 64 clocks after a refusal, for as long as the core is hungry. -/
def execStealRetry (p core : Nat) (s : State) : Out :=
  .next (s.updPkg p (fun k =>
    if !(k.core core).stealing || decide (k.arith < (k.core core).stealAt) then k
    else if k.hungry core then k.steal core else k.updCore core (fun c => { c with stealing := false })))

/-! ### BLOCK_END and COMMIT_COMPLETE (R30, R54, R58, R254 to R257) -/

def execBlockEnd (p block : Nat) (s : State) : Out := .next ((s.blockEnd p block).settleCancels p)

/-- The completion bits of a versioned cluster, once its end commit is done. -/
def State.versionEnds (s : State) (p c : Nat) (x : Cluster) : State :=
  let bs := x.blocks.filterMap (tget (s.pkg p).blocks)
  let s1 := bs.foldl (fun s b => s.updNode p x.node (fun n => n.count b.idx b.r)) s
  (s1.updPkg p (·.endCluster c)).nodeDone p x.node

/-- COMMIT_COMPLETE: the second pass goes on; when every write has been performed the discard count restarts, and what
waited for the commit follows (R254, R257). A halted cluster's commit waits. (log 81, DEDUCED) -/
def State.commitComplete (s : State) (p c : Nat) : State :=
  let k := s.pkg p
  match tget k.clusters c with
  | none => s
  | some x =>
    if x.committing.isNone || k.clusterHalted c then s
    else
      let r := s.commitStep p c
      if !r.1 then r.2
      else
        let s1 := r.2.updCluster p c (fun y => { y with committing := none, discards := 0, discardAfter := none })
        let s2 := match (tget (r.2.pkg p).clusters c).bind (·.discardAfter) with
          | some counted => (s1.discardVersion p c).updCluster p c (fun y => { y with discards := if counted then 1 else 0 })
          | none => if x.endCommit then s1.versionEnds p c x else s1
        s2.replayReady p

def execCommitComplete (p cluster : Nat) (s : State) : Out := .next (s.commitComplete p cluster)

/-! ### Pre-emption (R60, R64, R65) -/

/-- The node's average (R64). -/
def Node.avg (n : Node) : Option Nat := if n.rcnt = 0 then none else some (n.rsum / n.rcnt)

inductive Leave where
  | drain | flush | save
deriving DecidableEq, Repr

/-- The decision of R64 for a unit with these counts. (log 64, DEDUCED) -/
def leaveBy (n : Node) (c : Ctx) (rs : List Nat) : Leave :=
  if (match n.avg with | some a => rs.all (fun r => decide (c.dThr * a ≤ 256 * r)) | none => false) then .drain
  else if n.desc.fault != 0 && (match n.avg with | some a => rs.all (fun r => decide (256 * r < c.tThr * a)) | none => true) then .flush
  else .save

/-- Flush-and-restart of one cluster: a commit that runs completes first (R257). (log 81, DEDUCED) -/
def State.flushCluster (s : State) (p c fault : Nat) : State :=
  match tget (s.pkg p).clusters c with
  | none => s
  | some x =>
    if fault = 1 then s.restart p c
    else if x.committing.isSome then s.updCluster p c (fun y => { y with discardAfter := y.discardAfter <|> some false })
    else s.discardVersion p c

/-- A resident block whose groups have all ended, and its engine operations with them: it is ending, and stays (R60). -/
def Pkg.ended (k : Pkg) (b : Nat) : Bool :=
  match tget k.blocks b with
  | some x => residentState x.state && !(k.groupsOf b).isEmpty && (k.groupsOf b).all (fun g => !k.live g) && !k.engineBusy b
  | none => false

/-- A unit leaves the device for a time slice; one with a halted group is saved, so that it stays as it is (R278). (log 64, DEDUCED) -/
def State.preempt (s : State) (p : Nat) (n : Node) (ctx : Ctx) (cs : List Nat) : State :=
  let k := s.pkg p
  let bs := (k.blocksOfClusters cs).filter (fun b => !k.ended b)
  let in_ := fun (st : BlkState) => bs.filterMap (fun b => match tget k.blocks b with | some x => if x.state == st then some x else none | none => none)
  if !(in_ .queued).isEmpty then s.updPkg p (fun k => cs.foldl Pkg.unqueue k)
  else if (in_ .resident).isEmpty then s
  else
    let halted := bs.any (fun b => (k.groupsOf b).any (fun g => match tget k.groups g with | some x => x.halted | none => false))
    match (if halted then Leave.save else leaveBy n ctx ((in_ .resident).map (·.r))) with
    | .drain => s.updPkg p (fun k => (bs.foldl (fun k b => k.updBlock b (fun x => if x.state == .resident then { x with state := .draining } else x)) k |> fun k =>
        cs.foldl (fun k c => k.updCluster c (fun x => { x with decided := k.arith })) k))
    | .flush => cs.foldl (fun s c => s.flushCluster p c n.desc.fault) s
    | .save => s.updPkg p (fun k => cs.foldl Pkg.beginSave k)

/-- The units of a context: the slices of die-resident launches, every other cluster. -/
def Pkg.unitsOf (k : Pkg) (asid : Nat) : List (Nat × List Nat) :=
  let mine := fun (nid : Nat) => match tget k.nodes nid with | some n => n.asid == asid | none => false
  let inSlice := fun (c : Nat) => k.slices.any (fun e => decide (c ∈ e.2.clusters))
  (k.slices.filter (fun e => mine e.2.node && !e.2.clusters.isEmpty)).map (fun e => (e.2.node, e.2.clusters)) ++
    (k.clusters.filter (fun e => mine e.2.node && !inSlice e.1)).map (fun e => (e.2.node, [e.1]))

/-- Work of a context that ends in the cycle of an expiry counts as complete (R60). -/
def State.endCtxDue (s : State) (p asid : Nat) : State :=
  let s1 := (((s.pkg p).blocksOfCtx asid).filter (s.pkg p).ended).foldl (fun s b => s.blockEnd p b) s
  (((s1.pkg p).unitsOf asid).map (·.2)).flatten.foldl (fun s c => match tget (s.pkg p).clusters c with
    | some x => if x.endCommit then s.commitComplete p c else s
    | none => s) s1

/-- TIME_SLICE_EXPIRY: the slice renews, or the context's units leave and another is served. -/
def State.sliceExpiry (s : State) (p : Nat) : State :=
  let k := s.pkg p
  match k.served with
  | none => s
  | some a => match tget k.ctxs a with
    | none => s.updPkg p (fun k => { k with served := none })
    | some c =>
      if s.now < k.sliceAt + c.weight * Config.tickCp then s
      else match k.nextServed (some a) with
        | none => s.updPkg p (fun k => { k with sliceAt := s.now })
        | some b =>
          let s0 := s.endCtxDue p a
          let s1 := ((s0.pkg p).unitsOf a).foldl (fun s u => match tget (s.pkg p).nodes u.1 with
            | some n => s.preempt p n c u.2
            | none => s) s0
          (s1.updCtx p a (fun c => { c with lastService := s.now })).grantSlice p b

def execTimeSliceExpiry (p : Nat) (s : State) : Out := .next (s.sliceExpiry p)

/-- DRAIN_LIMIT: a draining unit is saved 65,536 clocks after the decision. -/
def State.drainLimit (s : State) (p c : Nat) : State :=
  let k := s.pkg p
  match tget k.clusters c with
  | none => s
  | some x =>
    let drains := (k.blocksOfClusters (k.unitClusters c)).any (fun b => match tget k.blocks b with | some y => y.state == .draining | none => false)
    if drains && decide (x.decided + 65536 ≤ k.arith) then s.updPkg p (·.beginSave c) else s

def execDrainLimit (p unit : Nat) (s : State) : Out := .next (s.drainLimit p unit)

/-- Engine operations that a save waits for; those held by a persistent mismatch are saved as pending (R65). -/
def Pkg.saveWaits (k : Pkg) (b : Nat) : Bool :=
  (match tget k.blocks b with | some x => !x.stream.isEmpty | none => false) ||
    !(k.opsOf b).isEmpty || k.btes.any (fun e => e.2.any (fun o => o.blk == some b))

/-- SAVE_COMPLETE: everything of the unit has come to rest and is in its slots; it waits in the Lehr. A wait on engine
operations is looked at again. -/
def State.saved (s : State) (p c : Nat) : State :=
  let k := s.pkg p
  let cs := k.unitClusters c
  let bs := (k.blocksOfClusters cs).filter (fun b => match tget k.blocks b with | some x => x.state == .saving | none => false)
  match bs.head?.bind (tget k.blocks) with
  | none => s
  | some x => match tget k.nodes x.node with
    | none => s
    | some n =>
      if bs.any k.saveWaits || cs.any (fun c => match tget k.clusters c with | some y => y.committing.isSome | none => false) then s
      else
        let d := s.podDrain p n.asid bs
        if !d.1 then d.2
        else
          let rest := fun (g : Group) => if g.blk ∈ bs then { g with holds := g.holds.filter (fun h => h.kind != .mwt) } else g
          d.2.updPkg p (fun k =>
            let k1 : Pkg := { k with groups := k.groups.map (fun e => (e.1, rest e.2)) }
            let k2 := bs.foldl (fun k b => k.updBlock b (fun y => { y with state := .saved, tileCore := none })) k1
            (bs.filterMap (fun b => (tget k.blocks b).map (·.cluster))).foldl (fun k c => k.updCluster c (fun y => { y with ready := true })) k2)

def execSaveComplete (p unit : Nat) (s : State) : Out := .next (s.saved p unit)

/-! ### FAIRNESS_SLICE (R33) -/

/-- The count of a held group advances, and the slice begins when it expires. -/
def State.fairness (s : State) (p g : Nat) : State :=
  match s.loc p g with
  | none => s
  | some l => if l.canIssue && !l.grp.halted then s.updGroup p g (fun x => x.credit (s.pkg p).arith) else s

def execFairnessSlice (p group : Nat) (s : State) : Out := .next (s.fairness p group)

end Sys2Proof.Machine
end

