-- ==== Sys2Proof/Machine/Background.lean ====
section
/-! DEFINITION. Machine/Background.lean: what the hardware does by itself between two turns: traps of ended groups (spec/11 R239),
wipes that are due (spec/12 R266), replays (spec/07 R161), retirements (spec/01 R21), cancelled nodes (spec/03 R59) and the wake
conditions of parked clusters (R68). -/

namespace Sys2Proof.Machine

/-! ### Retirements (R21, R193, R209) -/

/-- Live groups of resident blocks on a quadrant, and blocks on a core, that have still to move. -/
def Pkg.onQuad (k : Pkg) (core quad : Nat) : List (Nat × Group) :=
  k.groups.filter (fun e => e.2.core == core && e.2.slot / 8 == quad && e.2.alive && k.groupResident e.1)
def Pkg.onCore (k : Pkg) (core : Nat) : List (Nat × Block) := k.blocks.filter (fun e => e.2.core == core && residentState e.2.state)

/-- A block's groups leave a retired quadrant, once the block's pod-scope drain is complete: for the other quadrants of the core, or,
where one finds no slot, by a save of its unit (R21). (log 100, DESIGN CHOICE) -/
def State.leaveQuad (s : State) (p core quad b : Nat) : State :=
  match tget (s.pkg p).blocks b, (s.pkg p).nodeOf b with
  | some x, some n =>
    let d := s.podDrain p n.asid [b]
    if !d.1 then d.2
    else
      let move := fun (k : Pkg) (e : Nat × Group) => match (k.freeSlots core).head? with
        | some sl => k.updGroup e.1 (fun g => { g with slot := sl })
        | none => k.beginSave x.cluster
      (d.2.updPkg p (fun k => ((k.onQuad core quad).filter (fun e => e.2.blk == b)).foldl move k)).podAcquire p [b]
  | _, _ => s

/-- The oldest retirement under way: its work moves, and then its steps 3 to 6 follow (R21). -/
def State.settleRetiring (s : State) (p : Nat) : State :=
  match (s.pkg p).plat.retiring with
  | [] => s
  | (code, unit) :: rest =>
    let k := s.pkg p
    let s1 := if code = 1 then
        (((k.onQuad (unit / 4) (unit % 4)).map (·.2.blk)).foldl addOnce []).foldl (fun s b => s.leaveQuad p (unit / 4) (unit % 4) b) s else s
    let waits := if code = 1 then !((s1.pkg p).onQuad (unit / 4) (unit % 4)).isEmpty else !((s1.pkg p).onCore unit).isEmpty
    if waits then s1 else s1.updPkg p (fun k => (k.updPlat (fun x => { x with retiring := rest })).retireReport code unit)

/-! ### Between two turns -/

/-- Nothing of a package is waiting to be done between turns. -/
def Pkg.calm (k : Pkg) : Bool :=
  !k.groups.any (fun e => !e.2.alive && !e.2.deferred.isEmpty) && k.wipesDue.isEmpty && !k.olog.any (·.ready) && k.plat.retiring.isEmpty &&
    !k.nodes.any (fun e => e.2.cancelled && e.2.incomplete) && !k.clusters.any (fun e => k.sleeps e.2)

/-- The traps of groups that have ended (R239). (log 75, DEDUCED) -/
def State.lateAll (s : State) (p : Nat) : State :=
  ((s.pkg p).groups.filter (fun e => !e.2.alive && !e.2.deferred.isEmpty)).foldl (fun s e => (s.lateTrap p e.1).getD s) s

/-- The wipe recreations that a physical read or a struck check-bit entry made due (R262, R266). -/
def State.wipeAll (s : State) (p : Nat) : State :=
  let due := (s.pkg p).wipesDue
  due.foldl (fun s sec => s.startWipe (s.wipeName p (64 * sec)) (64 * sec)) (s.updPkg p (fun k => { k with wipesDue := [] }))

/-- One package between turns. (log 6, DEDUCED) -/
def State.settlePkg (s : State) (p : Nat) : State :=
  if (s.pkg p).calm then s
  else (((((s.lateAll p).wipeAll p).replayReady p).settleRetiring p).settleCancels p).wakeParked p
def State.background (s : State) : State := s.pkgs.foldl (fun s e => s.settlePkg e.1) s

end Sys2Proof.Machine
end

