-- ==== Sys2Proof/Machine/Control.lean ====
section
/-! DEFINITION. Machine/Control.lean: control flow, traps and the ends of threads (spec/04 R83; spec/15 R313, R314, spec/16
R332, spec/17 R358, spec/18 R378, spec/19 R392, R405, R411), and words that are no instruction or cannot be fetched. -/

namespace Sys2Proof.Machine

def execNop (s : State) : Out := issue {} (fun _ s => .ok s) s

/-- The target of a 19-bit displacement in words (R314). -/
def branchTarget (addr : Addr) (disp : BitVec 19) : Addr := addr + (disp.signExtend 56) * 4

def Iss.jump (i : Iss) (f : Nat → Addr) : Tab Nat Addr := (Mask.lanes i.ex).map (fun n => (n, f n))

def execBra (gd : Guard) (disp : BitVec 19) (s : State) : Out :=
  issue { gd := gd } (fun i s => .done s (i.jump (fun _ => branchTarget i.addr disp)) 0 .keep) s

/-- v127 receives the low word of the return address (R74, R314). -/
def execCall (disp : BitVec 19) (s : State) : Out :=
  issue { dsts := [127] } (fun i s =>
    .done (i.lanes s false (fun _ l => l.setV 127 ((i.addr + 4).extractLsb' 0 32))) (i.jump (fun _ => branchTarget i.addr disp)) 0 .keep) s

/-- Return targets: the RET's own upper address bits and each lane's v127 (R74, R392). -/
def Iss.retTarget (i : Iss) (n : Nat) : Addr := i.addr.extractLsb' 32 24 ++ i.g.v n 127

def execRet (s : State) : Out :=
  issue { srcs := [127] } (fun i s =>
    match (Mask.lanes i.ex).find? (fun n => (i.retTarget n).toNat % 4 != 0) with
    | some n => .badAt 0x04 ((i.retTarget n).setWidth 64) n
    | none => .done s (i.jump i.retTarget) 0 .keep) s

/-- R358: alignment, then the region of fetches. -/
def execJmpi (a : Reg) (s : State) : Out :=
  issue { srcs := pairOf a } (fun i s =>
    let t := fun (n : Nat) => i.g.x n a.toNat
    match (Mask.lanes i.ex).find? (fun n => (t n).toNat % 4 != 0) with
    | some n => .badAt 0x04 (t n) n
    | none => match (Mask.lanes i.ex).find? (fun n => ridOf (t n) != i.loc.fetchRid) with
      | some n => .badAt 0x05 (t n) n
      | none => .done s (i.jump (fun n => (t n).extractLsb' 0 56)) 0 .keep) s

def execYield (s : State) : Out := issue {} (fun _ s => .done s [] 0 .yield) s

/-- The software trap carries its code into s.tcause (R405). -/
def execTrap (code : BitVec 9) (s : State) : Out := issue {} (fun _ _ => .trap 0x10 0 none code) s
/-- A before trap of cause 0x11; the code is recorded nowhere (R313). -/
def execBkpt (code : BitVec 9) (s : State) : Out :=
  let _unrecorded := code
  issue {} (fun _ _ => .trap 0x11 0 none 0) s

/-- The return from the device trap handler; outside it, cause 0x01 (R406). -/
def execTret (s : State) : Out :=
  issueWith (fun l => { bad := l.grp.handler.isNone }) (fun i s =>
    let r := (i.g).trapReturn i.ex
    .done (i.upd s (fun _ => r.1)) r.2 0 .keep) s

/-! ### EXIT -/

/-- R332, R333: the lanes leave; the last one ends the group, which leaves its barriers and its handler. -/
def exitBody (i : Iss) (s : State) : Res :=
  let l := i.loc
  let s1 := s.exitSignatures l i.ex
  let s2 := i.upd s1 (fun g => g.onLanes i.ex (fun _ x => { x with live := false }))
  let ended := !(s2.pkg l.p).live l.g
  .ok (if ended then s2.leaveBarriers l else s2)

def execExit (s : State) : Out := issue {} exitBody s

/-! ### Words that are no instruction, and words that cannot be fetched -/

/-- Cause 0x01 whatever exec holds (R95). -/
def execIllegalInstruction (w0 : Word) (w1 : Option Word) (s : State) : Out :=
  let _words := (w0, w1)
  issue { bad := true } (fun _ s => .ok s) s

/-- The address of the word that the fetch failed on: the second where the first is the start of a pair. -/
def failedWord (addr : Addr) (words : Word × Option Word) : Addr := if twoWords words.1 then addr + 4 else addr

/-- R166: a failed region check or a misplaced frame traps at the PC; a page that is not there enters the operand log
once, and the group waits at that PC. -/
def fetchFail (s : State) : State :=
  match s.cur with
  | .issue p g addr sel words =>
    match s.loc p g with
    | none => s
    | some l =>
      let a := failedWord addr words
      let i : Iss := { loc := l, addr := addr, sel := sel, ex := sel, words := words }
      let rd := s.fetchWord l a
      let s := rd.2
      match rd.1 with
      | .word _ | .wait => s
      | .bad c => s.issueTrap i c (BitVec.ofNat 8 l.fetchRid ++ a) none 0
      | .fault =>
        let waiting := (s.pkg p).olog.any (fun o => o.gid == g && o.accs.any (fun x => x.op == .fetch && x.va / 65536 == a.toNat / 65536))
        if waiting then s.hold i .fetch []
        else if Config.ologEntries ≤ (s.pkg p).ologOf l.core then s.hold i .table []
        else
          let id := s.takeId p
          let acc : Acc :=
            { id := id.1, gid := g, lane := Mask.lowest sel, pc := addr, words := words, op := .fetch, bytes := 4,
              ptr := BitVec.ofNat 8 l.fetchRid ++ a, va := a.toNat, priv := false, acq := false, rel := false, scope := 0, sample := false, replayed := false }
          let kind := match (s.translate p l.asid a.toNat false).1 with
            | .fault k => k
            | _ => .notPresent
          (id.2.logFaults l false [(acc, kind)]).hold i .fetch []
  | _ => s

def execFetchFault (s : State) : Out := .next (fetchFail s)

end Sys2Proof.Machine
end

