-- ==== Sys2Proof/Machine/Convert.lean ====
section
/-! DEFINITION. Machine/Convert.lean: conversions and dot products (spec/04 R89; spec/05 R112 to R120; spec/15 R323,
spec/16 R340, spec/17 R357, spec/18 R380, spec/19 R393, R407). -/

namespace Sys2Proof.Machine

def wide (t : Ty) : Bool := t.width == 64

def execCvt (gd : Guard) (d a : Reg) (dt sty : Ty) (r : Rm) (nosat : Bool) (s : State) : Out :=
  perLane { gd := gd, srcs := sized (wide sty) a, dsts := sized (wide dt) d, needF64 := dt == .f64 || sty == .f64 }
    (fun g n l => l.putF (wide dt) d (convert dt sty r nosat (g.nw (wide sty) n a))) s

/-- Element k of w bits of a word, and that element replaced. -/
def elemAt (x w k : Nat) : Nat := x / 2 ^ (w * k) % 2 ^ w
def elemPut (x w k y : Nat) : Nat := x - elemAt x w k * 2 ^ (w * k) + y % 2 ^ w * 2 ^ (w * k)

/-- R115: the sources a and b go to elements 2j and 2j + 1 of a copy of c. -/
def execPack (gd : Guard) (d a b c : Reg) (dt sty : Ty) (r : Rm) (nosat : Bool) (j : BitVec 2) (s : State) : Out :=
  perLane { gd := gd, srcs := regs [a, b, c], dsts := one d } (fun g n l =>
    let x := convert dt sty r nosat (g.n n a)
    let y := convert dt sty r nosat (g.n n b)
    let k := 2 * j.toNat
    l.putF false d (elemPut (elemPut (g.n n c) dt.width k x.1) dt.width (k + 1) y.1, x.2 ||| y.2)) s

/-- The flags of an exact unpacking: NV for a signalling NaN alone (R116). -/
def unpack (dt sty : Ty) (x : Nat) : Nat × BitVec 5 :=
  let r := convert dt sty .rn false x
  (r.1, r.2 &&& ffNv)

def execUnpk (gd : Guard) (d a : Reg) (k : BitVec 3) (sty dt : Ty) (s : State) : Out :=
  perLane { gd := gd, srcs := one a, dsts := one d } (fun g n l =>
    l.putF false d (unpack dt sty (elemAt (g.n n a) sty.width k.toNat))) s

/-- The largest exponent of an element format (R117). -/
def emaxOf : Ty → Nat
  | .e4m3 => 8
  | .e5m2 => 15
  | _ => 2

/-- The E8M0 code of a block scale (R117). -/
def scaleCode (et : Ty) (x : Nat) : Nat :=
  match f32.decode (x % 2 ^ 31) with
  | .fin _ m e => if m = 0 then 0 else (clampInt' (((m.log2 : Int) + e) - emaxOf et + 127)).toNat
  | _ => 0xFF
where
  clampInt' (x : Int) : Int := if x < 0 then 0 else if 254 < x then 254 else x

def execScex (gd : Guard) (d a : Reg) (et : Ty) (s : State) : Out :=
  perLane { gd := gd, srcs := one a, dsts := one d } (fun g n l => l.put false d (scaleCode et (g.n n a))) s

/-! ### Dot products -/

def elemInt (w : Nat) (uns : Bool) (x : Nat) : Int := if uns then (x : Int) else signedOf w x

/-- R119. -/
def dotInt (i4 au bu : Bool) (a b : Nat) : Int :=
  let w := if i4 then 4 else 8
  ((List.range (32 / w)).map (fun k => elemInt w au (elemAt a w k) * elemInt w bu (elemAt b w k))).sum

def execIdot (gd : Guard) (d a b c : Reg) (i4 au bu sat : Bool) (s : State) : Out :=
  perLane { gd := gd, srcs := regs [a, b, c], dsts := one d } (fun g n l =>
    let y := dotInt i4 au bu (g.n n a) (g.n n b) + signedOf 32 (g.n n c)
    let z := if sat then max (-(2 : Int) ^ 31) (min y (2 ^ 31 - 1)) else y
    l.put false d (z.emod (2 ^ 32)).toNat) s

def DotFmt.ty : DotFmt → Ty
  | .e4m3 => .e4m3
  | .e5m2 => .e5m2
  | .e2m1 => .e2m1

/-- The exact sum of terms: a NaN, an infinity, or the sum with the sign rule for zero of R120. -/
def sumTerms (r : Rm) (ts : List FVal) : FVal :=
  if ts.any FVal.isNan then .nan false
  else if ts.any (fun t => t.isInf && t.sign) && ts.any (fun t => t.isInf && !t.sign) then .nan false
  else if ts.any FVal.isInf then .inf (ts.any (fun t => t.isInf && t.sign))
  else match ts with
    | [] => .fin false 0 0
    | t :: rest => rest.foldl (faddEx .rn) t |> fix
where
  /-- A sum of zero: −0 when every term is −0, +0 when every term is +0, else by the mode (R120). -/
  fix (v : FVal) : FVal :=
    match v with
    | .fin n m e =>
      if m = 0 then
        if ts.all (fun t => t.isZero && t.sign) then .fin true 0 0
        else if ts.all (fun t => t.isZero && !t.sign) then .fin false 0 0
        else .fin (r == .rd) 0 0
      else .fin n m e
    | v => v

/-- R120: the scaled products and c, summed exactly, rounded once. The sign of a product of zero stands. -/
def fdotValue (fmt : DotFmt) (r : Rm) (a b c sa sb : Nat) : Nat × BitVec 5 :=
  let t := DotFmt.ty fmt
  let f := Ty.fmt t
  let scale := fmulEx (e8m0 sa) (e8m0 sb)
  let xs := (List.range (32 / t.width)).map (fun k => (f.decode (elemAt a t.width k), f.decode (elemAt b t.width k)))
  let cv := f32.decode c
  let terms := xs.map (fun x => fmulEx scale (fmulEx x.1 x.2)) ++ [cv]
  let args := (xs.map (fun x => [x.1, x.2])).flatten ++ [e8m0 sa, e8m0 sb, cv]
  fpFinish f32 r args (sumTerms r terms)

def execFdot (gd : Guard) (d a b c sr : Reg) (fmt : DotFmt) (ja jb : BitVec 2) (r : Rm) (s : State) : Out :=
  perLane { gd := gd, srcs := regs [a, b, c, sr], dsts := one d } (fun g n l =>
    l.putF false d (fdotValue fmt r (g.n n a) (g.n n b) (g.n n c)
      (elemAt (g.n n sr) 8 ja.toNat) (elemAt (g.n n sr) 8 jb.toNat))) s

end Sys2Proof.Machine
end

