-- ==== Sys2Proof/Machine/Moves.lean ====
section
/-! DEFINITION. Machine/Moves.lean: moves, comparisons and predicates (spec/04 R86; spec/16 R336, spec/17 R356,
spec/18 R376, R383, R384, spec/19 R394, R409). -/

namespace Sys2Proof.Machine

def execMov (u : Bool) (d a : Reg) (pair : Bool) (s : State) : Out :=
  perLane { uni := u, srcs := sized pair a, dsts := sized pair d } (fun g n l =>
    if pair then l.setX d.toNat (g.x n a.toNat) else l.setV d.toNat (g.v n a.toNat)) s
def execMovi (u : Bool) (d : Reg) (imm : BitVec 16) (s : State) : Out :=
  perLane { uni := u, dsts := one d } (fun _ _ l => l.setV d.toNat (imm.signExtend 32)) s
def execMovh (u : Bool) (d : Reg) (imm : BitVec 16) (s : State) : Out :=
  perLane { uni := u, srcs := one d, dsts := one d } (fun g n l =>
    l.setV d.toNat (imm ++ (g.v n d.toNat).extractLsb' 0 16)) s
def execSel (u : Bool) (gd : Guard) (d a b : Reg) (pair : Bool) (sp : BitVec 3) (neg : Bool) (s : State) : Out :=
  perLane { gd := gd, uni := u, srcs := sized pair a ++ sized pair b, dsts := sized pair d, preds := [sp.toNat] } (fun g n l =>
    let r := if g.p n sp.toNat != neg then a else b
    if pair then l.setX d.toNat (g.x n r.toNat) else l.setV d.toNat (g.v n r.toNat)) s

/-! ### Comparisons -/

def condOf (c : Cond) (x y : Int) : Bool :=
  match c with
  | .eq => x == y
  | .ne => x != y
  | .lt => decide (x < y)
  | .le => decide (x ≤ y)
  | .gt => decide (y < x)
  | .ge => decide (y ≤ x)

/-- r op P[pc] (R86). -/
def combine (op : Comb) (r p : Bool) : Bool :=
  match op with
  | .none => r
  | .and => r && p
  | .or => r || p
  | .xor => r != p

def execIcmp (u : Bool) (gd : Guard) (d : BitVec 3) (a b : Reg) (cond : Cond) (uns w64 : Bool) (pc : BitVec 3) (op : Comb)
    (s : State) : Out :=
  perLane { gd := gd, uni := u, srcs := sized w64 a ++ sized w64 b, preds := [pc.toNat], pdsts := [d.toNat] } (fun g n l =>
    let w := if w64 then 64 else 32
    let rd := fun r => if uns then (g.nw w64 n r : Int) else signedOf w (g.nw w64 n r)
    l.setP d.toNat (combine op (condOf cond (rd a) (rd b)) (g.p n pc.toNat))) s

/-- The condition on two values, and NV (R337). -/
def fcondOf (c : FCond) (x y : FVal) : Bool × BitVec 5 :=
  let nan := x.isNan || y.isNan
  let eq := feqv x y
  let lt := !nan && fltv x y
  let gt := !nan && fltv y x
  let snan := ffIf (x.isSnan || y.isSnan) ffNv
  let ordered := fun (r : Bool) => (!nan && r, ffIf nan ffNv)
  let unordered := fun (r : Bool) => (nan || r, snan)
  match c with
  | .eq => ordered eq
  | .ne => ordered (!eq)
  | .lt => ordered lt
  | .le => ordered (lt || eq)
  | .gt => ordered gt
  | .ge => ordered (gt || eq)
  | .ord => (!nan, snan)
  | .unord => (nan, snan)
  | .ueq => unordered eq
  | .une => unordered (!eq)
  | .ult => unordered lt
  | .ule => unordered (lt || eq)
  | .ugt => unordered gt
  | .uge => unordered (gt || eq)

def execFcmp (gd : Guard) (d : BitVec 3) (a b : Reg) (cond : FCond) (pc : BitVec 3) (op : Comb) (w64 : Bool) (s : State) : Out :=
  perLane { gd := gd, srcs := sized w64 a ++ sized w64 b, preds := [pc.toNat], pdsts := [d.toNat], needF64 := w64 } (fun g n l =>
    let fmt := if w64 then f64 else f32
    let r := fcondOf cond (fmt.decode (g.nw w64 n a)) (fmt.decode (g.nw w64 n b))
    (l.setP d.toNat (combine op r.1 (g.p n pc.toNat))).orFf r.2) s

/-! ### Predicates -/

def execPlgt (gd : Guard) (d a b c : BitVec 3) (tt : BitVec 8) (s : State) : Out :=
  perLane { gd := gd, preds := [a.toNat, b.toNat, c.toNat], pdsts := [d.toNat] } (fun g n l =>
    l.setP d.toNat (bit tt ((g.p n a.toNat).toNat + 2 * (g.p n b.toNat).toNat + 4 * (g.p n c.toNat).toNat))) s

/-- Σ over j in exec with P[j][a] = 1 of 2^j (R384, R408). -/
def Iss.predMask (i : Iss) (a : BitVec 3) : Mask := Mask.ofPred (fun j => bit i.ex j && i.g.p j a.toNat)

def execPtov (d : Reg) (a : BitVec 3) (mask : Bool) (s : State) : Out :=
  acrossLanes { dsts := one d, preds := [a.toNat] } (fun i n l =>
    l.setV d.toNat (if mask then i.predMask a else if i.g.p n a.toNat then 1 else 0)) s
def execVtop (d : BitVec 3) (a : Reg) (mask : Bool) (s : State) : Out :=
  acrossLanes { srcs := one a, pdsts := [d.toNat] } (fun i n l =>
    l.setP d.toNat (if mask then bit (i.g.v i.leader a.toNat) n else i.g.v n a.toNat != 0)) s

end Sys2Proof.Machine
end

