-- ==== Sys2Proof/Machine/CrossLane.lean ====
section
/-! DEFINITION. Machine/CrossLane.lean: operations across the lanes of a group (spec/04 R90; spec/17 R366, R368, spec/19 R395,
R408). -/

namespace Sys2Proof.Machine

/-- The source lane of SGAT, where it is valid (R395). -/
def gatherLane (mode : SgMode) (seg k i : Nat) : Option Nat :=
  let w := 2 ^ (5 - seg)
  let base := i - i % w
  match mode with
  | .at => some (base + k % w)
  | .lo => if base + k ≤ i then some (i - k) else none
  | .hi => if i + k < base + w then some (i + k) else none
  | .xor => some (base + (i % w).xor (k % w))

def sgSrcs : SgSrc → List Nat
  | .imm _ => []
  | .reg b => one b

def execSgat (gd : Guard) (d a : Reg) (mode : SgMode) (src : SgSrc) (seg : BitVec 3) (s : State) : Out :=
  acrossLanes { gd := gd, srcs := one a ++ sgSrcs src, dsts := one d } (fun i n l =>
    let k := match src with
      | .imm k => k.toNat
      | .reg b => i.g.n n b % 32
    let j := match gatherLane mode seg.toNat k n with
      | some j => if bit i.ex j then j else n
      | none => n
    l.setV d.toNat (i.g.v j a.toNat)) s

def execVote (gd : Guard) (dst : VoteDst) (a : BitVec 3) (s : State) : Out :=
  let dsts := match dst with
    | .mask d => one d
    | _ => []
  let pdsts := match dst with
    | .mask _ => []
    | .every d | .some d | .same d => [d.toNat]
  acrossLanes { gd := gd, dsts := dsts, preds := [a.toNat], pdsts := pdsts } (fun i _ l =>
    let m := i.predMask a
    match dst with
    | .mask d => l.setV d.toNat m
    | .every d => l.setP d.toNat (m == i.ex)
    | .some d => l.setP d.toNat (m != 0)
    | .same d => l.setP d.toNat (m == 0 || m == i.ex)) s

/-- u[j] of R369: V[j][a] for j in exec, else the identity. -/
def Iss.inputs (i : Iss) (op : LaneOp) (a : Reg) : List Nat :=
  laneList.map (fun j => if bit i.ex j then i.g.n j a else laneIdent op 32)

def execLred (gd : Guard) (d a : Reg) (op : LaneOp) (s : State) : Out :=
  acrossLanes { gd := gd, srcs := one a, dsts := one d } (fun i _ l => l.putF false d (treeAll op 32 (i.inputs op a))) s

/-- The prefix of each lane of exec, with every node evaluated on the way (R369). -/
def Iss.prefixes (i : Iss) (op : LaneOp) (incl : Bool) (a : Reg) : List (Nat × BitVec 5) :=
  let u := i.inputs op a
  let t := treeLevels op 32 5 u
  laneList.map (fun j =>
    let r := treePrefix op 32 t.1 j
    if incl then
      let q := laneOp op 32 r.1 (u.getD j 0)
      (q.1, r.2 ||| q.2)
    else r)

/-- The flags of LPFX: the union over every node evaluated, those of the tree and those of the lanes of exec. (log 40, DEDUCED) -/
def Iss.prefixFlags (i : Iss) (op : LaneOp) (incl : Bool) (a : Reg) : BitVec 5 :=
  (Mask.lanes i.ex).foldl (fun f j => f ||| ((i.prefixes op incl a).getD j (0, 0)).2) (treeLevels op 32 5 (i.inputs op a)).2

def execLpfx (gd : Guard) (d a : Reg) (op : LaneOp) (incl : Bool) (s : State) : Out :=
  acrossLanes { gd := gd, srcs := one a, dsts := one d } (fun i n l =>
    (l.put false d ((i.prefixes op incl a).getD n (0, 0)).1).orFf (i.prefixFlags op incl a)) s

def execLmch (d a : Reg) (w64 : Bool) (s : State) : Out :=
  acrossLanes { srcs := sized w64 a, dsts := one d } (fun i n l =>
    l.setV d.toNat (Mask.ofPred (fun j => bit i.ex j && i.g.nw w64 j a == i.g.nw w64 n a))) s

end Sys2Proof.Machine
end

