-- ==== Sys2Proof/Machine/Special.lean ====
section
/-! DEFINITION. Machine/Special.lean: the special registers that SRD and SWR reach (spec/04 R72, R73; spec/02 R25, R35; spec/11
R242; spec/19 R397, R398). -/

namespace Sys2Proof.Machine

/-- s.tcause in a handler (R242). -/
def Handler.tcause (h : Handler) : Nat := h.cause.toNat + 2 ^ 8 * h.lane.toNat + 2 ^ 16 * h.code.toNat

/-- s.fair as it reads (R35). With L = 0 the count of R32 has no bound; CNT shows its low 13 bits (log 111, DESIGN CHOICE). -/
def Fair.word (f : Fair) : Nat := f.len % 2 ^ 13 + 2 ^ 13 * (f.cnt % 2 ^ 13) + 2 ^ 26 * Config.b2n f.slice

/-- LEN as a write stores it (R35). -/
def fairLen (n : Nat) : Nat := if n = 0 then 0 else if n < 64 then 64 else min n 4096

/-- The value that lane n reads from a special register (R25, R72, R398). -/
def Iss.special (i : Iss) (s : State) (r : SReg) (n : Nat) : Nat :=
  let l := i.loc
  let nd := l.node
  match r with
  | .lane => n
  | .grp => l.grp.gidx
  | .thr => 32 * l.grp.gidx + n
  | .role => l.role
  | .blkx => l.blk.idx % nd.nx
  | .blky => l.blk.idx / nd.nx % nd.ny
  | .blkz => l.blk.idx / nd.nx / nd.ny
  | .nblkx => nd.nx
  | .nblky => nd.ny
  | .nblkz => nd.nz
  | .crank => l.blk.rank
  | .die => l.die
  | .pkg => l.p
  | .lid => nd.lid
  | .nid => nd.nid
  | .asid => l.asid
  | .incarn => l.ctx.inc
  | .caps => (Config.caps s.part).toNat
  | .argp => 0xFF00000000000000
  | .pcv => i.addr.toNat
  | .fflags => (l.grp.lane n).ff.toNat
  | .fair => l.grp.fair.word
  | .ccnt => (s.pkg l.p).arith - ((s.pkg l.p).core l.core).ccnt0
  | .tcause => (l.grp.handler.map Handler.tcause).getD 0
  | .tpc => (l.grp.handler.map (fun h => h.tpc.toNat)).getD 0
  | .taddr => (l.grp.handler.map (fun h => h.taddr.toNat)).getD 0

/-- R398: one register or pair per lane. An unlisted id, and a pair at an odd field, are cause 0x01 (R72). -/
def execSrd (u : Bool) (d : Reg) (id : BitVec 9) (s : State) : Out :=
  match SReg.ofId id.toNat with
  | none => issue { uni := u, bad := true } (fun _ s => .ok s) s
  | some r =>
    issue { uni := u, dsts := sized r.isPair d, bad := r.isPair && !evenReg d }
      (fun i s => .ok (i.lanes s u (fun n x => x.put r.isPair d (i.special s r n)))) s

/-- The write of s.tpc: [55:2] is stored (R398). -/
def Group.setTpc (g : Group) (x : DWord) : Group :=
  { g with handler := g.handler.map (fun h => { h with tpc := BitVec.ofNat 64 (x.toNat % 2 ^ 56 / 4 * 4) }) }

/-- What a write of a special register does: the flags of each lane, the fairness length from the next issue on, the
handler's return address (R398). (log 38, DEDUCED) -/
def swrBody (u : Bool) (a : Reg) (r : SReg) (i : Iss) (s : State) : Res :=
  match r with
  | .fflags => .ok (i.lanes s u (fun n x => { x with ff := (i.g.v n a.toNat).extractLsb' 0 5 }))
  | .fair => .done s [] 0 (.set (fairLen (bits (i.g.v i.leader a.toNat) 12 0)))
  | .tpc => .ok (i.upd s (fun g => g.setTpc (i.g.x i.leader a.toNat)))
  | _ => .ok s

def execSwr (u : Bool) (a : Reg) (id : BitVec 9) (s : State) : Out :=
  match SReg.ofId id.toNat with
  | none => issue { uni := u, bad := true } (fun _ s => .ok s) s
  | some r =>
    issueWith (fun l => { uni := u, srcs := sized r.isPair a,
                          bad := !r.writable || (r.isPair && !evenReg a) || (r == .tpc && l.grp.handler.isNone) })
      (swrBody u a r) s

end Sys2Proof.Machine
end

