-- ==== Sys2Proof/Machine/Window.lean ====
section
/-! DEFINITION. Machine/Window.lean: the host window (spec/14 R286 to R291, R295, R431, spec/01 R22, spec/10 R214, spec/12
R267, R270, spec/13 R272 to R285): what each register reads, and what a write of one without a row of its own does. -/

namespace Sys2Proof.Machine

/-! ### Where an offset lies (R287) -/

inductive WinReg where
  | boot
  /-- 0x0200 to 0x024C, as an offset. -/
  | plat (off : Nat)
  | ctxReg (off : Nat)
  | xlat (off : Nat)
  /-- QOWN of four queues from this one. -/
  | owners (q : Nat)
  | queue (q off : Nat)
  | port (n off : Nat)
  | dbg (off : Nat)
  /-- Breakpoints and watchpoints, by word from 0x8100. -/
  | bp (word : Nat)
  | unit (u word : Nat)
  | noReg
deriving DecidableEq, Repr

def winReg (off : Nat) : WinReg :=
  if off = 0 then .boot
  else if 0x200 ≤ off && off ≤ 0x24C then .plat off
  else if 0x300 ≤ off && off ≤ 0x31C then .ctxReg off
  else if 0x400 ≤ off && off ≤ 0x464 then .xlat off
  else if 0x800 ≤ off && off ≤ 0x83F then .owners (off - 0x800)
  else if 0x1000 ≤ off && off < 0x2000 then .queue ((off - 0x1000) / 64) ((off - 0x1000) % 64)
  else if 0x3000 ≤ off && off < 0x3200 then .port ((off - 0x3000) / 32) ((off - 0x3000) % 32)
  else if 0x8000 ≤ off && off < 0x8100 then .dbg (off - 0x8000)
  else if 0x8100 ≤ off && off < 0x8280 then .bp ((off - 0x8100) / 4)
  else if 0x10000 ≤ off && off < 0x1E900 then .unit ((off - 0x10000) / 128) ((off - 0x10000) % 128 / 4)
  else .noReg

/-- Ranges of the physical function alone. -/
def WinReg.pfOnly : WinReg → Bool
  | .plat _ | .owners _ | .port _ _ | .unit _ _ => true
  | _ => false

/-- The context that the debug window of a function serves (R272). -/
def Pkg.dbgAsid (k : Pkg) (fn : Nat) : Nat := bits (k.fn fn).dbgctl 9 0
/-- The debug registers of a function serve contexts of that function (R272; log 36, DEDUCED). -/
def Pkg.dbgOwns (k : Pkg) (fn : Nat) : Bool :=
  match tget k.ctxs (k.dbgAsid fn) with
  | some c => c.fn == fn
  | none => false

/-! ### Reads -/

def w32 (n : Nat) : Word := BitVec.ofNat 32 n

def Plat.bootstat (x : Plat) : Word := w32 (x.stage + 8 * Config.b2n x.ready + 16 * x.faild.toNat + 256 * Config.b2n x.err)
def Plat.health (x : Plat) : Word := w32 (Config.b2n x.rreq + 2 * x.ev.toNat + 256 * x.last.toNat + 65536 * x.unit.toNat)

/-- Ports that are trained and in service. -/
def Pkg.portsUp (part : Part) (k : Pkg) : Nat :=
  ((List.range (Config.ports part)).map (fun n => if (k.port n).up && !(k.port n).retired then 2 ^ n else 0)).sum

/-- The figures of the capacity registers: a unit counts until its work has moved (steps 2 and 3 of R21). -/
def Pkg.capCores (part : Part) (k : Pkg) : List Nat :=
  (List.range (Config.cores part)).filter (fun c => (!(k.core c).retired || decide ((2, c) ∈ k.plat.retiring)) && !((c / 64) ∈ k.plat.deadDies))
def Pkg.capQuads (part : Part) (k : Pkg) : Nat :=
  ((k.capCores part).map (fun c => 4 - ((k.core c).retiredQuads.filter (fun q => !decide ((1, 4 * c + q) ∈ k.plat.retiring))).length)).sum

/-- A platform register, read without effect (R22, R267, R281 to R285, R295; log 52, DEDUCED). -/
def State.readPlat (s : State) (p off : Nat) : Word :=
  let k := s.pkg p
  let x := k.plat
  match off with
  | 0x200 => x.health
  | 0x204 => w32 ((k.capCores s.part).length + 512 * k.capQuads s.part)
  | 0x208 => w32 (x.frames % 2 ^ 23)
  | 0x20C => w32 (k.portsUp s.part)
  | 0x210 => w32 (x.rows % 2 ^ 20)
  | 0x214 => w32 (x.scrub + 256 * Config.b2n x.scrubAct + 65536 * (x.passes % 65536))
  | 0x218 => x.wdctl
  | 0x220 => x.prbase.extractLsb' 0 32
  | 0x224 => x.prbase.extractLsb' 32 32
  | 0x228 => x.prsize
  | 0x22C => x.prwp
  | 0x230 => x.prrp
  | 0x234 => w32 x.prdrop
  | 0x238 => x.smpctl
  | 0x23C => x.trctl
  | 0x240 => x.telpwr
  | 0x244 => x.teltmp
  | 0x248 => w32 (x.step + 32 * Config.b2n x.pwr + 64 * Config.b2n x.thm)
  | 0x24C => w32 x.pwrlim
  | _ => 0

def Pkg.readCtx (k : Pkg) (fn off : Nat) : Word :=
  let f := k.fn fn
  let r := k.recl (bits f.rclsel 9 0)
  match off with
  | 0x300 => f.ctxcmd
  | 0x304 => f.ctxdpl
  | 0x308 => f.ctxdph
  | 0x30C => w32 (Config.b2n f.busy + 256 * f.status.toNat)
  | 0x310 => f.rclsel
  | 0x314 => r.cnt
  | 0x318 => w32 r.inc
  | 0x31C => w32 (slotGroupKiB + 65536 * slotBlockKiB)
  | _ => 0

def FltKind.code : FltKind → Nat
  | .notPresent => 0
  | .writeProtected => 1
  | .malformed => 2
  | .noPlacement => 3
  | .privateGrowth => 4

/-- The seven words of a fault record (R291). -/
def FltRec.words (r : FltRec) : List Word :=
  [w32 (r.asid + 1024 * FltKind.code r.kind + 8192 * Config.b2n r.write + 16384 * Config.b2n r.nothread + 2 ^ 31),
   w32 (r.va % 2 ^ 32), w32 (r.va / 2 ^ 32 % 2 ^ 24), r.name.n0, r.name.n1, r.name.n2, 0]

/-- The ten words of an error-report record (R431). -/
def ErrRec.words (r : ErrRec) : List Word :=
  [r.w0, r.w1, w32 (r.va % 2 ^ 32), w32 (r.va / 2 ^ 32 % 2 ^ 24), w32 (r.pc.toNat % 2 ^ 32), w32 (r.pc.toNat / 2 ^ 32),
   r.name.n0, r.name.n1, r.name.n2, 0]

/-- The six words of a stop record (R273). (log 60, DEDUCED) -/
def StopRec.words (r : StopRec) : List Word :=
  [r.name.n0, r.name.n1, r.name.n2, w32 (r.cause.toNat + 256 * (r.pc.toNat % 2 ^ 24)), w32 (r.pc.toNat / 2 ^ 24), r.lanes]

def Pkg.readXlat (k : Pkg) (fn off : Nat) : Word :=
  let f := k.fn fn
  let flt := (f.flt.head?.map FltRec.words).getD []
  let err := (f.errs.head?.map ErrRec.words).getD []
  if 0x410 ≤ off && off ≤ 0x428 then flt.getD ((off - 0x410) / 4) 0
  else if 0x440 ≤ off && off ≤ 0x464 then err.getD ((off - 0x440) / 4) 0
  else match off with
    | 0x400 => f.tlbia
    | 0x404 => f.tlbivl
    | 0x408 => f.tlbivh
    | 0x40C => w32 (Config.b2n f.tlbBusy)
    | 0x43C => if fn = 0 then k.plat.rfq.headD 0 else 0
    | _ => 0

def Queue.stat (x : Queue) : Word := w32 (x.state + 256 * x.err + 65536 * x.depth)

def Pkg.readQueue (k : Pkg) (q off : Nat) : Word :=
  let x := k.queue q
  match off with
  | 0x00 => x.ctl
  | 0x04 => x.basel
  | 0x08 => x.baseh
  | 0x0C => x.wp
  | 0x10 => x.rp
  | 0x14 => x.stat
  | 0x18 => x.adm
  | 0x1C => x.lcnt
  | 0x20 => x.gcnt
  | 0x24 => x.pcnt
  | 0x28 => x.jcnt
  | _ => 0

def Port.stat (x : Port) : Word :=
  w32 (Config.b2n x.up + 2 * Config.b2n x.enc + 4 * Config.b2n x.slot + 8 * Config.b2n x.nxv + 16 * Config.b2n x.kev +
    32 * Config.b2n x.kstop + 64 * x.peer + 1024 * Config.b2n x.mism + 2048 * x.train)

def Pkg.readPort (k : Pkg) (n off : Nat) : Word :=
  let x := k.port n
  match off with
  | 0x00 => x.stat
  | 0x04 => w32 (min x.lkcnt 0xFFFFFFFF)
  | 0x08 => w32 x.repl
  | 0x0C => w32 x.drop
  | 0x10 => w32 x.auth
  | 0x14 => w32 x.detr
  | _ => 0

def Pkg.readDbg (k : Pkg) (fn off : Nat) : Word :=
  let f := k.fn fn
  let stops := match tget k.ctxs (k.dbgAsid fn) with | some c => if c.fn = fn then c.stops else [] | none => []
  if 0x18 ≤ off && off ≤ 0x2C then ((stops.head?.map StopRec.words).getD []).getD ((off - 0x18) / 4) 0
  else match off with
    | 0x00 => f.dbgctl
    | 0x04 => f.dbgcmd
    | 0x08 => f.dbgtgt.n0
    | 0x0C => f.dbgtgt.n1
    | 0x10 => f.dbgtgt.n2
    | 0x14 => w32 (Config.b2n f.dbgBusy + 2 * f.dbgRes + 16 * stops.length)
    | 0x30 => f.dbgsel
    | 0x34 => f.dbgdata
    | _ => 0

/-- Words of a unit block: counters, and the trace of a controller (R285). -/
def Pkg.readUnit (k : Pkg) (u w : Nat) : Word :=
  let t := k.ctrl (u - 384)
  if w < 24 then w32 (k.ctr u w)
  else if 384 ≤ u && u ≤ 415 then
    match w with
    | 24 => w32 t.trsel
    | 25 => t.latched.w0
    | 26 => t.latched.w1
    | 27 => t.latched.w2
    | 28 => t.latched.w3
    | 29 => w32 t.trhead
    | _ => 0
  else 0

/-- What a read of 4 bytes at an aligned offset of a function's window returns; none for an unsupported request (R286,
R287). Words whose read pops a record have their own rows. (log 49, DEDUCED) -/
def State.windowRead (s : State) (p fn off bytes : Nat) : Option Word :=
  let k := s.pkg p
  let r := winReg off
  if off % 4 != 0 || bytes != 4 || k.plat.d3hot then none
  else if r == .boot then some k.plat.bootstat
  else if !k.plat.ready || (r.pfOnly && fn != 0) then some 0
  else some (match r with
    | .boot => 0
    | .plat o => s.readPlat p o
    | .ctxReg o => k.readCtx fn o
    | .xlat o => k.readXlat fn o
    | .owners q => w32 (((List.range 4).map (fun i => (k.queue (q + i)).own * 256 ^ i)).sum)
    | .queue q o => if (k.queue q).own = fn then k.readQueue q o else 0
    | .port n o => if n < Config.ports s.part then k.readPort n o else 0
    | .dbg o => k.readDbg fn o
    | .bp w => match tget k.ctxs (k.dbgAsid fn) with | some c => if c.fn = fn then tgetD c.bp w 0 else 0 | none => 0
    | .unit u w => k.readUnit u w
    | .noReg => 0)

/-! ### Writes -/

/-- Write one to clear, on a counter or on bits. -/
def w1c (old : Nat) (v : Word) : Nat := ((w32 old) &&& ~~~ v).toNat

/-- A new enabling of the trace starts with no valid entry (R285). -/
def Pkg.clearTraces (k : Pkg) : Pkg := { k with ctrls := k.ctrls.map (fun e => (e.1, { e.2 with trace := [] })) }

def Pkg.writePlat (k : Pkg) (off : Nat) (v : Word) : Pkg :=
  match off with
  | 0x200 => k.updPlat (fun x => { x with ev := x.ev &&& ~~~ v.extractLsb' 1 5 })
  | 0x214 => k.updPlat (fun x => { x with scrub := max 1 (min 168 (bits v 7 0)) })
  | 0x218 => k.updPlat (fun x => { x with wdctl := v &&& 0xFFFF })
  | 0x220 => k.updPlat (fun x => { x with prbase := x.prbase.extractLsb' 32 32 ++ v })
  | 0x224 => k.updPlat (fun x => { x with prbase := v ++ x.prbase.extractLsb' 0 32 })
  | 0x228 => k.updPlat (fun x => { x with prsize := v &&& 0x1F })
  | 0x230 => k.updPlat (fun x => { x with prrp := v })
  | 0x234 => k.updPlat (fun x => { x with prdrop := w1c x.prdrop v })
  | 0x238 => k.updPlat (fun x => { x with smpctl := v })
  | 0x23C =>
    let k1 := if bit v 0 && !bit k.plat.trctl 0 then k.clearTraces else k
    k1.updPlat (fun x => { x with trctl := v &&& 0xFFF })
  | 0x24C => k.updPlat (fun x => { x with pwrlim := max 1000 (min 2200 (bits v 11 0)) })
  | _ => k

def Pkg.writeCtx (k : Pkg) (fn off : Nat) (v : Word) : Pkg :=
  match off with
  | 0x304 => k.updFn fn (fun f => { f with ctxdpl := v })
  | 0x308 => k.updFn fn (fun f => { f with ctxdph := v })
  | 0x310 => k.updFn fn (fun f => { f with rclsel := v &&& 0x3FF })
  | _ => k

/-- TLBIA and TLBIVL stand while an invalidation is in progress. (log 48, DEDUCED) -/
def Pkg.writeXlat (k : Pkg) (fn off : Nat) (v : Word) : Pkg :=
  let idle := !(k.fn fn).tlbBusy
  match off with
  | 0x400 => if idle then k.updFn fn (fun f => { f with tlbia := v &&& 0x3FF }) else k
  | 0x404 => if idle then k.updFn fn (fun f => { f with tlbivl := v }) else k
  | 0x430 => k.updFn fn (fun f => { f with fltres := v &&& 0x7FF })
  | 0x434 => k.updFn fn (fun f => { f with fltrpl := v })
  | _ => k

/-- QOWN of four queues: the byte of an enabled queue stands (R288). -/
def Pkg.writeOwners (k : Pkg) (q : Nat) (v : Word) : Pkg :=
  (List.range 4).foldl (fun k i => k.updQueue (q + i) (fun x => if x.en then x else { x with own := v.toNat / 256 ^ i % 16 })) k

def Pkg.writeQueue (k : Pkg) (q off : Nat) (v : Word) : Pkg :=
  match off with
  | 0x08 => k.updQueue q (fun x => if x.en then x else { x with baseh := v })
  | _ => k

def Pkg.writePort (k : Pkg) (n off : Nat) (v : Word) : Pkg :=
  match off with
  | 0x00 => k.updPort n (fun x => { x with kev := x.kev && !bit v 4 })
  | 0x08 => k.updPort n (fun x => { x with repl := w1c x.repl v })
  | 0x0C => k.updPort n (fun x => { x with drop := w1c x.drop v })
  | 0x10 => k.updPort n (fun x => { x with auth := w1c x.auth v })
  | 0x14 => k.updPort n (fun x => { x with detr := w1c x.detr v })
  | _ => k

/-- DBGCTL under its rule: the ASID stands while ATT = 1 (R272). -/
def dbgctlNext (old v : Word) : Word :=
  if bit old 10 then (old &&& 0x3FF) ||| (v &&& 0x1C00) else v &&& 0x1FFF

/-- A write of DBGCTL that clears ATT is a row of its own. The reserved bytes and bits of the logical name in DBGTGT read 0 (R8, R271);
DBGSEL keeps and returns the bits that R280 does not list (log 109, DESIGN CHOICE). -/
def Pkg.writeDbg (k : Pkg) (fn off : Nat) (v : Word) : Pkg :=
  let f := k.fn fn
  match off with
  | 0x00 => if bit f.dbgctl 10 && !bit v 10 then k else k.updFn fn (fun f => { f with dbgctl := dbgctlNext f.dbgctl v })
  | 0x08 => k.updFn fn (fun f => { f with dbgtgt := { f.dbgtgt with n0 := v } })
  | 0x0C => k.updFn fn (fun f => { f with dbgtgt := { f.dbgtgt with n1 := v &&& 0xFFFFFF } })
  | 0x10 => k.updFn fn (fun f => { f with dbgtgt := { f.dbgtgt with n2 := v &&& 0x3FFF } })
  | 0x30 => k.updFn fn (fun f => { f with dbgsel := v })
  | _ => k

/-- The implemented bits of breakpoint and watchpoint words (R274, R276). -/
def bpMask (w : Nat) : Word :=
  if w < 64 then (match w % 8 with
    | 0 => 0x7
    | 1 => 0xFFFFFFFC
    | 2 => 0xFFFFFF
    | 3 => 0xFFFFFFFF
    | 4 => 0xFFFFFF
    | 5 => 0x3FFF
    | _ => 0)
  else (match w % 8 with
    | 0 => 0xF
    | 1 => 0xFFFFFFFF
    | 2 => 0xFFFFFF
    | 3 => 0xFFFFFFFF
    | 4 => 0xFFFFFF
    | _ => 0)

def Pkg.writeBp (k : Pkg) (fn w : Nat) (v : Word) : Pkg :=
  if k.dbgOwns fn then k.updCtx (k.dbgAsid fn) (fun c => { c with bp := tset c.bp w (v &&& bpMask w) }) else k

/-- Counters of a unit block are W1C (R187, R230, R237, R270). -/
def Pkg.writeUnit (k : Pkg) (u w : Nat) (v : Word) : Pkg :=
  if w < 24 && thas k.ctrs (u, w) then { k with ctrs := tset k.ctrs (u, w) (w1c (k.ctr u w) v) } else k

/-- A write to a function's window (R286, R287). A register with a row of its own is left to that row. (log 49, DEDUCED) -/
def State.windowWrite (s : State) (p fn off bytes : Nat) (v : Word) : State :=
  if !(thas s.pkgs p && decide (fn < 16)) then s
  else if off % 4 != 0 || bytes != 4 || (s.pkg p).plat.d3hot then
    s.updPkg p (·.updPlat (fun x => { x with unsupported := x.unsupported + 1 }))
  else
    let r := winReg off
    if !(s.pkg p).plat.ready || (r.pfOnly && fn != 0) then s
    else match r with
      | .boot | .noReg => s
      | .plat o => s.updPkg p (·.writePlat o v)
      | .ctxReg o => s.updPkg p (·.writeCtx fn o v)
      | .xlat o => s.updPkg p (·.writeXlat fn o v)
      | .owners q => s.updPkg p (·.writeOwners q v)
      | .queue q o => if s.ownsQueue p fn q then s.updPkg p (·.writeQueue q o v) else s
      | .port n o => if n < Config.ports s.part then s.updPkg p (·.writePort n o v) else s
      | .dbg o => s.updPkg p (·.writeDbg fn o v)
      | .bp w => s.updPkg p (·.writeBp fn w v)
      | .unit u w => s.updPkg p (·.writeUnit u w v)

def execRegisterWrite (p fn off bytes : Nat) (v : Word) (s : State) : Out := .next (s.windowWrite p fn off bytes v)

/-- A write of TRSEL latches an entry of the controller's trace (R285). -/
def execTrselWrite (p c : Nat) (v : Word) (s : State) : Out :=
  .next (if s.windowOpen p 0 && decide (c < Config.controllers s.part) then
    s.updCtrl p c (fun t => { t with trsel := bits v 7 0, latched := tgetD t.trace (bits v 7 0) TraceEnt.zero }) else s)

end Sys2Proof.Machine
end

