-- ==== Sys2Proof/Machine/Debug.lean ====
section
/-! DEFINITION. Machine/Debug.lean: the debug window's commands, halted state, hang watchdogs and stall samples (spec/13
R272 to R284). -/

namespace Sys2Proof.Machine

/-! ### Whom a halt pauses (R281) -/

/-- The groups that could meet a wait of a group. -/
def State.watchSet (s : State) (p g : Nat) (h : Hold) : List Nat :=
  let k := s.pkg p
  match s.loc p g with
  | none => []
  | some l =>
    match h.kind, h.data with
    | .bar, [_, _, lvl, n] =>
      if lvl = 2 then (match k.sliceOf l.blk.cluster with | some e => (e.2.clusters.map k.groupsOfCluster).flatten | none => [])
      else ((if lvl = 1 then tget l.clu.bars n else tget l.blk.bars n).getD Bar.fresh).mem
    | .fe, _ | .qwt, _ | .mwt, _ | .ksgn, _ | .ckpt, _ => k.groupsOfCluster l.blk.cluster
    | .bxw, _ => if l.node.desc.copy then (k.groupsOf l.grp.blk).filter (fun x => (match tget k.groups x with | some y => y.gidx == 0 | none => false)) else []
    | _, _ => []

/-- The earliest halt among groups that are halted. -/
def Pkg.earliestHalt (k : Pkg) (gs : List Nat) : Option Nat :=
  gs.foldl (fun best g => match tget k.groups g with
    | some x => if x.halted then some (min x.haltedAt (best.getD x.haltedAt)) else best
    | none => best) none

/-- A wait's watchdog stood still from t on. (log 37, DEDUCED) -/
def Hold.pause (h : Hold) (t now : Nat) : Hold := { h with wdog := h.wdog + (now - max t h.wdog) }

/-- Before halted groups resume, every watchdog that stood still is moved on by its pause, and the halts count from now. (log 37, DEDUCED) -/
def State.pauseClock (s : State) (p : Nat) : State :=
  let k := s.pkg p
  let now := k.arith
  let fix := fun (e : Nat × Group) =>
    let g := e.2
    (e.1, { g with
      holds := g.holds.map (fun h => match k.earliestHalt (s.watchSet p e.1 h) with | some t => h.pause t now | none => h),
      haltedAt := if g.halted then now else g.haltedAt })
  if k.groups.any (fun e => e.2.halted) then s.updPkg p (fun k => { k with groups := k.groups.map fix }) else s

/-- A context's halt in some package, since when: channel waits stand still in all of its packages. -/
def State.ctxHalt (s : State) (p asid : Nat) : Option Nat :=
  match tget (s.pkg p).ctxs asid with
  | none => none
  | some c => (c.spans.filterMap (fun q => (tget (s.pkg q).ctxs asid).bind (·.haltedSince))).foldl (fun b t => some (min t (b.getD t))) none

/-- The watchdogs of channel waits are moved on before a context's halt ends. (log 37, DEDUCED) -/
def State.pauseChans (s : State) (p asid : Nat) : State :=
  match s.ctxHalt p asid, tget (s.pkg p).ctxs asid with
  | some t, some c =>
    c.spans.foldl (fun s q =>
      let k := s.pkg q
      let since := k.arith - (s.now - t) * k.mhz / 21000
      let fix := fun (s : State) (g : Nat) => s.updGroup q g (fun x => { x with holds := x.holds.map (fun h => if h.kind == .chan then h.pause since k.arith else h) })
      ((k.groupsOfCtx asid).foldl fix s).updCtx q asid (fun c => { c with haltedSince := c.haltedSince.map (fun _ => s.now) })) s
  | _, _ => s

/-! ### Halt and resume (R277, R278) -/

/-- Groups restart: fairness counts at 0, and the first issue ignores breakpoints (R275, R277). -/
def State.resumeGroups (s : State) (p : Nat) (gs : List Nat) : State :=
  let now := (s.pkg p).arith
  let go := fun (x : Group) => if x.halted then
      { x with halted := false, skipBp := true, step := none, fair := { x.fair with cnt := 0 }, readySince := s.turns,
               holds := x.holds.map (fun h => { h with counted := h.counted.map (fun _ => now) }) } else x
  gs.foldl (fun s g => s.updGroup p g go) (s.pauseClock p)

/-- Dispatch of the context goes on, and RESUME is sent when no context of the package is halted any more (R227). -/
def State.resumeContext (s : State) (p asid : Nat) : State :=
  let s1 := (s.pauseChans p asid).updCtx p asid (fun c => { c with haltedSince := none })
  let still := (s1.pkg p).ctxs.any (fun e => e.2.haltedSince.isSome)
  if (s1.pkg p).halted && !still then (s1.updPkg p (fun k => { k with halted := false })).broadcastHalt p .resume else s1

/-! ### Commands (R272, R273) -/

/-- The thread that DBGTGT names, in the context that the window serves: its group and lane. -/
def State.dbgTarget (s : State) (p fn : Nat) : Option (Nat × Nat) :=
  let k := s.pkg p
  let nm := (k.fn fn).dbgtgt
  let thr := bits nm.n2 9 0
  let hit := fun (e : Nat × Group) => e.2.gidx == thr / 32 && (match tget k.blocks e.2.blk with
    | some b => w32 b.lid == nm.n0 && b.idx == nm.n1.toNat % 2 ^ 24 && (tget k.nodes b.node).any (fun n => n.asid == k.dbgAsid fn)
    | none => false)
  if bits nm.n2 13 10 = p then (k.groups.find? hit).map (fun e => (e.1, thr % 32)) else none

def dbgOp (v : Word) : Nat := bits v 3 0
def dbgLvl (v : Word) : Nat := bits v 5 4

/-- A debugger is attached to a context of the function. -/
def Pkg.dbgAttached (k : Pkg) (fn : Nat) : Bool := bit (k.fn fn).dbgctl 10 && k.dbgOwns fn

/-- A write of DBGCMD with this operation while attached; only a cancel is taken while a command is in progress. (log 36, DEDUCED) -/
def State.dbgStarts (s : State) (p fn : Nat) (v : Word) (op : Nat) : Bool :=
  s.windowOpen p fn && (s.pkg p).dbgAttached fn && dbgOp v == op && (op == 5 || !((s.pkg p).fn fn).dbgBusy)

def State.dbgDone (s : State) (p fn : Nat) (v : Word) (res : Nat) : State :=
  s.updFn p fn (fun f => { f with dbgcmd := v &&& 0x3F, dbgBusy := false, dbgRes := res })

/-- The groups of the extent that a halt or resume names; none where it names no thread. -/
def State.dbgExtent (s : State) (p fn lvl : Nat) : Option (List Nat) :=
  if lvl = 3 then some ((s.pkg p).groupsOfCtx ((s.pkg p).dbgAsid fn))
  else (s.dbgTarget p fn).map (fun t => (s.pkg p).extent t.1 lvl)

/-- The halt command of DBGCMD (R272, R277; log 36, DEDUCED). -/
def State.dbgHalt (s : State) (p fn : Nat) (v : Word) : State :=
  match s.dbgExtent p fn (dbgLvl v) with
  | none => s.dbgDone p fn v 1
  | some gs =>
    let s1 := gs.foldl (fun s g => match tget (s.pkg p).groups g with
      | some x => if x.alive then s.haltGroup p g 0x14 x.select.2.1 x.select.2.2 (Mask.lowest x.select.2.2) else s
      | none => s) s
    (if dbgLvl v = 3 then s1.haltContext p ((s1.pkg p).dbgAsid fn) else s1).dbgDone p fn v 0

def execDebugHalt (p fn : Nat) (v : Word) (s : State) : Out := .next (if s.dbgStarts p fn v 1 then s.dbgHalt p fn v else s)

def State.dbgResume (s : State) (p fn : Nat) (v : Word) : State :=
  match s.dbgExtent p fn (dbgLvl v) with
  | none => s.dbgDone p fn v 1
  | some gs =>
    let s1 := s.resumeGroups p gs
    (if dbgLvl v = 3 then s1.resumeContext p ((s1.pkg p).dbgAsid fn) else s1).dbgDone p fn v 0

def execDebugResume (p fn : Nat) (v : Word) (s : State) : Out := .next (if s.dbgStarts p fn v 2 then s.dbgResume p fn v else s)

/-- A step begins (R279): the group's next issue is the step, past a breakpoint that it stands on, and BUSY holds until it
has ended. (log 36, DEDUCED) -/
def State.beginStep (s : State) (p fn : Nat) (v : Word) (step : Nat → Step) : State :=
  match s.dbgTarget p fn with
  | none => s.dbgDone p fn v 1
  | some (g, lane) => match tget (s.pkg p).groups g with
    | none => s.dbgDone p fn v 1
    | some x =>
      if !x.halted then s.dbgDone p fn v 2
      else if !(x.lane lane).live then s.dbgDone p fn v 1
      else (s.updGroup p g (fun x => { x with step := some (step lane), skipBp := true, retries := 0 })).updFn p fn
        (fun f => { f with dbgcmd := v &&& 0x3F, dbgBusy := true, dbgRes := 0 })

def execStepThread (p fn : Nat) (v : Word) (s : State) : Out :=
  .next (if s.dbgStarts p fn v 3 then s.beginStep p fn v .thread else s)
def execStepGroup (p fn : Nat) (v : Word) (s : State) : Out :=
  .next (if s.dbgStarts p fn v 4 then s.beginStep p fn v (fun _ => .group) else s)

/-- A cancel leaves a blocked step unissued (R279). -/
def State.cancelStep (s : State) (p fn : Nat) (v : Word) : State :=
  if ((s.pkg p).fn fn).dbgBusy then
    (((s.pkg p).groupsOfCtx ((s.pkg p).dbgAsid fn)).foldl (fun s g => s.updGroup p g (fun x => { x with step := none })) s).dbgDone p fn v 5
  else s.dbgDone p fn v 0

def execCancelStep (p fn : Nat) (v : Word) (s : State) : Out := .next (if s.dbgStarts p fn v 5 then s.cancelStep p fn v else s)

/-- A command without a debugger attached, or with a reserved OP (R273). -/
def execDbgcmdReserved (p fn : Nat) (v : Word) (s : State) : Out :=
  .next (if !s.windowOpen p fn then s
    else if !(s.pkg p).dbgAttached fn then s.updFn p fn (fun f => { f with dbgcmd := v &&& 0x3F, dbgRes := 4 })
    else if dbgOp v == 0 || decide (5 < dbgOp v) then s.updFn p fn (fun f => { f with dbgcmd := v &&& 0x3F, dbgRes := 3 })
    else s)

/-- The read of 0x802C pops the head stop record (R273). -/
def execStopRecordPop (p fn : Nat) (s : State) : Out :=
  .next (if s.windowOpen p fn && (s.pkg p).dbgOwns fn then s.updCtx p ((s.pkg p).dbgAsid fn) (fun c => { c with stops := c.stops.drop 1 }) else s)

/-- Clearing ATT resumes every halted group of the context; a step in progress is cancelled (R278). (log 36, DEDUCED) -/
def State.detach (s : State) (p fn : Nat) (v : Word) : State :=
  let asid := (s.pkg p).dbgAsid fn
  let f := (s.pkg p).fn fn
  let s1 := s.updFn p fn (fun f => { f with dbgctl := dbgctlNext f.dbgctl v, dbgBusy := false, dbgRes := if f.dbgBusy then 5 else f.dbgRes })
  let _was := f
  if (s.pkg p).dbgOwns fn then (s1.resumeGroups p ((s.pkg p).groupsOfCtx asid)).resumeContext p asid else s1

def execDebugDetach (p fn : Nat) (v : Word) (s : State) : Out :=
  .next (if s.windowOpen p fn && bit ((s.pkg p).fn fn).dbgctl 10 && !bit v 10 then s.detach p fn v else s)

/-! ### Halted state (R280) -/

def lowWord (x : Nat) : Word := w32 (x % 2 ^ 32)
def highWord (x : Nat) : Word := w32 (x / 2 ^ 32)

/-- A barrier of a group by level. -/
def Loc.barAt (l : Loc) (k : Pkg) (lvl n : Nat) : Bar :=
  l.bar k (if lvl = 0 then .blk else if lvl = 1 then .clu else .die) n

/-- Groups as bits by their index in the block, or as the rank of their block. -/
def Pkg.groupBits (k : Pkg) (gs : List Nat) (byRank : Bool) : Word :=
  gs.foldl (fun w g => match tget k.groups g with
    | some x => w ||| w32 (2 ^ (if byRank then ((tget k.blocks x.blk).map (·.rank)).getD 0 else x.gidx))
    | none => w) 0

def flagBits (bs : List Bool) : Word := w32 ((bs.zipIdx.map (fun e => if e.1 then 2 ^ e.2 else 0)).sum)

/-- The lanes of a logged access, each with its data or operands (R161). -/
def Acc.operands (a : Acc) : List (Nat × DWord × DWord) :=
  match a.op with
  | .store v => [(a.lane, v, 0)]
  | .atom _ _ ops _ => ops
  | _ => [(a.lane, 0, 0)]

/-- The words of an operand-log entry: the instruction, its PC, the kind, the lanes and the faulting address, then for each lane its
logical name, its address and its operands (R161, R271). (log 61, DEDUCED) -/
def State.entryWords (s : State) (p : Nat) (o : OLog) : List Word :=
  let a := o.accs.head?
  let two := fun (n : Nat) => [lowWord n, highWord n]
  let lanes := o.accs.foldl (fun m x => x.operands.foldl (fun m e => m ||| laneBit e.1) m) 0
  let lane := fun (x : Acc) (e : Nat × DWord × DWord) =>
    let nm := s.threadName p o.gid e.1
    [nm.n0, nm.n1, nm.n2] ++ two x.ptr.toNat ++ two e.2.1.toNat ++ two e.2.2.toNat
  [(a.map (·.words.1)).getD 0, ((a.bind (·.words.2))).getD 0] ++ two ((a.map (·.pc.toNat)).getD 0) ++ [w32 (FltKind.code o.kind), lanes] ++
    two ((a.map (·.va)).getD 0) ++ (o.accs.map (fun x => (x.operands.map (lane x)).flatten)).flatten

/-- One item of a halted thread. An item with several words shows the first at the index of R280's table, and word w of a barrier, a
ring or a scoreboard entry 256·w further on. (log 35, DEDUCED) -/
def State.haltedItem (s : State) (p : Nat) (l : Loc) (lane item idx : Nat) : Word :=
  let k := s.pkg p
  let x := l.grp.lane lane
  match item with
  | 0x01 => if idx < l.node.desc.regs then l.grp.v lane idx else 0
  | 0x02 => w32 (x.p.toNat + 128)
  | 0x03 => if idx = 0 then lowWord x.pc.toNat else if idx = 1 then highWord x.pc.toNat else 0
  | 0x04 => w32 x.ff.toNat
  | 0x05 =>
    let r := tgetD l.blk.kregs (idx / 2) { set := 0, sigs := [] }
    if idx % 2 = 0 then r.set else k.groupBits (r.sigs.map (·.gid)) false
  | 0x06 =>
    let lvl := idx % 256 / 16
    let b := l.barAt k lvl (idx % 16)
    if 2 < lvl then 0
    else match idx / 256 with
      | 0 => k.groupBits b.mem (lvl != 0)
      | 1 => k.groupBits b.arr (lvl != 0)
      | 2 => b.ph
      | _ => 0
  | 0x07 =>
    let r := l.blk.ring (idx % 256)
    match idx / 256 with
    | 0 => w32 r.slots.length
    | 1 => flagBits (r.slots.map (·.full))
    | 2 => flagBits (r.slots.map (·.ph))
    | _ => 0
  | 0x08 => match l.grp.pend[idx % 256]? with
    | some e => if idx / 256 = 0 then w32 e.reg else if idx / 256 = 1 then lowWord e.pc.toNat else 0
    | none => 0
  | 0x09 => match (k.olog.filter (fun o => o.gid == l.g))[idx / 1024]? with
    | some o => (s.entryWords p o).getD (idx % 1024) 0
    | none => 0
  | 0x0A =>
    let h := l.grp.handler
    (match idx with
     | 0 => l.grp.fair.word
     | 1 => w32 ((h.map Handler.tcause).getD 0 + 2 ^ 31 * Config.b2n h.isSome)
     | 2 => lowWord ((h.map (·.tpc.toNat)).getD 0)
     | 3 => highWord ((h.map (·.tpc.toNat)).getD 0)
     | 4 => lowWord ((h.map (·.taddr.toNat)).getD 0)
     | 5 => highWord ((h.map (·.taddr.toNat)).getD 0)
     | _ => 0)
  | _ => 0

/-- The halted thread that DBGTGT names. -/
def State.haltedTarget (s : State) (p fn : Nat) : Option (Loc × Nat) :=
  (s.dbgTarget p fn).bind (fun t => (s.loc p t.1).bind (fun l => if l.grp.halted then some (l, t.2) else none))

def selItem (w : Word) : Nat := bits w 23 16
def selIndex (w : Word) : Nat := bits w 15 0

/-- A read of DBGDATA: the value returned stands in `dbgdata`. (log 35, DEDUCED) -/
def State.dbgRead (s : State) (p fn : Nat) : State :=
  let sel := ((s.pkg p).fn fn).dbgsel
  match s.haltedTarget p fn with
  | some (l, lane) => s.updFn p fn (fun f => { f with dbgdata := s.haltedItem p l lane (selItem sel) (selIndex sel) })
  | none => s.updFn p fn (fun f => { f with dbgdata := 0, dbgRes := 2 })

def execHaltedStateRead (p fn : Nat) (s : State) : Out :=
  .next (if s.windowOpen p fn && (s.pkg p).dbgOwns fn then s.dbgRead p fn else s)

/-- A written item of a lane. -/
def Lane.putItem (x : Lane) (item idx : Nat) (v : Word) : Lane :=
  match item with
  | 0x01 => x.setV idx v
  | 0x02 => { x with p := v.extractLsb' 0 7 }
  | 0x03 =>
    if idx = 0 then (if v.toNat % 4 = 0 then { x with pc := BitVec.ofNat 56 (x.pc.toNat / 2 ^ 32 * 2 ^ 32 + v.toNat) } else x)
    else if idx = 1 then { x with pc := BitVec.ofNat 56 (v.toNat % 2 ^ 24 * 2 ^ 32 + x.pc.toNat % 2 ^ 32) } else x
  | 0x04 => { x with ff := v.extractLsb' 0 5 }
  | _ => x

/-- A write of DBGDATA to an item of a halted thread (R280; log 35, DEDUCED). -/
def State.dbgWrite (s : State) (p fn : Nat) (v : Word) : State :=
  let sel := ((s.pkg p).fn fn).dbgsel
  match s.haltedTarget p fn with
  | some (l, lane) =>
    if selItem sel = 1 && decide (l.node.desc.regs ≤ selIndex sel) then s
    else s.updGroup p l.g (fun g => g.onLanes (laneBit lane) (fun _ x => x.putItem (selItem sel) (selIndex sel) v))
  | none => s.updFn p fn (fun f => { f with dbgRes := 2 })

def execHaltedStateWrite (p fn : Nat) (v : Word) (s : State) : Out :=
  .next (if s.windowOpen p fn && (s.pkg p).dbgOwns fn then s.dbgWrite p fn v else s)

/-! ### Hang records (R281) -/

/-- The kind of wait of a hang record (R431); none for a wait without a watchdog. -/
def WaitKind.hang : WaitKind → Option Nat
  | .bar => some 0
  | .fe => some 1
  | .qwt => some 2
  | .mwt => some 3
  | .ksgn => some 4
  | .ckpt => some 5
  | .bxw => some 6
  | .clin => some 7
  | .chan => some 8
  | .table => some 9
  | _ => none

/-- The wait's watchdog has passed WDCTL.LIM, its record is still to be written, and no halt holds it now. -/
def State.hangs (s : State) (l : Loc) (h : Hold) : Bool :=
  let k := s.pkg l.p
  let lim := bits k.plat.wdctl 15 0 * 65536
  h.kind.hang.isSome && !h.hung && !l.grp.halted && lim != 0 && decide (h.wdog + lim ≤ k.arith) && (k.earliestHalt (s.watchSet l.p l.g h)).isNone &&
    (h.kind != .chan || (s.ctxHalt l.p l.asid).isNone)

/-- HANG_RECORD: one record for a wait of the group; the thread goes on waiting. -/
def State.hangRecord (s : State) (p g : Nat) : State :=
  match s.loc p g with
  | none => s
  | some l => match l.grp.holds.find? (s.hangs l) with
    | none => s
    | some h =>
      let name := s.threadName p g (Mask.lowest h.lanes)
      (s.updPkg p (fun k => k.report l.ctx.fn (errRec 5 l.asid 0 0 ((WaitKind.hang h.kind).getD 0) 0 h.addr name))).updGroup p g
        (fun x => { x with holds := x.holds.map (fun y => if y.addr == h.addr then { y with hung := true } else y) })

def execHangRecord (p g : Nat) (s : State) : Out := .next (s.hangRecord p g)

/-! ### Stall samples (R282, R284) -/

/-- Why a group is stalled: the reason and the waiting and blamed PCs; none where it is not. (log 63, DEDUCED) -/
def State.stallOf (s : State) (l : Loc) : Option (Nat × Addr × Addr) :=
  let addr := l.grp.select.2.1
  if l.grp.halted then some (4, addr, addr)
  else match l.grp.hold? addr with
    | none => none
    | some h => match h.kind with
      | .pending =>
        -- the entry of the register that the instruction needs, or the oldest one where it waits for the order alone
        let needed := (h.data.head?.bind (fun r => l.grp.pend.find? (fun e => e.reg == r))).or l.grp.pend.head?
        some (0, addr, (needed.map (·.pc)).getD addr)
      | .table => some (if decide (Config.ologEntries ≤ (s.pkg l.p).ologOf l.core) then 3 else 2, addr, addr)
      | _ => some (1, addr, addr)

/-- STALL_SAMPLE: every M periods of 64 clocks, a quadrant's oldest stalled group (R284). (log 63, DEDUCED) -/
def State.stallSample (s : State) (p quad : Nat) : State :=
  let k := s.pkg p
  let m := bits k.plat.smpctl 31 16
  let core := quad / 4
  let last := tgetD (k.core core).stalls quad 0
  if m = 0 || k.arith < last + 64 * m then s
  else
    let s1 := s.updCore p core (fun c => { c with stalls := tset c.stalls quad k.arith })
    let cands := (k.groups.filter (fun e => e.2.core == core && e.2.slot / 8 == quad % 4 && e.2.alive && (k.asidOfGroup e.1).isSome)).filterMap
      (fun e => match s.loc p e.1 with
        | some l => if residentState l.blk.state then (s.stallOf l).map (fun r => (l, r)) else none
        | none => none)
    let oldest := cands.foldl (fun (b : Option (Loc × (Nat × Addr × Addr))) c => match b with
      | none => some c
      | some x => if c.1.grp.readySince < x.1.grp.readySince then some c else some x) none
    match oldest with
    | none => s1
    | some (l, r) =>
      let nm := s.threadName p l.g (Mask.lowest l.grp.select.2.2)
      s1.profile p (leBytes 4 nm.n0.toNat ++ leBytes 4 nm.n1.toNat ++ leBytes 4 nm.n2.toNat ++ leBytes 7 r.2.1.toNat ++ leBytes 1 r.1 ++
        leBytes 7 r.2.2.toNat ++ leBytes 5 0)

def execStallSample (p quad : Nat) (s : State) : Out := .next (s.stallSample p quad)

end Sys2Proof.Machine
end

