-- ==== Sys2Proof/Machine/Float.lean ====
section
/-! DEFINITION. Machine/Float.lean: FP32 arithmetic and the special-function unit (spec/04 R87; spec/16 R324, R334, R338,
R345, R346). -/

namespace Sys2Proof.Machine

def fpOp2 (d a b : Reg) (op : Nat → Nat → Nat × BitVec 5) : State → Out :=
  perLane { srcs := regs [a, b], dsts := one d } (fun g n l => l.putF false d (op (g.n n a) (g.n n b)))

def execFadd (d a b : Reg) (r : Rm) (s : State) : Out := fpOp2 d a b (fpAdd f32 r) s
def execFmul (d a b : Reg) (r : Rm) (s : State) : Out := fpOp2 d a b (fpMul f32 r) s
def execFfma (gd : Guard) (d a b c : Reg) (r : Rm) (s : State) : Out :=
  perLane { gd := gd, srcs := regs [a, b, c], dsts := one d } (fun g n l =>
    l.putF false d (fpFma f32 r (g.n n a) (g.n n b) (g.n n c))) s
def execFmin (d a b : Reg) (s : State) : Out := fpOp2 d a b (fpMinMax f32 false) s
def execFmax (d a b : Reg) (s : State) : Out := fpOp2 d a b (fpMinMax f32 true) s

/-- The nearest integral value in the mode; a zero keeps the sign of a (R346). -/
def fpRoundInt (r : Rm) (x : Nat) : Nat × BitVec 5 :=
  match f32.decode x with
  | .nan sn => (f32.qnan, ffIf sn ffNv)
  | .inf n => (f32.encode (.inf n), 0)
  | .fin n m e =>
    let y := toIntegral r n m e
    (f32.encode (roundTo f32 r (.fin n y.1.natAbs 0)).1, ffIf y.2 ffNx)

def execFrnd (d a : Reg) (r : Rm) (s : State) : Out := fpOp2 d a 0 (fun x _ => fpRoundInt r x) s

/-- A function of the special-function unit: vector role only (R38, R338). -/
def sfuOp (d a : Reg) (op : SfuOp) (r : Rm) : State → Out :=
  perLane { srcs := one a, dsts := one d, needRole := some 0 } (fun g n l => l.putF false d (sfu op r (g.n n a)))

def execFdiv (gd : Guard) (d a b : Reg) (r : Rm) (s : State) : Out :=
  perLane { gd := gd, srcs := regs [a, b], dsts := one d, needRole := some 0 } (fun g n l =>
    l.putF false d (fpDiv f32 r (g.n n a) (g.n n b))) s
def execFrcp (d a : Reg) (s : State) : Out := sfuOp d a .rcp .rn s
def execFrsq (d a : Reg) (s : State) : Out := sfuOp d a .rsq .rn s
def execFsqt (d a : Reg) (r : Rm) (s : State) : Out := sfuOp d a .sqt r s
def execFex2 (d a : Reg) (s : State) : Out := sfuOp d a .ex2 .rn s
def execFlg2 (d a : Reg) (s : State) : Out := sfuOp d a .lg2 .rn s
def execFsin (d a : Reg) (s : State) : Out := sfuOp d a .sin .rn s
def execFcos (d a : Reg) (s : State) : Out := sfuOp d a .cos .rn s
def execFtnh (d a : Reg) (s : State) : Out := sfuOp d a .tnh .rn s

end Sys2Proof.Machine
end

