-- ==== Sys2Proof/Machine/HalfDouble.lean ====
section
/-! DEFINITION. Machine/HalfDouble.lean: FP16 and BF16 pairs, and FP64 (spec/04 R88; spec/16 R325, spec/17 R348). -/

namespace Sys2Proof.Machine

/-- Element e of a packed pair (R108). -/
def elem16 (x : Nat) (e : Nat) : Nat := x / 2 ^ (16 * e) % 65536
/-- Both elements, and the union of their flags (R349). -/
def packed (f : Nat → Nat × BitVec 5) : Nat × BitVec 5 :=
  let r0 := f 0
  let r1 := f 1
  (r1.1 * 65536 + r0.1, r0.2 ||| r1.2)
def halfFmt (bf : Bool) : Fmt := if bf then bf16 else f16

def halfOp (gd : Guard) (d : Reg) (srcs : List Reg) (op : (Nat → Nat) → Nat × BitVec 5) : State → Out :=
  perLane { gd := gd, srcs := regs srcs, dsts := one d } (fun g n l =>
    l.putF false d (packed (fun e => op (fun k => elem16 (g.n n (srcs.getD k 0)) e))))

def execHpadd (d a b : Reg) (r : Rm) (s : State) : Out := halfOp Guard.always d [a, b] (fun x => fpAdd f16 r (x 0) (x 1)) s
def execHpmul (d a b : Reg) (r : Rm) (s : State) : Out := halfOp Guard.always d [a, b] (fun x => fpMul f16 r (x 0) (x 1)) s
def execHpfma (gd : Guard) (d a b c : Reg) (r : Rm) (bf : Bool) (s : State) : Out :=
  halfOp gd d [a, b, c] (fun x => fpFma (halfFmt bf) r (x 0) (x 1) (x 2)) s
def execHpmnx (d a b : Reg) (max bf : Bool) (s : State) : Out :=
  halfOp Guard.always d [a, b] (fun x => fpMinMax (halfFmt bf) max (x 0) (x 1)) s

/-- FP64 needs its unit: cause 0x02 without it (R5, R326). -/
def doubleOp (gd : Guard) (d : Reg) (srcs : List Reg) (op : (Nat → Nat) → Nat × BitVec 5) : State → Out :=
  perLane { gd := gd, srcs := pairs srcs, dsts := pairOf d, needF64 := true } (fun g n l =>
    l.putF true d (op (fun k => g.nx n (srcs.getD k 0))))

def execDadd (d a b : Reg) (r : Rm) (s : State) : Out := doubleOp Guard.always d [a, b] (fun x => fpAdd f64 r (x 0) (x 1)) s
def execDmul (d a b : Reg) (r : Rm) (s : State) : Out := doubleOp Guard.always d [a, b] (fun x => fpMul f64 r (x 0) (x 1)) s
def execDfma (gd : Guard) (d a b c : Reg) (r : Rm) (s : State) : Out :=
  doubleOp gd d [a, b, c] (fun x => fpFma f64 r (x 0) (x 1) (x 2)) s
def execDmnx (d a b : Reg) (max : Bool) (s : State) : Out :=
  doubleOp Guard.always d [a, b] (fun x => fpMinMax f64 max (x 0) (x 1)) s

end Sys2Proof.Machine
end

