-- ==== Sys2Proof/Machine/Integer.lean ====
section
/-! DEFINITION. Machine/Integer.lean: integer arithmetic (spec/04 R84; spec/17 R350 to R355). -/

namespace Sys2Proof.Machine

def intSigned (f : IntF) : Bool := f == .wrapS || f == .satS

/-- A register read as the f field says. -/
def intRead (w : Nat) (f : IntF) (x : Nat) : Int := if intSigned f then signedOf w x else (x : Int)

def clampInt (lo hi x : Int) : Int := if x < lo then lo else if hi < x then hi else x

/-- fin(x, f) of R351, at 32 or 64 bits. -/
def intFin (w : Nat) (f : IntF) (x : Int) : Nat :=
  match f with
  | .wrapS | .wrapU => (x.emod (2 ^ w)).toNat
  | .satS => ((clampInt (-(2 : Int) ^ (w - 1)) ((2 : Int) ^ (w - 1) - 1) x).emod (2 ^ w)).toNat
  | .satU => (clampInt 0 ((2 : Int) ^ w - 1) x).toNat

/-- fin of an exact result of two register operands. -/
def intOp (w64 uni : Bool) (d a b : Reg) (f : IntF) (op : Int → Int → Int) : State → Out :=
  let w := if w64 then 64 else 32
  perLane { uni := uni, srcs := sized w64 a ++ sized w64 b, dsts := sized w64 d }
    (fun g n l => l.put w64 d (intFin w f (op (intRead w f (g.nw w64 n a)) (intRead w f (g.nw w64 n b)))))

def execIadd (u : Bool) (d a b : Reg) (f : IntF) (s : State) : Out := intOp false u d a b f (· + ·) s
def execIsub (u : Bool) (d a b : Reg) (f : IntF) (s : State) : Out := intOp false u d a b f (· - ·) s
def execImul (u : Bool) (d a b : Reg) (f : IntF) (s : State) : Out := intOp false u d a b f (· * ·) s
def execImulh (d a b : Reg) (uns : Bool) (s : State) : Out :=
  intOp false false d a b (if uns then .wrapU else .wrapS) (fun x y => x * y / 2 ^ 32) s
def execImin (u : Bool) (d a b : Reg) (uns : Bool) (s : State) : Out :=
  intOp false u d a b (if uns then .wrapU else .wrapS) min s
def execImax (u : Bool) (d a b : Reg) (uns : Bool) (s : State) : Out :=
  intOp false u d a b (if uns then .wrapU else .wrapS) max s
def execIabs (d a : Reg) (sat : Bool) (s : State) : Out :=
  intOp false false d a 0 (if sat then .satS else .wrapS) (fun x _ => x.natAbs) s
/-- R352. -/
def execIaddi (u : Bool) (d a : Reg) (imm : BitVec 9) (s : State) : Out :=
  perLane { uni := u, srcs := one a, dsts := one d } (fun g n l => l.setV d.toNat (g.v n a.toNat + imm.signExtend 32)) s
/-- R353. -/
def execIadd64 (u : Bool) (d a b : Reg) (f : IntF) (s : State) : Out := intOp true u d a b f (· + ·) s
def execIsub64 (u : Bool) (d a b : Reg) (f : IntF) (s : State) : Out := intOp true u d a b f (· - ·) s

/-- R354: the carry-in predicate, and the carry out into another. -/
def execIaddc (gd : Guard) (d a b : Reg) (ci co : BitVec 3) (s : State) : Out :=
  perLane { gd := gd, srcs := regs [a, b], dsts := one d, preds := [ci.toNat], pdsts := [co.toNat] } (fun g n l =>
    let y := g.n n a + g.n n b + (if g.p n ci.toNat then 1 else 0)
    (l.setV d.toNat (BitVec.ofNat 32 y)).setP co.toNat (decide (2 ^ 32 ≤ y))) s

/-- R355. -/
def execImad (gd : Guard) (d a b c : Reg) (f : IntF) (wide : Bool) (s : State) : Out :=
  perLane { gd := gd, srcs := regs [a, b] ++ sized wide c, dsts := sized wide d } (fun g n l =>
    let x := intRead 32 f (g.n n a) * intRead 32 f (g.n n b)
    if wide then l.put true d ((x + g.nx n c).emod (2 ^ 64)).toNat
    else l.put false d (intFin 32 f (x + intRead 32 f (g.n n c)))) s

end Sys2Proof.Machine
end

