-- ==== Sys2Proof/Machine/Links.lean ====
section
/-! DEFINITION. Machine/Links.lean: the wiring of a pod and the Yuson Link ports: flits, replays, drops, retraining, key
switches and the residence limit of queues (spec/01 R16, R20; spec/08 R184; spec/10 R211 to R215). -/

namespace Sys2Proof.Machine

/-! ### The wiring (R16) -/

/-- The other packages of the pod, in ascending order. -/
def State.others (s : State) (p : Nat) : List Nat := s.pod.filter (· != p)
/-- Direct links of each pair of packages. (log 18, DEDUCED) -/
def State.linksPerPair (s : State) : Nat := Config.ports s.part / (s.pod.length - 1)
/-- The place of a package among the others of its peer. -/
def placeOf (l : List Nat) (p : Nat) : Nat := (l.takeWhile (· != p)).length

/-- The peer of a port and the peer's port: the ports of a package go in equal runs to its peers in ascending order; the
ports beyond them are held in reset (R16; log 18, DEDUCED). -/
def State.linkOf (s : State) (p n : Nat) : Option (Nat × Nat) :=
  let w := s.linksPerPair
  if w = 0 then none
  else match (s.others p)[n / w]? with
    | some q => some (q, placeOf (s.others q) p * w + n % w)
    | none => none

/-- The other end of a port's link. -/
def State.farEnd (s : State) (p n : Nat) : Nat × Nat := let t := (s.pkg p).port n; (t.peer, t.peerPort)
def State.peerOf (s : State) (p n : Nat) : Port := let f := s.farEnd p n; (s.pkg f.1).port f.2
/-- Applies f to both ends of a link. (log 72, DEDUCED) -/
def State.bothEnds (s : State) (p n : Nat) (f : Port → Port) : State :=
  let e := s.farEnd p n
  (s.updPort p n f).updPort e.1 e.2 f

/-! ### Packets leave a queue for another (R212, R213) -/

/-- Packets that wait in an egress queue are routed again; their residence goes on (R184, R212). A packet that flits have
taken in part is lost with them. (log 72, DEDUCED) -/
def State.reroute (s : State) (p n : Nat) : State :=
  let t := (s.pkg p).port n
  let ms := if t.part = 0 then t.egress else t.egress.drop 1
  ms.foldl (fun s m => s.place p { m with hops := m.hops - 1 }) (s.updPort p n (fun t => { t with egress := [], part := 0 }))

/-! ### Links go down and train (R20, R212) -/

/-- A switch of keys ends: the old slot is erased, and one that was requested meanwhile begins (R213). -/
def Port.switched (t : Port) : Port := { t with oldSlot := false, switching := t.kreq, nxv := t.nxv || t.kreq, kreq := false }
/-- Flits hold the marker of a switch. -/
def Port.marking (t : Port) : Bool := t.replay.any (·.marker)

/-- A link that is down: its flits are lost, and both ends count from the start. A marker among them counts as received:
both ends go on under the new slot. (log 72, DEDUCED) -/
def Port.lose (t : Port) : Port :=
  let t' := if t.marking then t.switched else t
  { t' with up := false, replay := [], unsent := 0, txSeq := 0, rxSeq := 0, fails := 0, wantReplay := false, credits := 0 }

/-- LINK_DOWN (R212). (log 72, DEDUCED) -/
def State.linkLost (s : State) (p n : Nat) : State :=
  let e := s.farEnd p n
  let t := (s.pkg p).port n
  let u := s.peerOf p n
  if t.up then
    let s1 := (s.updPort p n (fun x => { x.lose with rxSlot := x.rxSlot != u.marking })).updPort e.1 e.2
      (fun x => { x.lose with rxSlot := x.rxSlot != t.marking })
    (s1.reroute p n).reroute e.1 e.2
  else s

def execLinkDown (p n : Nat) (s : State) : Out := .next (s.linkLost p n)

/-- A port that can train: fitted, out of reset and in service, in a package that has booted. -/
def State.trains (s : State) (p n : Nat) : Bool :=
  match tget (s.pkg p).ports n with
  | some t => (s.pkg p).plat.ready && !t.inReset && !t.retired
  | none => false

/-- Training makes the link usable when both ends take part; a PART value that differs leaves it down and is recorded (R16).
(log 62, DEDUCED) (log 72, DEDUCED) -/
def State.train (s : State) (p n : Nat) : State :=
  let e := s.farEnd p n
  if s.trains p n && s.trains e.1 e.2 then
    if (s.pkg p).part = (s.pkg e.1).part then
      s.bothEnds p n (fun t => { t with up := true, mism := false, enc := Config.hasCrypto s.part })
    else s.bothEnds p n (fun t => { t with mism := true })
  else s

/-- LINK_RETRAIN: a retraining ends; the third failure retires the port (R20, R21). (log 62, DEDUCED) -/
def State.retrain (s : State) (p n : Nat) (ok : Bool) : State :=
  let t := (s.pkg p).port n
  if t.up || !s.trains p n then s
  else if ok then s.train p n
  else if t.train + 1 < 3 then s.updPort p n (fun t => { t with train := t.train + 1 })
  else
    let s1 := s.updPort p n (fun t => { t.lose with train := 3, retired := true })
    ((s1.updPkg p (·.retireReport 0x05 n)).reroute p n)

def execLinkRetrain (p n : Nat) (ok : Bool) (s : State) : Out := .next (s.retrain p n ok)

/-! ### Flits (R211 to R213) -/

/-- The bytes of packets that a flit carries. -/
def flitPayload : Nat := 228
/-- What the next flit takes of a queue whose first packet has given `part` bytes already: the pieces, the packets left,
and the bytes that the first of those has given; a packet may go on in the next flit (R211). -/
def flitTake : Nat → Nat → List Msg → List Piece × List Msg × Nat
  | _, _, [] => ([], [], 0)
  | room, part, m :: ms =>
    if room = 0 then ([], m :: ms, part)
    else if m.bytes - part ≤ room then
      let r := flitTake (room - (m.bytes - part)) 0 ms
      ({ msg := m, bytes := m.bytes - part, last := true } :: r.1, r.2)
    else ([{ msg := m, bytes := room, last := false }], m :: ms, part + room)

/-- The IV of a flit (R213). -/
def State.flitIv (s : State) (p n : Nat) : BitVec 96 :=
  let t := (s.pkg p).port n
  let low := if p < t.peer then n else t.peerPort
  BitVec.ofNat 96 ((if p < t.peer then 0 else 2 ^ 95) + 2 ^ 64 * (low % 16) + t.ivCount % 2 ^ 64)

/-- Puts a new flit into the replay buffer, counted under the active key. (log 19, DESIGN CHOICE) -/
def State.newFlit (s : State) (p n : Nat) (marker : Bool) (pkts : List Piece) (rest : List Msg) (part : Nat) : State :=
  let t := (s.pkg p).port n
  let f : Flit :=
    { seq := t.txSeq, ack := t.rxSeq, credits := t.credits % 256, slot := t.slot, marker := marker, replay := false,
      iv := if t.enc then s.flitIv p n else 0, pkts := pkts }
  s.updPort p n (fun t => { t with
    egress := rest, part := part, credits := 0, replay := t.replay ++ [f], unsent := t.unsent + 1, txSeq := (t.txSeq + 1) % 2 ^ 24,
    lkcnt := if t.enc then satInc t.lkcnt else t.lkcnt, ivCount := t.ivCount + 1 })

/-- After the marker every flit uses the new slot; the old one stays until the marker is acknowledged (R213). -/
def Port.switchSlot (t : Port) : Port :=
  { t with slot := !t.slot, nxv := false, lkcnt := 0, ivCount := 0, oldSlot := true }

/-- The sender has a flit to send: one to resend, a marker, or a new one of waiting packets. -/
def State.prepareFlit (s : State) (p n : Nat) : State :=
  let t := (s.pkg p).port n
  if t.unsent != 0 || Config.replayFlits ≤ t.replay.length then s
  else if t.switching && t.nxv then (s.newFlit p n true [] t.egress t.part).updPort p n Port.switchSlot
  else if t.egress.isEmpty || t.kstop then s
  else let x := flitTake flitPayload t.part t.egress; s.newFlit p n false x.1 x.2.1 x.2.2

/-- An accepted flit is acknowledged at once (log 19, DESIGN CHOICE): it leaves the sender's replay buffer. -/
def Port.acked (t : Port) (f : Flit) : Port :=
  let done := { t with replay := t.replay.drop 1 }
  if f.marker then done.switched else done

/-- A packet that a port has received: into the fabric of its package, or on through the crossbar (R215). -/
def State.receive (s : State) (p : Nat) (m : Msg) : State := s.route p m

/-- FLIT: the next flit of the peer arrives at a port. (log 19, DESIGN CHOICE) (log 72, DEDUCED) (log 88, DEDUCED) -/
def State.flitArrives (s : State) (p n : Nat) (crcBad authBad : Bool) : State :=
  let e := s.farEnd p n
  if !((s.pkg p).port n).up then s
  else
    let s1 := s.prepareFlit e.1 e.2
    let u := (s1.pkg e.1).port e.2
    match (if u.unsent = 0 then none else u.replay[u.replay.length - u.unsent]?) with
    | none => s1
    | some f =>
      let s2 := s1.updPort e.1 e.2 (fun u => { u with unsent := u.unsent - 1 })
      let t := (s2.pkg p).port n
      if t.wantReplay && (f.seq != t.rxSeq || !f.replay) then s2
      else if crcBad || (t.enc && authBad) then
        s2.updPort p n (fun t => { t with
          fails := t.fails + 1, wantReplay := true, auth := if t.enc && authBad && !crcBad then satInc t.auth else t.auth })
      else if f.seq != t.rxSeq then s2
      else
        let s3 := s2.updPort p n (fun t => { t with
          rxSeq := (t.rxSeq + 1) % 2 ^ 24, fails := 0, wantReplay := false,
          rxSlot := if f.marker then !t.rxSlot else t.rxSlot, credits := t.credits + 1 })
        f.pkts.foldl (fun s x => if x.last then s.receive p x.msg else s) (s3.updPort e.1 e.2 (·.acked f))

def execFlit (p n : Nat) (crcBad authBad : Bool) (s : State) : Out := .next (s.flitArrives p n crcBad authBad)

/-- REPLAY_REQUEST at the sender: it resends from the failed flit on, with the replay bit (R212). -/
def State.goBack (s : State) (p n : Nat) : State :=
  let t := (s.pkg p).port n
  if t.up && (s.peerOf p n).wantReplay && decide (t.unsent < t.replay.length) then
    s.updPort p n (fun t => { t with
      replay := t.replay.map (fun f => { f with replay := true }), unsent := t.replay.length, repl := satInc t.repl })
  else s

def execReplayRequest (p n : Nat) (s : State) : Out := .next (s.goBack p n)

/-- The flits after a dropped one, and the queue: a packet that the dropped flit began goes nowhere. -/
def Port.dropRest (t : Port) (f : Flit) (rest : List Flit) : Port :=
  let cut := match f.pkts.getLast? with | some x => !x.last | none => false
  let dead := fun (g : Flit) => match g.pkts with
    | x :: xs => { g with pkts := { x with last := false } :: xs }
    | [] => g
  -- the pieces that go on with it: the first of each flit up to the one in which it ends
  let ends := fun (g : Flit) => match g.pkts with | x :: _ => x.last | [] => false
  let before := rest.takeWhile (fun g => !ends g)
  let n := before.length
  if !cut then { t with replay := rest }
  else
    { t with
      replay := rest.mapIdx (fun i g => if i ≤ n then dead g else g),
      egress := if n < rest.length then t.egress else t.egress.drop 1, part := if n < rest.length then t.part else 0 }

/-- FLIT_DROP at the sender: a flit that has failed eight times in a row is lost, and the link retrains (R212). (log 62, DEDUCED) (log 72, DEDUCED) -/
def State.dropFlit (s : State) (p n : Nat) : State :=
  let t := (s.pkg p).port n
  let e := s.farEnd p n
  match t.replay with
  | [] => s
  | f :: rest =>
    if t.up && decide (8 ≤ (s.peerOf p n).fails) then
      let s1 := s.updPort p n (fun t =>
        let t1 := t.dropRest f rest
        let t2 := if f.marker then t1.switched else t1
        { t2 with up := false, drop := satInc t.drop, replay := t2.replay.map (fun f => { f with replay := true }), unsent := rest.length })
      s1.updPort e.1 e.2 (fun u => { u with
        up := false, fails := 0, wantReplay := false, rxSeq := (u.rxSeq + 1) % 2 ^ 24,
        rxSlot := if f.marker then !u.rxSlot else u.rxSlot })
    else s

def execFlitDrop (p n : Nat) (s : State) : Out := .next (s.dropFlit p n)

/-! ### Keys (R213) -/

/-- KEY_EVENT: 2^31 flits under the active key; the trust dies load this direction's inactive slot at both ends and the switch
starts (R294), or waits for the one in progress. -/
def State.keyEvent (s : State) (p n : Nat) : State :=
  let t := (s.pkg p).port n
  if t.enc && decide (2 ^ 31 ≤ t.lkcnt) && !t.nxv && !t.kreq then
    s.updPort p n (fun t => if t.switching then { t with kev := true, kreq := true } else { t with kev := true, nxv := true, switching := true })
  else s

def execKeyEvent (p n : Nat) (s : State) : Out := .next (s.keyEvent p n)

/-- KEY_STOP: data flits stop at 0xFFFF_FFFF, and the waiting packets detour. -/
def execKeyStop (p n : Nat) (s : State) : Out := .next (if ((s.pkg p).port n).kstop then s.reroute p n else s)

/-! ### The residence limit (R184) -/

/-- QUEUE_DISCARD: a packet that has been in its queue longer than 65,536 of the queue's cycles; a packet that a flit has
begun leaves with its flits. (log 66, DEDUCED) -/
def State.discard (s : State) (w : QueueSpot) : State :=
  let late := fun (m : Msg) (limit : Nat) => decide (m.since + limit < s.now)
  match w with
  | .egress p n i =>
    let t := (s.pkg p).port n
    match t.egress[i]? with
    | some m => if late m Config.portResidence && (i != 0 || t.part == 0) then s.updPort p n (fun t => { t with egress := t.egress.eraseIdx i }) else s
    | none => s
  | .noPath p i =>
    match (s.pkg p).noPath[i]? with
    | some m => if late m Config.portResidence then s.updPkg p (fun k => { k with noPath := k.noPath.eraseIdx i }) else s
    | none => s
  | .fabric i =>
    match s.fabric[i]? with
    | some m => if late m Config.dieResidence then { s with fabric := s.fabric.eraseIdx i } else s
    | none => s

def execQueueDiscard (w : QueueSpot) (s : State) : Out := .next (s.discard w)

end Sys2Proof.Machine
end

