-- ==== Sys2Proof/Machine/Logic.lean ====
section
/-! DEFINITION. Machine/Logic.lean: logic and bit operations (spec/04 R85; spec/15 R303, R311, spec/16 R347, spec/17 R367,
spec/18 R379, spec/19 R396, R410). -/

namespace Sys2Proof.Machine

def logicOp (uni : Bool) (d a b : Reg) (op : Word → Word → Word) : State → Out :=
  perLane { uni := uni, srcs := regs [a, b], dsts := one d } (fun g n l => l.setV d.toNat (op (g.v n a.toNat) (g.v n b.toNat)))

def execAnd (u : Bool) (d a b : Reg) (s : State) : Out := logicOp u d a b (· &&& ·) s
def execOr (u : Bool) (d a b : Reg) (s : State) : Out := logicOp u d a b (· ||| ·) s
def execXor (u : Bool) (d a b : Reg) (s : State) : Out := logicOp u d a b (· ^^^ ·) s

/-- Bit k of the result is bit a_k + 2·b_k + 4·c_k of the table (R367). -/
def tableLogic (tt : BitVec 8) (a b c : Word) : Word :=
  Mask.ofPred (fun k => bit tt ((bit a k).toNat + 2 * (bit b k).toNat + 4 * (bit c k).toNat))

def execLogt (u : Bool) (gd : Guard) (d a b c : Reg) (tt : BitVec 8) (s : State) : Out :=
  perLane { gd := gd, uni := u, srcs := regs [a, b, c], dsts := one d } (fun g n l =>
    l.setV d.toNat (tableLogic tt (g.v n a.toNat) (g.v n b.toNat) (g.v n c.toNat))) s

/-- The shift amount of SHL, SHR and FSHF (R80, R396, R347). -/
def shiftAmount (clamp : Bool) (b : Word) : Nat := if clamp then min b.toNat 32 else b.toNat % 32
/-- Shifts by 0 to 32 (R396). -/
def shiftLeft (x : Word) (n : Nat) : Word := BitVec.ofNat 32 (x.toNat * 2 ^ n)
def shiftRight (arith : Bool) (x : Word) (n : Nat) : Word :=
  if arith then BitVec.ofInt 32 (x.toInt / 2 ^ n) else BitVec.ofNat 32 (x.toNat / 2 ^ n)

def execShl (u : Bool) (d a b : Reg) (clamp : Bool) (s : State) : Out :=
  logicOp u d a b (fun x y => shiftLeft x (shiftAmount clamp y)) s
def execShr (u : Bool) (d a b : Reg) (arith clamp : Bool) (s : State) : Out :=
  logicOp u d a b (fun x y => shiftRight arith x (shiftAmount clamp y)) s
def execShi (u : Bool) (d a : Reg) (right arith : Bool) (n : BitVec 5) (s : State) : Out :=
  logicOp u d a 0 (fun x _ => if right then shiftRight arith x n.toNat else shiftLeft x n.toNat) s

/-- The 64-bit funnel, b high (R347). -/
def execFshf (gd : Guard) (d a b c : Reg) (right clamp : Bool) (s : State) : Out :=
  perLane { gd := gd, srcs := regs [a, b, c], dsts := one d } (fun g n l =>
    let w := g.n n b * 2 ^ 32 + g.n n a
    let k := shiftAmount clamp (g.v n c.toNat)
    l.setV d.toNat (BitVec.ofNat 32 (if right then w / 2 ^ k else w * 2 ^ k / 2 ^ 32))) s

/-- field(p, l) of R312: the position and the width in force. -/
def bitField (p l : Nat) : Nat × Nat := (min p 32, min (min p 32 + l) 32 - min p 32)

def bfField (g : Group) (n : Nat) : BfSrc → Nat × Nat
  | .reg b => bitField (bits (g.v n b.toNat) 7 0) (bits (g.v n b.toNat) 15 8)
  | .imm pos len1 => bitField pos.toNat (len1.toNat + 1)

def bfSrcs : BfSrc → List Nat
  | .reg b => one b
  | .imm _ _ => []

def extractField (sx : Bool) (x : Word) (f : Nat × Nat) : Word :=
  let y := x.toNat / 2 ^ f.1 % 2 ^ f.2
  if f.2 = 0 then 0 else if sx then BitVec.ofInt 32 (signedOf f.2 y) else BitVec.ofNat 32 y
def insertField (r x : Word) (f : Nat × Nat) : Word :=
  let mask : Word := BitVec.ofNat 32 ((2 ^ f.2 - 1) * 2 ^ f.1)
  (r &&& ~~~ mask) ||| (BitVec.ofNat 32 (x.toNat * 2 ^ f.1) &&& mask)

def execBfe (u : Bool) (gd : Guard) (d a : Reg) (src : BfSrc) (sx : Bool) (s : State) : Out :=
  perLane { gd := gd, uni := u, srcs := one a ++ bfSrcs src, dsts := one d } (fun g n l =>
    l.setV d.toNat (extractField sx (g.v n a.toNat) (bfField g n src))) s
def execBfi (u : Bool) (gd : Guard) (d a c : Reg) (src : BfSrc) (s : State) : Out :=
  perLane { gd := gd, uni := u, srcs := regs [a, c] ++ bfSrcs src, dsts := one d } (fun g n l =>
    l.setV d.toNat (insertField (g.v n c.toNat) (g.v n a.toNat) (bfField g n src))) s

def bitOp (d a : Reg) (op : Word → Word) : State → Out :=
  perLane { srcs := one a, dsts := one d } (fun g n l => l.setV d.toNat (op (g.v n a.toNat)))

def execPopc (d a : Reg) (s : State) : Out := bitOp d a (fun x => BitVec.ofNat 32 (Mask.lanes x).length) s
def execClz (d a : Reg) (s : State) : Out :=
  bitOp d a (fun x => if x = 0 then 32 else BitVec.ofNat 32 (31 - x.toNat.log2)) s
def execBrev (d a : Reg) (s : State) : Out := bitOp d a (fun x => Mask.ofPred (fun k => bit x (31 - k))) s

end Sys2Proof.Machine
end

