-- ==== Sys2Proof/Machine/Platform.lean ====
section
/-! DEFINITION. Machine/Platform.lean: boot, measurements, thermal trips, throttling and power states (spec/14 R292 to
R296, spec/01 R17, R18). -/

namespace Sys2Proof.Machine

/-! ### A package stops (R292, R295) -/

/-- The package loses all state of its compute dies: links go down, packets toward it are lost, memory's tags and keys go.
Its time goes on, and so do the numbers that name its free values. (log 57, DEDUCED) (log 71, DEDUCED) -/
def State.stopPkg (s : State) (p : Nat) (plat : Plat) : State :=
  let s1 := (List.range (Config.ports s.part)).foldl (fun s n => s.linkLost p n) s
  let k := s1.pkg p
  let k' : Pkg := { Pkg.reset with
    part := k.part, plat := { plat with rootAtomics := k.plat.rootAtomics }, uid := k.uid, aclk := k.aclk }
  { s1.updPkg p (fun _ => k') with
    fabric := s1.fabric.filter (fun m => m.dst.pkg != p), strikes := s1.strikes.filter (fun x => x.pkg != p),
    dramErrs := s1.dramErrs.filter (fun x => x.pkg != p) }

/-- The HBM of a package holds zero data (R292 step 3). (log 71, DEDUCED) -/
def State.zeroHbm (s : State) (p : Nat) : State :=
  { s with mem := s.mem.filter (fun c => c.1 / 2 ^ 56 != p) }

/-! ### Boot (R292) -/

/-- The compute dies that fail their measurement. (log 57, DEDUCED) -/
def failedDies (part : Part) (o : BootOutcome) : List Nat :=
  (List.range (Config.computeDies part)).filter (fun d => !bit o.dieOk d)

/-- The digests of step 2: fuses, configuration and command-processor ROM of each die in order. (log 10, DESIGN CHOICE) -/
def bootDigests (part : Part) (p : Nat) : List (BitVec 256) :=
  ((List.range (Config.computeDies part)).map (fun d => (List.range 3).map (fun j => Config.digest p (3 * d + j)))).flatten

/-- The platform registers after a boot: capacities of the dies in service (R22, R292); a device error is signalled on vector
0 (R431). `was` names the dies that an earlier boot held in reset. (log 57, DEDUCED) -/
def Plat.booted (part : Part) (p : Nat) (was : BitVec 4) (o : BootOutcome) : Plat :=
  let bad := failedDies part o
  if !o.firmwareOk then { Plat.reset with err := true, faild := was, deadDies := List.range (Config.computeDies part), msix := [(0, 0)] }
  else if 0 ∈ bad then
    { Plat.reset with
      stage := 3, err := true, msix := [(0, 0)], faild := BitVec.ofNat 4 (bad.map (2 ^ ·)).sum, rreq := true, deadDies := bad,
      frames := Config.framesPerStack * (Config.hbmStacks part - 2 * bad.length), measured := bootDigests part p }
  else
    { Plat.reset with
      stage := 4, ready := true, faild := BitVec.ofNat 4 (bad.map (2 ^ ·)).sum, rreq := !bad.isEmpty, deadDies := bad,
      frames := Config.framesPerStack * (Config.hbmStacks part - 2 * bad.length), measured := bootDigests part p, scrubAct := true }

/-- Port n as boot leaves it, before it trains: in reset where the wiring or its die leaves it out (R16, R292). -/
def State.bootPort (s : State) (p n : Nat) : Port :=
  match s.linkOf p n with
  | none => { Port.fresh with inReset := true }
  | some e => { Port.fresh with
      peer := e.1, peerPort := e.2, inReset := decide (n / Config.portsPerDie s.part ∈ (s.pkg p).plat.deadDies) }

/-- A link both of whose ends have booted trains afresh; the keys are loaded and counted from 0. -/
def State.firstTrain (s : State) (p n : Nat) : State :=
  let e := s.farEnd p n
  if s.trains p n && s.trains e.1 e.2 then
    (s.bothEnds p n (fun t => { t.lose with
      slot := false, rxSlot := false, nxv := false, switching := false, kreq := false, oldSlot := false, lkcnt := 0, ivCount := 0 })).train p n
  else s

/-- A die that failed its measurement stays in reset while the device is powered, over every PERST# (R292). (log 71, DEDUCED) -/
def bootAfter (o : BootOutcome) (was : BitVec 4) : BootOutcome := { o with dieOk := o.dieOk &&& ~~~ was }

/-- POWER_ON: at power-on, and after PERST#. (log 57, DEDUCED) (log 71, DEDUCED) (log 88, DEDUCED) -/
def State.powerOn (s : State) (p : Nat) (o : BootOutcome) : State :=
  if !thas s.pkgs p then s
  else
    let was := (s.pkg p).plat.faild
    let s1 := (s.stopPkg p (Plat.booted s.part p was (bootAfter o was))).zeroHbm p
    if !(s1.pkg p).plat.ready then s1
    else
      let ns := List.range (Config.ports s.part)
      let s2 := s1.updPkg p (fun k => { k with ports := ns.map (fun n => (n, s1.bootPort p n)) })
      ns.foldl (fun s n => s.firstTrain p n) s2

def execPowerOn (p : Nat) (o : BootOutcome) (s : State) : Out := .next (s.powerOn p o)

/-! ### Temperature and power (R17, R18, R295) -/

/-- The temperature that telemetry reports of a die, in degrees Celsius. -/
def Plat.tempOf (x : Plat) (d : Nat) : Nat := bits x.teltmp (8 * d + 7) (8 * d)

/-- THERMAL_TRIP at 110 degrees: the compute dies are held in reset; the device is no longer ready (log 20, DEDUCED). -/
def State.trip (s : State) (p die : Nat) : State :=
  let x := (s.pkg p).plat
  if thas s.pkgs p && decide (die < Config.computeDies s.part) && decide (110 ≤ x.tempOf die) then
    s.stopPkg p { x with err := true, ready := false, deadDies := List.range (Config.computeDies s.part), msix := x.msix ++ [(0, 0)] }
  else s

def execThermalTrip (p die : Nat) (s : State) : Out := .next (s.trip p die)

/-- One step of 50 MHz between 750 and 1,500, and which limits call for it; both at once take a single step. (log 88, DEDUCED) -/
def Plat.throttle (x : Plat) (down power thermal : Bool) : Plat :=
  if down then (if power || thermal then { x with step := min 15 (x.step + 1), pwr := power, thm := thermal } else x)
  else { x with step := x.step - 1, pwr := power, thm := thermal }

/-- THROTTLE_STEP (R295; log 88, DEDUCED). -/
def execThrottleStep (p : Nat) (down power thermal : Bool) (s : State) : Out :=
  .next (s.updPkg p (·.updPlat (·.throttle down power thermal)))

/-! ### Power states (R296) -/

def execD3hotEntry (p : Nat) (s : State) : Out := .next (s.updPkg p (·.updPlat (fun x => { x with d3hot := true })))

/-- D0 again: the held MSI-X messages are sent, and queues are read from their QRP on. -/
def execD0Return (p : Nat) (s : State) : Out :=
  .next (s.updPkg p (·.updPlat (fun x => { x with d3hot := false, msix := x.msix ++ x.msixHeld, msixHeld := [] })))

/-! ### SPDM (R293) -/

/-- Measurement blocks 1 to 7; those of dies that are not fitted do not exist. (log 59, DEDUCED) -/
def measuredIdx (part : Part) (idx : Nat) : Bool :=
  idx == 1 || idx == 6 || idx == 7 || (decide (2 ≤ idx) && decide (idx < 2 + Config.computeDies part))

/-- GET_MEASUREMENTS: a block's digest, which nothing computes here (log 10, DESIGN CHOICE), and for block 7 the retirement log whole. (log 59, DEDUCED) -/
def State.measure (s : State) (p idx : Nat) : State :=
  if measuredIdx s.part idx then
    s.updPkg p (·.updPlat (fun x =>
      let log := if idx = 7 then x.retLog else []
      { x with answer := some { idx := idx, digest := Config.digest (16 + 16 * p + idx) log.length, log := log } }))
  else s

def execGetMeasurements (p idx : Nat) (s : State) : Out := .next (s.measure p idx)

end Sys2Proof.Machine
end

