-- ==== Sys2Proof/Machine/Dispatch.lean ====
section
/-! DEFINITION. Machine/Dispatch.lean: one arm per constructor of Instr, each a direct call of its meaning. -/

namespace Sys2Proof.Machine

def exec (i : Instr) (s : State) : Host.Outcome State Fault Refusal :=
  match i with
  | .bra gd disp => Sys2Proof.Machine.execBra gd disp s
  | .call disp => Sys2Proof.Machine.execCall disp s
  | .jmpi a => Sys2Proof.Machine.execJmpi a s
  | .trap code => Sys2Proof.Machine.execTrap code s
  | .bkpt code => Sys2Proof.Machine.execBkpt code s
  | .iadd u d a b f => Sys2Proof.Machine.execIadd u d a b f s
  | .isub u d a b f => Sys2Proof.Machine.execIsub u d a b f s
  | .imul u d a b f => Sys2Proof.Machine.execImul u d a b f s
  | .imulh d a b uns => Sys2Proof.Machine.execImulh d a b uns s
  | .imin u d a b uns => Sys2Proof.Machine.execImin u d a b uns s
  | .imax u d a b uns => Sys2Proof.Machine.execImax u d a b uns s
  | .iabs d a sat => Sys2Proof.Machine.execIabs d a sat s
  | .iaddi u d a imm => Sys2Proof.Machine.execIaddi u d a imm s
  | .iadd64 u d a b f => Sys2Proof.Machine.execIadd64 u d a b f s
  | .isub64 u d a b f => Sys2Proof.Machine.execIsub64 u d a b f s
  | .iaddc gd d a b ci co => Sys2Proof.Machine.execIaddc gd d a b ci co s
  | .imad gd d a b c f wide => Sys2Proof.Machine.execImad gd d a b c f wide s
  | .and u d a b => Sys2Proof.Machine.execAnd u d a b s
  | .or u d a b => Sys2Proof.Machine.execOr u d a b s
  | .xor u d a b => Sys2Proof.Machine.execXor u d a b s
  | .logt u gd d a b c tt => Sys2Proof.Machine.execLogt u gd d a b c tt s
  | .shl u d a b clamp => Sys2Proof.Machine.execShl u d a b clamp s
  | .shr u d a b arith clamp => Sys2Proof.Machine.execShr u d a b arith clamp s
  | .shi u d a right arith n => Sys2Proof.Machine.execShi u d a right arith n s
  | .fshf gd d a b c right clamp => Sys2Proof.Machine.execFshf gd d a b c right clamp s
  | .bfe u gd d a src sx => Sys2Proof.Machine.execBfe u gd d a src sx s
  | .bfi u gd d a c src => Sys2Proof.Machine.execBfi u gd d a c src s
  | .popc d a => Sys2Proof.Machine.execPopc d a s
  | .clz d a => Sys2Proof.Machine.execClz d a s
  | .brev d a => Sys2Proof.Machine.execBrev d a s
  | .mov u d a pair => Sys2Proof.Machine.execMov u d a pair s
  | .movi u d imm => Sys2Proof.Machine.execMovi u d imm s
  | .movh u d imm => Sys2Proof.Machine.execMovh u d imm s
  | .sel u gd d a b pair s1 neg => Sys2Proof.Machine.execSel u gd d a b pair s1 neg s
  | .srd u d id => Sys2Proof.Machine.execSrd u d id s
  | .swr u a id => Sys2Proof.Machine.execSwr u a id s
  | .icmp u gd d a b cond uns w64 pc op => Sys2Proof.Machine.execIcmp u gd d a b cond uns w64 pc op s
  | .fcmp gd d a b cond pc op f64 => Sys2Proof.Machine.execFcmp gd d a b cond pc op f64 s
  | .plgt gd d a b c tt => Sys2Proof.Machine.execPlgt gd d a b c tt s
  | .ptov d a mask => Sys2Proof.Machine.execPtov d a mask s
  | .vtop d a mask => Sys2Proof.Machine.execVtop d a mask s
  | .fadd d a b r => Sys2Proof.Machine.execFadd d a b r s
  | .fmul d a b r => Sys2Proof.Machine.execFmul d a b r s
  | .ffma gd d a b c r => Sys2Proof.Machine.execFfma gd d a b c r s
  | .fmin d a b => Sys2Proof.Machine.execFmin d a b s
  | .fmax d a b => Sys2Proof.Machine.execFmax d a b s
  | .frnd d a r => Sys2Proof.Machine.execFrnd d a r s
  | .fdiv gd d a b r => Sys2Proof.Machine.execFdiv gd d a b r s
  | .frcp d a => Sys2Proof.Machine.execFrcp d a s
  | .frsq d a => Sys2Proof.Machine.execFrsq d a s
  | .fsqt d a r => Sys2Proof.Machine.execFsqt d a r s
  | .fex2 d a => Sys2Proof.Machine.execFex2 d a s
  | .flg2 d a => Sys2Proof.Machine.execFlg2 d a s
  | .fsin d a => Sys2Proof.Machine.execFsin d a s
  | .fcos d a => Sys2Proof.Machine.execFcos d a s
  | .ftnh d a => Sys2Proof.Machine.execFtnh d a s
  | .hpadd d a b r => Sys2Proof.Machine.execHpadd d a b r s
  | .hpmul d a b r => Sys2Proof.Machine.execHpmul d a b r s
  | .hpfma gd d a b c r bf => Sys2Proof.Machine.execHpfma gd d a b c r bf s
  | .hpmnx d a b max bf => Sys2Proof.Machine.execHpmnx d a b max bf s
  | .dadd d a b r => Sys2Proof.Machine.execDadd d a b r s
  | .dmul d a b r => Sys2Proof.Machine.execDmul d a b r s
  | .dfma gd d a b c r => Sys2Proof.Machine.execDfma gd d a b c r s
  | .dmnx d a b max => Sys2Proof.Machine.execDmnx d a b max s
  | .cvt gd d a dt st r nosat => Sys2Proof.Machine.execCvt gd d a dt st r nosat s
  | .pack gd d a b c dt st r nosat j => Sys2Proof.Machine.execPack gd d a b c dt st r nosat j s
  | .unpk gd d a k st dt => Sys2Proof.Machine.execUnpk gd d a k st dt s
  | .scex gd d a et => Sys2Proof.Machine.execScex gd d a et s
  | .idot gd d a b c i4 au bu sat => Sys2Proof.Machine.execIdot gd d a b c i4 au bu sat s
  | .fdot gd d a b c s1 fmt ja jb r => Sys2Proof.Machine.execFdot gd d a b c s1 fmt ja jb r s
  | .sgat gd d a mode src seg => Sys2Proof.Machine.execSgat gd d a mode src seg s
  | .vote gd dst a => Sys2Proof.Machine.execVote gd dst a s
  | .lred gd d a op => Sys2Proof.Machine.execLred gd d a op s
  | .lpfx gd d a op incl => Sys2Proof.Machine.execLpfx gd d a op incl s
  | .lmch d a w64 => Sys2Proof.Machine.execLmch d a w64 s
  | .ld u gd d a size sx acq sc off => Sys2Proof.Machine.execLd u gd d a size sx acq sc off s
  | .st gd a b size rel sc off => Sys2Proof.Machine.execSt gd a b size rel sc off s
  | .atom gd d a b c op w64 ord sc off => Sys2Proof.Machine.execAtom gd d a b c op w64 ord sc off s
  | .red gd a b op w64 ord sc off => Sys2Proof.Machine.execRed gd a b op w64 ord sc off s
  | .lds gd d a size sx fe clr off => Sys2Proof.Machine.execLds gd d a size sx fe clr off s
  | .ldsx gd d a c size sx fe clr off => Sys2Proof.Machine.execLdsx gd d a c size sx fe clr off s
  | .sts gd a b size set off => Sys2Proof.Machine.execSts gd a b size set off s
  | .stsx gd a b c size set off => Sys2Proof.Machine.execStsx gd a b c size set off s
  | .fence u gd ord sc => Sys2Proof.Machine.execFence u gd ord sc s
  | .pft gd a l2 off => Sys2Proof.Machine.execPft gd a l2 off s
  | .clin gd a b op all sc => Sys2Proof.Machine.execClin gd a b op all sc s
  | .feop gd kind a b => Sys2Proof.Machine.execFeop gd kind a b s
  | .deps gd a b c size => Sys2Proof.Machine.execDeps gd a b c size s
  | .depa gd a b c kind => Sys2Proof.Machine.execDepa gd a b c kind s
  | .depr gd a b c => Sys2Proof.Machine.execDepr gd a b c s
  | .mmaF4 gd t o => Sys2Proof.Machine.execMmaF4 gd t o s
  | .mmaF8 gd t ae5m2 be5m2 o => Sys2Proof.Machine.execMmaF8 gd t ae5m2 be5m2 o s
  | .mmaI8 gd t au bu o => Sys2Proof.Machine.execMmaI8 gd t au bu o s
  | .mmaI4 gd t au bu o => Sys2Proof.Machine.execMmaI4 gd t au bu o s
  | .mmaBf gd t o => Sys2Proof.Machine.execMmaBf gd t o s
  | .mmaH gd t o => Sys2Proof.Machine.execMmaH gd t o s
  | .ksgn gd k => Sys2Proof.Machine.execKsgn gd k s
  | .tld gd a b c q arv => Sys2Proof.Machine.execTld gd a b c q arv s
  | .tst gd d a b c q arv flag => Sys2Proof.Machine.execTst gd d a b c q arv flag s
  | .bxi gd a => Sys2Proof.Machine.execBxi gd a s
  | .bxw gd a b => Sys2Proof.Machine.execBxw gd a b s
  | .qcfg q n => Sys2Proof.Machine.execQcfg q n s
  | .qarv gd a q cons => Sys2Proof.Machine.execQarv gd a q cons s
  | .qwt gd a q cons e => Sys2Proof.Machine.execQwt gd a q cons e s
  | .barSync gd d a n lvl => Sys2Proof.Machine.execBarSync gd d a n lvl s
  | .barArv gd d a n lvl => Sys2Proof.Machine.execBarArv gd d a n lvl s
  | .barWait gd b n lvl => Sys2Proof.Machine.execBarWait gd b n lvl s
  | .kcfg k a => Sys2Proof.Machine.execKcfg k a s
  | .acal mask => Sys2Proof.Machine.execAcal mask s
  | .acfr mask => Sys2Proof.Machine.execAcfr mask s
  | .aczr t => Sys2Proof.Machine.execAczr t s
  | .acld gd t a st => Sys2Proof.Machine.execAcld gd t a st s
  | .acdr gd t a b ot r nosat => Sys2Proof.Machine.execAcdr gd t a b ot r nosat s
  | .mwt t => Sys2Proof.Machine.execMwt t s
  | .chnr d a kind => Sys2Proof.Machine.execChnr d a kind s
  | .launch conc tag desc nx ny nz argp argn label report => Sys2Proof.Machine.execLaunch conc tag desc nx ny nz argp argn label report s
  | .node conc tag label report => Sys2Proof.Machine.execNode conc tag label report s
  | .depend tile tag producer consumer ax ay wx wy bx by_1 => Sys2Proof.Machine.execDepend tile tag producer consumer ax ay wx wy bx by_1 s
  | .graphBegin conc tag => Sys2Proof.Machine.execGraphBegin conc tag s
  | .graphEnd tag => Sys2Proof.Machine.execGraphEnd tag s
  | .phase job tag => Sys2Proof.Machine.execPhase job tag s
  | .wait nodrain tag kind cond counter queue addr value => Sys2Proof.Machine.execWait nodrain tag kind cond counter queue addr value s
  | .signal nodrain msix tag op vector addr value => Sys2Proof.Machine.execSignal nodrain msix tag op vector addr value s
  | .loop nodrain mem tag count addr => Sys2Proof.Machine.execLoop nodrain mem tag count addr s
  | .loopEnd tag => Sys2Proof.Machine.execLoopEnd tag s
  | .ifPkt nodrain tag cond width addr value => Sys2Proof.Machine.execIfPkt nodrain tag cond width addr value s
  | .elsePkt tag => Sys2Proof.Machine.execElsePkt tag s
  | .endIf tag => Sys2Proof.Machine.execEndIf tag s
  | .launchIndirect conc nodrain tag desc grid argp argn label report => Sys2Proof.Machine.execLaunchIndirect conc nodrain tag desc grid argp argn label report s
  | .copy conc tag ccb die label report => Sys2Proof.Machine.execCopy conc tag ccb die label report s
  | .cancel tag level queue label => Sys2Proof.Machine.execCancel tag level queue label s
  | .killContext preserve tag asid report => Sys2Proof.Machine.execKillContext preserve tag asid report s
  | .reclaimFence tag asid => Sys2Proof.Machine.execReclaimFence tag asid s
  | .scopeTable nodrain tag id pkgs cores => Sys2Proof.Machine.execScopeTable nodrain tag id pkgs cores s
  | .channelAllocate tag journaled peer ch result journal jsize => Sys2Proof.Machine.execChannelAllocate tag journaled peer ch result journal jsize s
  | .channelFree tag mode peer ch result journal jsize => Sys2Proof.Machine.execChannelFree tag mode peer ch result journal jsize s
  | .timeslice tag weight d t => Sys2Proof.Machine.execTimeslice tag weight d t s
  | .priority tag prio => Sys2Proof.Machine.execPriority tag prio s
  | .nopPacket units tag => Sys2Proof.Machine.execNopPacket units tag s
  | .waitMet pkg q => Sys2Proof.Machine.execWaitMet pkg q s
  | .reclaimFenceMet pkg q => Sys2Proof.Machine.execReclaimFenceMet pkg q s
  | .admissionResumes pkg q => Sys2Proof.Machine.execAdmissionResumes pkg q s
  | .packetDrainMet pkg q => Sys2Proof.Machine.execPacketDrainMet pkg q s
  | .channelFreeComplete pkg q => Sys2Proof.Machine.execChannelFreeComplete pkg q s
  | .qctlEnable pkg fn q v => Sys2Proof.Machine.execQctlEnable pkg fn q v s
  | .qctlSkip pkg fn q v => Sys2Proof.Machine.execQctlSkip pkg fn q v s
  | .qctlDisable pkg fn q v => Sys2Proof.Machine.execQctlDisable pkg fn q v s
  | .qbaselWrite pkg fn q v => Sys2Proof.Machine.execQbaselWrite pkg fn q v s
  | .qwpWrite pkg fn q v => Sys2Proof.Machine.execQwpWrite pkg fn q v s
  | .contextCreate pkg fn v => Sys2Proof.Machine.execContextCreate pkg fn v s
  | .contextDestroy pkg fn v => Sys2Proof.Machine.execContextDestroy pkg fn v s
  | .rewriteTrapWords pkg fn v => Sys2Proof.Machine.execRewriteTrapWords pkg fn v s
  | .trapWordsApplied pkg fn => Sys2Proof.Machine.execTrapWordsApplied pkg fn s
  | .ctxcmdReserved pkg fn v => Sys2Proof.Machine.execCtxcmdReserved pkg fn v s
  | .tlbInvalidate pkg fn v => Sys2Proof.Machine.execTlbInvalidate pkg fn v s
  | .tlbInvalidateComplete pkg fn => Sys2Proof.Machine.execTlbInvalidateComplete pkg fn s
  | .faultRecordPop pkg fn => Sys2Proof.Machine.execFaultRecordPop pkg fn s
  | .faultResolved pkg fn v => Sys2Proof.Machine.execFaultResolved pkg fn v s
  | .faultUnresolvable pkg fn v => Sys2Proof.Machine.execFaultUnresolvable pkg fn v s
  | .retiredFramePop pkg => Sys2Proof.Machine.execRetiredFramePop pkg s
  | .errorRecordPop pkg fn => Sys2Proof.Machine.execErrorRecordPop pkg fn s
  | .debugHalt pkg fn v => Sys2Proof.Machine.execDebugHalt pkg fn v s
  | .debugResume pkg fn v => Sys2Proof.Machine.execDebugResume pkg fn v s
  | .stepThread pkg fn v => Sys2Proof.Machine.execStepThread pkg fn v s
  | .stepGroup pkg fn v => Sys2Proof.Machine.execStepGroup pkg fn v s
  | .cancelStep pkg fn v => Sys2Proof.Machine.execCancelStep pkg fn v s
  | .dbgcmdReserved pkg fn v => Sys2Proof.Machine.execDbgcmdReserved pkg fn v s
  | .stopRecordPop pkg fn => Sys2Proof.Machine.execStopRecordPop pkg fn s
  | .debugDetach pkg fn v => Sys2Proof.Machine.execDebugDetach pkg fn v s
  | .haltedStateRead pkg fn => Sys2Proof.Machine.execHaltedStateRead pkg fn s
  | .haltedStateWrite pkg fn v => Sys2Proof.Machine.execHaltedStateWrite pkg fn v s
  | .trselWrite pkg ctrl v => Sys2Proof.Machine.execTrselWrite pkg ctrl v s
  | .registerWrite pkg fn off bytes v => Sys2Proof.Machine.execRegisterWrite pkg fn off bytes v s
  | .powerOn pkg o => Sys2Proof.Machine.execPowerOn pkg o s
  | .thermalTrip pkg die => Sys2Proof.Machine.execThermalTrip pkg die s
  | .throttleStep pkg down power thermal => Sys2Proof.Machine.execThrottleStep pkg down power thermal s
  | .d3hotEntry pkg => Sys2Proof.Machine.execD3hotEntry pkg s
  | .d0Return pkg => Sys2Proof.Machine.execD0Return pkg s
  | .getMeasurements pkg idx => Sys2Proof.Machine.execGetMeasurements pkg idx s
  | .flit pkg port crcBad authBad => Sys2Proof.Machine.execFlit pkg port crcBad authBad s
  | .replayRequest pkg port => Sys2Proof.Machine.execReplayRequest pkg port s
  | .flitDrop pkg port => Sys2Proof.Machine.execFlitDrop pkg port s
  | .linkRetrain pkg port ok => Sys2Proof.Machine.execLinkRetrain pkg port ok s
  | .linkDown pkg port => Sys2Proof.Machine.execLinkDown pkg port s
  | .keyEvent pkg port => Sys2Proof.Machine.execKeyEvent pkg port s
  | .keyStop pkg port => Sys2Proof.Machine.execKeyStop pkg port s
  | .queueDiscard w => Sys2Proof.Machine.execQueueDiscard w s
  | .absorbBufferDrain pkg ctrl => Sys2Proof.Machine.execAbsorbBufferDrain pkg ctrl s
  | .eviction pkg die k => Sys2Proof.Machine.execEviction pkg die k s
  | .getsTimeout pkg die k => Sys2Proof.Machine.execGetsTimeout pkg die k s
  | .broadcastTimeout pkg die k => Sys2Proof.Machine.execBroadcastTimeout pkg die k s
  | .preqRepeat pkg die k => Sys2Proof.Machine.execPreqRepeat pkg die k s
  | .pactRepeat pkg ctrl k => Sys2Proof.Machine.execPactRepeat pkg ctrl k s
  | .leaseExpiry pkg die k => Sys2Proof.Machine.execLeaseExpiry pkg die k s
  | .activationTimeout pkg ctrl k => Sys2Proof.Machine.execActivationTimeout pkg ctrl k s
  | .recreationStart pkg ctrl k => Sys2Proof.Machine.execRecreationStart pkg ctrl k s
  | .recallRepeat pkg ctrl k => Sys2Proof.Machine.execRecallRepeat pkg ctrl k s
  | .recreationComplete pkg ctrl k => Sys2Proof.Machine.execRecreationComplete pkg ctrl k s
  | .recallTableExpiry pkg die k => Sys2Proof.Machine.execRecallTableExpiry pkg die k s
  | .wipeRecreationTimeout pkg ctrl k => Sys2Proof.Machine.execWipeRecreationTimeout pkg ctrl k s
  | .scrubPass pkg ctrl => Sys2Proof.Machine.execScrubPass pkg ctrl s
  | .uncachedResend pkg core txn => Sys2Proof.Machine.execUncachedResend pkg core txn s
  | .replyCacheExpiry pkg ctrl idx => Sys2Proof.Machine.execReplyCacheExpiry pkg ctrl idx s
  | .storeResend pkg core k => Sys2Proof.Machine.execStoreResend pkg core k s
  | .shortfallNotice pkg src ch => Sys2Proof.Machine.execShortfallNotice pkg src ch s
  | .releaseResend pkg ch => Sys2Proof.Machine.execReleaseResend pkg ch s
  | .haltRepeat pkg => Sys2Proof.Machine.execHaltRepeat pkg s
  | .haltAbsence pkg peer => Sys2Proof.Machine.execHaltAbsence pkg peer s
  | .incadvRepeat pkg asid => Sys2Proof.Machine.execIncadvRepeat pkg asid s
  | .killComplete pkg asid => Sys2Proof.Machine.execKillComplete pkg asid s
  | .timeSliceExpiry pkg => Sys2Proof.Machine.execTimeSliceExpiry pkg s
  | .drainLimit pkg unit => Sys2Proof.Machine.execDrainLimit pkg unit s
  | .saveComplete pkg unit => Sys2Proof.Machine.execSaveComplete pkg unit s
  | .dispatch pkg die => Sys2Proof.Machine.execDispatch pkg die s
  | .blockStart pkg core => Sys2Proof.Machine.execBlockStart pkg core s
  | .stealRequest pkg core => Sys2Proof.Machine.execStealRequest pkg core s
  | .stealRetry pkg core => Sys2Proof.Machine.execStealRetry pkg core s
  | .park pkg cluster => Sys2Proof.Machine.execPark pkg cluster s
  | .fairnessSlice pkg group => Sys2Proof.Machine.execFairnessSlice pkg group s
  | .blockEnd pkg block => Sys2Proof.Machine.execBlockEnd pkg block s
  | .commitComplete pkg cluster => Sys2Proof.Machine.execCommitComplete pkg cluster s
  | .mmaComplete pkg core residueBad => Sys2Proof.Machine.execMmaComplete pkg core residueBad s
  | .aczrComplete pkg core => Sys2Proof.Machine.execAczrComplete pkg core s
  | .acldComplete pkg core => Sys2Proof.Machine.execAcldComplete pkg core s
  | .acdrComplete pkg core => Sys2Proof.Machine.execAcdrComplete pkg core s
  | .tldGranuleLands pkg block idx => Sys2Proof.Machine.execTldGranuleLands pkg block idx s
  | .tstComplete pkg block => Sys2Proof.Machine.execTstComplete pkg block s
  | .bxiComplete pkg bte idx => Sys2Proof.Machine.execBxiComplete pkg bte idx s
  | .hangRecord pkg group => Sys2Proof.Machine.execHangRecord pkg group s
  | .stallSample pkg quad => Sys2Proof.Machine.execStallSample pkg quad s
  | .illegalInstruction w0 w1 => Sys2Proof.Machine.execIllegalInstruction w0 w1 s
  | .combiningBufferWrite pkg core k => Sys2Proof.Machine.execCombiningBufferWrite pkg core k s
  | .clinComplete pkg group => Sys2Proof.Machine.execClinComplete pkg group s
  | .nop => Sys2Proof.Machine.execNop s
  | .exit => Sys2Proof.Machine.execExit s
  | .ret => Sys2Proof.Machine.execRet s
  | .yield => Sys2Proof.Machine.execYield s
  | .tret => Sys2Proof.Machine.execTret s
  | .ckpt => Sys2Proof.Machine.execCkpt s
  | .fetchFault => Sys2Proof.Machine.execFetchFault s
  | .gets => Sys2Proof.Machine.execGets s
  | .getx => Sys2Proof.Machine.execGetx s
  | .tok => Sys2Proof.Machine.execTok s
  | .preq => Sys2Proof.Machine.execPreq s
  | .pact => Sys2Proof.Machine.execPact s
  | .pdeact => Sys2Proof.Machine.execPdeact s
  | .recall => Sys2Proof.Machine.execRecall s
  | .rrep => Sys2Proof.Machine.execRrep s
  | .farAtomic => Sys2Proof.Machine.execFarAtomic s
  | .uncachedWrite => Sys2Proof.Machine.execUncachedWrite s
  | .uncachedReply => Sys2Proof.Machine.execUncachedReply s
  | .deposit => Sys2Proof.Machine.execDeposit s
  | .release => Sys2Proof.Machine.execRelease s
  | .rack => Sys2Proof.Machine.execRack s
  | .short => Sys2Proof.Machine.execShort s
  | .halt => Sys2Proof.Machine.execHalt s
  | .resume => Sys2Proof.Machine.execResume s
  | .incadv => Sys2Proof.Machine.execIncadv s
  | .incack => Sys2Proof.Machine.execIncack s
  | .uncachedRead => Sys2Proof.Machine.execUncachedRead s
  | .flushCompleteReport => Sys2Proof.Machine.execFlushCompleteReport s

end Sys2Proof.Machine
end

