-- ==== Sys2Proof/Machine/Step.lean ====
section
/-! DEFINITION. Machine/Step.lean: one step of the pod: what the hardware does by itself, the turn at the head of the agenda, then the row it comes to.
And the state in which the next turn runs one given instruction, as the host's loader would leave it (log 4). -/

namespace Sys2Proof.Machine

/-- One step: what is due between turns, then the turn at the head of the agenda is prepared, and the row it comes to is run. (log 6,
DEDUCED) (log 67, DEDUCED) -/
def step (s : State) : Host.Outcome State Fault Refusal :=
  match s.background.prepare with
  | .state s' => .next s'
  | .row i s' => exec i s'
  | .noAgent => .fault .noAgent

/-- The address of the loaded code, and its sector at package 0. -/
def loadVa : Nat := 0x10000
def loadKey : SectorKey := { home := 0, asid := 1, sec := 0x400 }

/-- One executable, readable and writable region over the whole address space (R144). -/
def loadBound : Bound :=
  { base := 0, limit := 2 ^ 56 - 1, rd := true, wr := true, ex := true, at_ := true, space := 0, v := true }

/-- The context that the load creates: one region, one placement entry on stack 0, incarnation 1. -/
def loadCtx : Ctx :=
  { fn := 1, inc := 1, bounds := [(1, loadBound)],
    places := [(0, { v := true, interleaved := false, stack := 0, start := 0, stop := 2 ^ 40 - 1 })], root := 0,
    schedKiB := 1024, save := 0, pool := 0, poolKiB := 0, trapPc := 0, trapEn := 0, menc := false, pkgs := 1, scopes := [],
    weight := 4096, dThr := 230, tThr := 64, error := false, killed := false, haltedSince := none, sched := [],
    parkedKiB := 0, lastService := 0, bp := [], stops := [] }

def loadDesc : Desc :=
  { entry := BitVec.ofNat 64 (2 ^ 56 + loadVa), groups := 1, cluster := 1, acc := 0, copy := false, matrix := false,
    regs := 128, fault := 0, fair := 0, scratch := 64, dieres := false, unchecked := false, fused := false, caps := 0,
    quotaKiB := 0 }

def loadNode : Node :=
  { kind := .launch, lid := 1, nid := 0, asid := 1, inc := 1, q := 0, ord := 0, label := 0, tag := 0, report := 0, prio := 0,
    conc := false, desc := loadDesc, nx := 1, ny := 1, nz := 1, args := [], waitsFor := [], edges := [], tileOf := [], done := [],
    started := [0], status := none, cancelled := false, rsum := 0, rcnt := 0, graph := 0, phase := 0, job := 0, ccb := [],
    die := 0, seq := 0, drains := [] }

def loadCluster : Cluster :=
  { node := 0, index := 0, die := 0, blocks := [0], relaunches := 0, discards := 0, bars := [], ver := none,
    ckpt := none, arrived := [], committing := none, endCommit := false, discardAfter := none, decided := 0, parkTest := 0,
    ready := false }

def loadBlock : Block :=
  { node := 0, lid := 1, idx := 0, cluster := 0, rank := 0, core := 0, state := .resident, age := 0, r := 0, scratch := [],
    full := [], kregs := [], rings := [], bars := [], tiles := [], tileCore := none, swapped := [], stream := [], held := [], uid := 0 }

/-- All 32 lanes live at the loaded code, every register 0. -/
def loadGroup : Group :=
  { blk := 0, gidx := 0, core := 0, slot := 0,
    lanes := List.replicate 32 { pc := BitVec.ofNat 56 loadVa, live := true, fill := .word 0, v := [], p := 0, ff := 0 },
    fair := { len := 0, cnt := 0, slice := false, set := 0, n := 0 }, handler := none, holds := [], pend := [],
    deferred := [], halted := false, haltedAt := 0, skipBp := false, step := none, retries := 0, readySince := 0,
    window := 0 }

/-- The L2 sector that holds the code, with all 64 tokens at die 0. -/
def loadSec (code : Nat) : L2Sec :=
  { cnt := 64, own := true, ser := 0, dv := true, dirty := true, wr := true, psn := false, pa := 0, data := BitVec.ofNat 512 code }

/-- The instruction whose bits are w stands at the PC of a group of package 0 whose turn is next: the state that the
host's loading of a program leaves (log 4, DESIGN CHOICE). -/
def State.withFetchWord (s : State) (nbits w : Nat) : State :=
  let load := fun (k : Pkg) => { k with
    ctxs := tset k.ctxs 1 loadCtx, nodes := tset k.nodes 0 loadNode, clusters := tset k.clusters 0 loadCluster,
    blocks := tset k.blocks 0 loadBlock, groups := tset k.groups 0 loadGroup,
    dies := tset k.dies 0 { k.die 0 with l2 := tset (k.die 0).l2 loadKey (loadSec (w % 2 ^ nbits)) },
    home := tset k.home 0 { mts := 0, ser := 0, psn := false, cnt := 0, name := loadKey } }
  { s.updPkg 0 load with agenda := .issue 0 0 :: s.agenda }

end Sys2Proof.Machine
end

