-- ==== Sys2Proof/Safety.lean ====
section
/-! DEFINITION. Safety.lean: what counts as a safe run, and the words that statements about one issue use: an issue that
stands, and a state in which it has retired. -/

namespace Sys2Proof.Machine

/-- A state from which the next step does not stop. -/
def Runs (s : State) : Prop := ∃ t, step s = .next t

/-- Every state of n steps from s runs. -/
def SafeFor : Nat → State → Prop
  | 0, _ => True
  | n + 1, s => ∃ t, step s = .next t ∧ SafeFor n t

/-- The issue i is in progress under the guard gd with some lane in exec, and every check that comes before an
instruction's own traps lets it through (R95, R162, R241): the registers rs that it names lie below .regs and none waits
for data. No soft error stands (R258, R262), and no debugger steps the group (R279). -/
structure Iss.Stands (i : Iss) (gd : Guard) (rs : List Nat) (s : State) : Prop where
  cur : s.cur = .issue i.loc.p i.loc.g i.addr i.sel i.words
  here : s.loc i.loc.p i.loc.g = some i.loc
  ex : i.ex = i.loc.grp.exec i.sel gd
  lanes : i.ex ≠ 0
  inRange : ∀ r ∈ rs, r < i.loc.node.desc.regs
  settled : ∀ r ∈ rs, i.loc.grp.isPending r = false
  clean : s.strikes = []
  sound : s.laneFaults = []
  unstepped : i.loc.grp.step = none

/-- The group gt is the group g0 after the issue i: the lanes of dst are changed by new, then the PC of every selected lane
that is live is pc of it; the wait at this address has ended, and what belongs to the rest of the group stands. -/
structure Iss.Ended (i : Iss) (g0 gt : Group) (dst : Mask) (new : Nat → Lane → Lane) (pc : Nat → Addr) : Prop where
  lane : ∀ n < 32, gt.lane n =
    (let x := if bit dst n then new n (g0.lane n) else g0.lane n
     if bit i.sel n && x.live then x.setPc (pc n) else x)
  holds : gt.holds = g0.holds.filter (fun h => h.addr != i.addr)
  pend : gt.pend = g0.pend
  deferred : gt.deferred = g0.deferred
  place : (gt.blk, gt.gidx, gt.core, gt.slot) = (g0.blk, g0.gidx, g0.core, g0.slot)
  halted : (gt.halted, gt.haltedAt, gt.step) = (g0.halted, g0.haltedAt, g0.step)
  handler : gt.handler = g0.handler ∨ gt.handler = none

/-- t is s' but for the group that issues, in which i has retired, and the count r of its block (R64). -/
def Iss.Retires (i : Iss) (s' t : State) (dst : Mask) (new : Nat → Lane → Lane) (pc : Nat → Addr) : Prop :=
  ∃ g0 gt, s'.group? i.loc.p i.loc.g = some g0 ∧ i.Ended g0 gt dst new pc ∧
    t = (s'.updGroup i.loc.p i.loc.g (fun _ => gt)).updBlock i.loc.p i.loc.grp.blk (fun b => { b with r := b.r + 1 })

/-- The PC after an instruction that does not branch (R75). -/
def Iss.nextAddr (i : Iss) : Nat → Addr := fun _ => nextPc i.addr i.words

/-- exec of x ends as i.Retires says, with s' and t found in the next state. -/
def Iss.Does (i : Iss) (x : Instr) (s s' : State) (dst : Mask) (new : Nat → Lane → Lane) (pc : Nat → Addr) : Prop :=
  ∃ t, exec x s = .next t ∧ i.Retires s' t dst new pc

/-- exec of x writes registers, predicates or flags of the lanes dst and nothing else. -/
def Iss.Writes (i : Iss) (x : Instr) (s : State) (dst : Mask) (new : Nat → Lane → Lane) : Prop :=
  i.Does x s s dst new i.nextAddr

/-- exec of x retires the issue: every selected live lane goes on behind it, no lane else moves, and no wait stands there. -/
def Iss.Completes (i : Iss) (x : Instr) (s : State) : Prop :=
  ∃ t gt, exec x s = .next t ∧ t.group? i.loc.p i.loc.g = some gt ∧ (∀ h ∈ gt.holds, h.addr ≠ i.addr) ∧
    ∀ n < 32, (gt.lane n).live = (i.loc.grp.lane n).live ∧
      (gt.lane n).pc = if bit i.sel n && (i.loc.grp.lane n).live then nextPc i.addr i.words else (i.loc.grp.lane n).pc

end Sys2Proof.Machine
end

