-- ==== Sys2Proof/Certificates/Slice0/Obligations.lean ====
section
/-! DEFINITION. Certificates/Slice0/Obligations.lean: the statements for the provers. A statement about one issue says, in
the words of Safety.lean, the next state that exec answers for every state and operands in which the issue stands. -/

namespace Sys2Proof.Claim

open Sys2Proof Sys2Proof.Machine

/-! ### Words of the statements about lane instructions -/

/-- A register read signed or unsigned, as the f field says (R80). -/
def asInt {w : Nat} (f : IntF) (x : BitVec w) : Int :=
  match f with
  | .wrapS | .satS => x.toInt
  | .wrapU | .satU => x.toNat

/-- fin of R351, at w bits. -/
def fin (w : Nat) (f : IntF) (x : Int) : BitVec w :=
  match f with
  | .wrapS | .wrapU => BitVec.ofInt w x
  | .satS => BitVec.ofInt w (max (-2 ^ (w - 1)) (min x (2 ^ (w - 1) - 1)))
  | .satU => BitVec.ofInt w (max 0 (min x (2 ^ w - 1)))

/-- The f field of an instruction that only chooses signed or unsigned. -/
def sgn (uns : Bool) : IntF := if uns then .wrapU else .wrapS

/-- The lane from which lane n of a uniform or plain form takes its sources (R79). -/
def src (i : Iss) (u : Bool) (n : Nat) : Nat := if u then i.leader else n

/-- The lanes that a uniform or plain form writes (R79). -/
def dst (i : Iss) (u : Bool) : Mask := if u then allLanes else i.ex

/-- The registers of a field, and of a field that names a pair. -/
def r1 (r : Reg) : List Nat := [r.toNat]
def r2 (r : Reg) : List Nat := [r.toNat, r.toNat + 1]
def rw (w64 : Bool) (r : Reg) : List Nat := if w64 then r2 r else r1 r

/-- V[n][r] and X[n][r] of the issuing group. -/
def V (i : Iss) (n : Nat) (r : Reg) : Word := i.g.v n r.toNat
def X (i : Iss) (n : Nat) (r : Reg) : DWord := i.g.x n r.toNat
def P (i : Iss) (n : Nat) (p : BitVec 3) : Bool := i.g.p n p.toNat

end Sys2Proof.Claim

open Sys2Proof Sys2Proof.Machine Sys2Proof.Claim

/-! ## Registers -/

/-- What a register, predicate or pair reads after a write in the lanes m (R10, R69, R70): v0, x0 and p7 keep their
values, a pair is two registers, and nothing else of the group changes. -/
def Obligations.RegisterWritesReadBack : Prop :=
  ∀ (g : Group) (m : Mask) (n : Nat), n < 32 →
    (∀ (d r : Nat) (w : Nat → Word),
      (g.onLanes m (fun k l => l.setV d (w k))).v n r = if bit m n ∧ r = d ∧ d ≠ 0 then w n else g.v n r) ∧
    (∀ (d r : Nat) (w : Nat → DWord), d % 2 = 0 →
      (g.onLanes m (fun k l => l.setX d (w k))).v n r =
        if bit m n ∧ r = d ∧ d ≠ 0 then (w n).extractLsb' 0 32
        else if bit m n ∧ r = d + 1 ∧ d ≠ 0 then (w n).extractLsb' 32 32 else g.v n r) ∧
    (∀ (d r : Nat) (b : Nat → Bool), d < 8 → r < 8 →
      (g.onLanes m (fun k l => l.setP d (b k))).p n r = if bit m n ∧ r = d ∧ d ≠ 7 then b n else g.p n r) ∧
    (∀ (d r : Nat) (w : Nat → Word), (g.onLanes m (fun k l => l.setV d (w k))).p n r = g.p n r) ∧
    (∀ (d r : Nat) (b : Nat → Bool), (g.onLanes m (fun k l => l.setP d (b k))).v n r = g.v n r) ∧
    (∀ r : Nat, g.v n 0 = 0 ∧ g.x n 0 = 0 ∧ g.p n 7 = true ∧ (r ≠ 0 → g.x n r = g.v n (r + 1) ++ g.v n r))

/-! ## Lane instructions: results, completion and frame -/

/-- Integer arithmetic (R350 to R355): each lane of exec, or all 32 from the leader in a uniform form, receives fin of the
exact result; nothing else changes. -/
def Obligations.IntegerArithmeticResults : Prop :=
  ∀ (i : Iss) (s : State),
    (∀ u d a b f, i.Stands Guard.always (r1 d ++ r1 a ++ r1 b) s →
      i.Writes (.iadd u d a b f) s (dst i u) (fun n l =>
        l.setV d.toNat (fin 32 f (asInt f (V i (src i u n) a) + asInt f (V i (src i u n) b)))) ∧
      i.Writes (.isub u d a b f) s (dst i u) (fun n l =>
        l.setV d.toNat (fin 32 f (asInt f (V i (src i u n) a) - asInt f (V i (src i u n) b)))) ∧
      i.Writes (.imul u d a b f) s (dst i u) (fun n l =>
        l.setV d.toNat (fin 32 f (asInt f (V i (src i u n) a) * asInt f (V i (src i u n) b))))) ∧
    (∀ u d a b uns, i.Stands Guard.always (r1 d ++ r1 a ++ r1 b) s →
      i.Writes (.imin u d a b uns) s (dst i u) (fun n l =>
        l.setV d.toNat (fin 32 (sgn uns) (min (asInt (sgn uns) (V i (src i u n) a)) (asInt (sgn uns) (V i (src i u n) b))))) ∧
      i.Writes (.imax u d a b uns) s (dst i u) (fun n l =>
        l.setV d.toNat (fin 32 (sgn uns) (max (asInt (sgn uns) (V i (src i u n) a)) (asInt (sgn uns) (V i (src i u n) b))))) ∧
      i.Writes (.imulh d a b uns) s i.ex (fun n l =>
        l.setV d.toNat (fin 32 (sgn uns) (Int.fdiv (asInt (sgn uns) (V i n a) * asInt (sgn uns) (V i n b)) (2 ^ 32))))) ∧
    (∀ d a sat, i.Stands Guard.always (r1 d ++ r1 a) s →
      i.Writes (.iabs d a sat) s i.ex (fun n l => l.setV d.toNat (fin 32 (if sat then .satS else .wrapS) |(V i n a).toInt|))) ∧
    (∀ u d a imm, i.Stands Guard.always (r1 d ++ r1 a) s →
      i.Writes (.iaddi u d a imm) s (dst i u) (fun n l => l.setV d.toNat (V i (src i u n) a + imm.signExtend 32))) ∧
    (∀ u d a b f, i.Stands Guard.always (r2 d ++ r2 a ++ r2 b) s →
      i.Writes (.iadd64 u d a b f) s (dst i u) (fun n l =>
        l.setX d.toNat (fin 64 f (asInt f (X i (src i u n) a) + asInt f (X i (src i u n) b)))) ∧
      i.Writes (.isub64 u d a b f) s (dst i u) (fun n l =>
        l.setX d.toNat (fin 64 f (asInt f (X i (src i u n) a) - asInt f (X i (src i u n) b))))) ∧
    (∀ gd d a b ci co, i.Stands gd (r1 d ++ r1 a ++ r1 b) s →
      i.Writes (.iaddc gd d a b ci co) s i.ex (fun n l =>
        (l.setV d.toNat (V i n a + V i n b + if P i n ci then 1 else 0)).setP co.toNat
          (decide (2 ^ 32 ≤ (V i n a).toNat + (V i n b).toNat + if P i n ci then 1 else 0)))) ∧
    (∀ gd d a b c f, i.Stands gd (r1 d ++ r1 a ++ r1 b ++ r1 c) s →
      i.Writes (.imad gd d a b c f false) s i.ex (fun n l =>
        l.setV d.toNat (fin 32 f (asInt f (V i n a) * asInt f (V i n b) + asInt f (V i n c))))) ∧
    (∀ gd d a b c f, i.Stands gd (r2 d ++ r1 a ++ r1 b ++ r2 c) s →
      i.Writes (.imad gd d a b c f true) s i.ex (fun n l =>
        l.setX d.toNat (BitVec.ofInt 64 (asInt f (V i n a) * asInt f (V i n b)) + X i n c)))

/-- The position and width of a bit field (R312). -/
def Sys2Proof.Claim.field (p l : Nat) : Nat × Nat :=
  let p' := min p 32
  (p', min (p' + l) 32 - p')

/-- The position and length of BFE and BFI in lane n (R312). -/
def Sys2Proof.Claim.fieldOf (i : Iss) (n : Nat) : BfSrc → Nat × Nat
  | .reg b => field ((V i n b).toNat % 256) ((V i n b).toNat / 256 % 256)
  | .imm pos len1 => field pos.toNat (len1.toNat + 1)

def Sys2Proof.Claim.fieldRegs : BfSrc → List Nat
  | .reg b => r1 b
  | .imm _ _ => []

/-- BFE and BFI (R312), bit by bit: BFE gives bit k of the field, its sign above the field with .sx, else 0; BFI gives a's
low bits within the field and c outside it. -/
def Obligations.BitFieldResults : Prop :=
  ∀ (i : Iss) (s : State) (u : Bool) (gd : Guard) (d a c : Reg) (fs : BfSrc) (sx : Bool),
    (i.Stands gd (r1 d ++ r1 a ++ fieldRegs fs) s →
      ∃ w : Nat → Word, i.Writes (.bfe u gd d a fs sx) s (dst i u) (fun n l => l.setV d.toNat (w n)) ∧
        ∀ n k, k < 32 →
          let f := fieldOf i (src i u n) fs
          bit (w n) k = if f.2 = 0 then false else if k < f.2 then bit (V i (src i u n) a) (f.1 + k)
            else sx && bit (V i (src i u n) a) (f.1 + f.2 - 1)) ∧
    (i.Stands gd (r1 d ++ r1 a ++ r1 c ++ fieldRegs fs) s →
      ∃ w : Nat → Word, i.Writes (.bfi u gd d a c fs) s (dst i u) (fun n l => l.setV d.toNat (w n)) ∧
        ∀ n k, k < 32 →
          let f := fieldOf i (src i u n) fs
          bit (w n) k = if f.1 ≤ k ∧ k < f.1 + f.2 then bit (V i (src i u n) a) (k - f.1) else bit (V i (src i u n) c) k)

/-- A shift amount in wrap and clamp mode (R80). -/
def Sys2Proof.Claim.amount (clamp : Bool) (b : Word) : Nat := if clamp then min b.toNat 32 else b.toNat % 32

/-- Logic, shifts and counts (R303, R347, R367, R379, R396, R410), bit by bit where the rules say so. -/
def Sys2Proof.Claim.LogicAndShiftResults : Prop :=
  ∀ (i : Iss) (s : State),
    (∀ u d a b, i.Stands Guard.always (r1 d ++ r1 a ++ r1 b) s →
      i.Writes (.and u d a b) s (dst i u) (fun n l => l.setV d.toNat (V i (src i u n) a &&& V i (src i u n) b)) ∧
      i.Writes (.or u d a b) s (dst i u) (fun n l => l.setV d.toNat (V i (src i u n) a ||| V i (src i u n) b)) ∧
      i.Writes (.xor u d a b) s (dst i u) (fun n l => l.setV d.toNat (V i (src i u n) a ^^^ V i (src i u n) b)) ∧
      (∀ clamp, i.Writes (.shl u d a b clamp) s (dst i u) (fun n l =>
        l.setV d.toNat (V i (src i u n) a <<< amount clamp (V i (src i u n) b))) ∧
        i.Writes (.shr u d a b false clamp) s (dst i u) (fun n l =>
          l.setV d.toNat (V i (src i u n) a >>> amount clamp (V i (src i u n) b))) ∧
        i.Writes (.shr u d a b true clamp) s (dst i u) (fun n l =>
          l.setV d.toNat ((V i (src i u n) a).sshiftRight (amount clamp (V i (src i u n) b)))))) ∧
    (∀ u d a (k : BitVec 5), i.Stands Guard.always (r1 d ++ r1 a) s →
      i.Writes (.shi u d a false false k) s (dst i u) (fun n l => l.setV d.toNat (V i (src i u n) a <<< k.toNat)) ∧
      i.Writes (.shi u d a true false k) s (dst i u) (fun n l => l.setV d.toNat (V i (src i u n) a >>> k.toNat)) ∧
      i.Writes (.shi u d a true true k) s (dst i u) (fun n l =>
        l.setV d.toNat ((V i (src i u n) a).sshiftRight k.toNat))) ∧
    (∀ gd d a b c right clamp, i.Stands gd (r1 d ++ r1 a ++ r1 b ++ r1 c) s →
      i.Writes (.fshf gd d a b c right clamp) s i.ex (fun n l =>
        let w := V i n b ++ V i n a
        let k := amount clamp (V i n c)
        l.setV d.toNat (if right then (w >>> k).extractLsb' 0 32 else (w <<< k).extractLsb' 32 32))) ∧
    (∀ u gd d a b c tt, i.Stands gd (r1 d ++ r1 a ++ r1 b ++ r1 c) s →
      ∃ w : Nat → Word, i.Writes (.logt u gd d a b c tt) s (dst i u) (fun n l => l.setV d.toNat (w n)) ∧
        ∀ n k, k < 32 → bit (w n) k = bit tt ((bit (V i (src i u n) a) k).toNat + 2 * (bit (V i (src i u n) b) k).toNat +
          4 * (bit (V i (src i u n) c) k).toNat)) ∧
    (∀ d a, i.Stands Guard.always (r1 d ++ r1 a) s →
      (∃ w : Nat → Word, i.Writes (.brev d a) s i.ex (fun n l => l.setV d.toNat (w n)) ∧
        ∀ n k, k < 32 → bit (w n) k = bit (V i n a) (31 - k)) ∧
      i.Writes (.popc d a) s i.ex (fun n l =>
        l.setV d.toNat (BitVec.ofNat 32 ((List.range 32).countP (fun k => bit (V i n a) k)))) ∧
      (∃ w : Nat → Word, i.Writes (.clz d a) s i.ex (fun n l => l.setV d.toNat (w n)) ∧
        ∀ n, (w n).toNat ≤ 32 ∧ (∀ k, 32 - (w n).toNat ≤ k → k < 32 → bit (V i n a) k = false) ∧
          ((w n).toNat < 32 → bit (V i n a) (31 - (w n).toNat) = true)))

/-- A comparison of two integers (R86, R356). -/
def Sys2Proof.Claim.holds (c : Cond) (x y : Int) : Bool :=
  match c with
  | .eq => decide (x = y)
  | .ne => decide (x ≠ y)
  | .lt => decide (x < y)
  | .le => decide (x ≤ y)
  | .gt => decide (y < x)
  | .ge => decide (y ≤ x)

/-- r op P[pc] of a comparison (R86). -/
def Sys2Proof.Claim.comb (op : Comb) (r p : Bool) : Bool :=
  match op with
  | .none => r
  | .and => r && p
  | .or => r || p
  | .xor => r ^^ p

/-- Moves, integer comparisons and predicate operations (R86, R356, R376, R383, R384, R394, R409): results, completion and
frame. -/
def Sys2Proof.Claim.MoveCompareResults : Prop :=
  ∀ (i : Iss) (s : State),
    (∀ u d a, i.Stands Guard.always (r1 d ++ r1 a) s →
      i.Writes (.mov u d a false) s (dst i u) (fun n l => l.setV d.toNat (V i (src i u n) a))) ∧
    (∀ u d a, i.Stands Guard.always (r2 d ++ r2 a) s →
      i.Writes (.mov u d a true) s (dst i u) (fun n l => l.setX d.toNat (X i (src i u n) a))) ∧
    (∀ u d (imm : BitVec 16), i.Stands Guard.always (r1 d) s →
      i.Writes (.movi u d imm) s (dst i u) (fun _ l => l.setV d.toNat (imm.signExtend 32)) ∧
      i.Writes (.movh u d imm) s (dst i u) (fun n l => l.setV d.toNat (imm ++ (V i (src i u n) d).extractLsb' 0 16))) ∧
    (∀ u gd d a b sp neg, i.Stands gd (r1 d ++ r1 a ++ r1 b) s →
      i.Writes (.sel u gd d a b false sp neg) s (dst i u) (fun n l =>
        l.setV d.toNat (if P i (src i u n) sp ^^ neg then V i (src i u n) a else V i (src i u n) b))) ∧
    (∀ u gd d a b sp neg, i.Stands gd (r2 d ++ r2 a ++ r2 b) s →
      i.Writes (.sel u gd d a b true sp neg) s (dst i u) (fun n l =>
        l.setX d.toNat (if P i (src i u n) sp ^^ neg then X i (src i u n) a else X i (src i u n) b))) ∧
    (∀ u gd d a b c uns pc op, i.Stands gd (r1 a ++ r1 b) s →
      i.Writes (.icmp u gd d a b c uns false pc op) s (dst i u) (fun n l =>
        let m := src i u n
        l.setP d.toNat (comb op (holds c (asInt (sgn uns) (V i m a)) (asInt (sgn uns) (V i m b))) (P i m pc)))) ∧
    (∀ u gd d a b c uns pc op, i.Stands gd (r2 a ++ r2 b) s →
      i.Writes (.icmp u gd d a b c uns true pc op) s (dst i u) (fun n l =>
        let m := src i u n
        l.setP d.toNat (comb op (holds c (asInt (sgn uns) (X i m a)) (asInt (sgn uns) (X i m b))) (P i m pc)))) ∧
    (∀ gd d a b c (tt : BitVec 8), i.Stands gd [] s →
      i.Writes (.plgt gd d a b c tt) s i.ex (fun n l =>
        l.setP d.toNat (bit tt ((P i n a).toNat + 2 * (P i n b).toNat + 4 * (P i n c).toNat)))) ∧
    (∀ d a, i.Stands Guard.always (r1 d) s →
      i.Writes (.ptov d a false) s i.ex (fun n l => l.setV d.toNat (if P i n a then 1 else 0)) ∧
      ∃ w : Word, i.Writes (.ptov d a true) s i.ex (fun _ l => l.setV d.toNat w) ∧
        ∀ k < 32, bit w k = (bit i.ex k && P i k a)) ∧
    (∀ d a, i.Stands Guard.always (r1 a) s →
      i.Writes (.vtop d a false) s i.ex (fun n l => l.setP d.toNat (decide (V i n a ≠ 0))) ∧
      i.Writes (.vtop d a true) s i.ex (fun n l => l.setP d.toNat (bit (V i i.leader a) n)))

/-- Logic, shifts, counts, moves and compares: result, completion and frame. -/
def Obligations.LogicAndMoveResults : Prop := Claim.LogicAndShiftResults ∧ Claim.MoveCompareResults

/-- A floating-point result with the flags it adds, in a register and in a pair (R73). -/
def Sys2Proof.Claim.setF (l : Lane) (d : Reg) (r : Nat × BitVec 5) : Lane := (l.setV d.toNat (BitVec.ofNat 32 r.1)).orFf r.2
def Sys2Proof.Claim.setD (l : Lane) (d : Reg) (r : Nat × BitVec 5) : Lane := (l.setX d.toNat (BitVec.ofNat 64 r.1)).orFf r.2

/-- FP32 arithmetic and FCMP (R110, R334 to R337, R345, R346): the result of the format's operation on each lane's operands,
its flags added to s.fflags, and nothing else. -/
def Sys2Proof.Claim.SinglePrecisionResults : Prop :=
  ∀ (i : Iss) (s : State),
    (∀ d a b r, i.Stands Guard.always (r1 d ++ r1 a ++ r1 b) s →
      i.Writes (.fadd d a b r) s i.ex (fun n l => setF l d (fpAdd f32 r (V i n a).toNat (V i n b).toNat)) ∧
      i.Writes (.fmul d a b r) s i.ex (fun n l => setF l d (fpMul f32 r (V i n a).toNat (V i n b).toNat)) ∧
      i.Writes (.fmin d a b) s i.ex (fun n l => setF l d (fpMinMax f32 false (V i n a).toNat (V i n b).toNat)) ∧
      i.Writes (.fmax d a b) s i.ex (fun n l => setF l d (fpMinMax f32 true (V i n a).toNat (V i n b).toNat))) ∧
    (∀ gd d a b c r, i.Stands gd (r1 d ++ r1 a ++ r1 b ++ r1 c) s →
      i.Writes (.ffma gd d a b c r) s i.ex (fun n l => setF l d (fpFma f32 r (V i n a).toNat (V i n b).toNat (V i n c).toNat))) ∧
    (∀ d a r, i.Stands Guard.always (r1 d ++ r1 a) s →
      i.Writes (.frnd d a r) s i.ex (fun n l => setF l d (fpRoundInt r (V i n a).toNat))) ∧
    (∀ gd d a b c pc op, i.Stands gd (r1 a ++ r1 b) s →
      i.Writes (.fcmp gd d a b c pc op false) s i.ex (fun n l =>
        let r := fcondOf c (f32.decode (V i n a).toNat) (f32.decode (V i n b).toNat)
        (l.setP d.toNat (comb op r.1 (P i n pc))).orFf r.2)) ∧
    (∀ gd d a b c pc op, i.Stands gd (r2 a ++ r2 b) s → Config.hasF64 s.part = true →
      i.Writes (.fcmp gd d a b c pc op true) s i.ex (fun n l =>
        let r := fcondOf c (f64.decode (X i n a).toNat) (f64.decode (X i n b).toNat)
        (l.setP d.toNat (comb op r.1 (P i n pc))).orFf r.2))

/-- The special-function unit (R118, R338, R339), for a vector-role group: round(f(x), f32, mode) with its flags. -/
def Sys2Proof.Claim.SpecialFunctionResults : Prop :=
  ∀ (i : Iss) (s : State), i.loc.role = 0 →
    (∀ gd d a b r, i.Stands gd (r1 d ++ r1 a ++ r1 b) s →
      i.Writes (.fdiv gd d a b r) s i.ex (fun n l => setF l d (fpDiv f32 r (V i n a).toNat (V i n b).toNat))) ∧
    (∀ d a r, i.Stands Guard.always (r1 d ++ r1 a) s →
      i.Writes (.frcp d a) s i.ex (fun n l => setF l d (sfu .rcp .rn (V i n a).toNat)) ∧
      i.Writes (.frsq d a) s i.ex (fun n l => setF l d (sfu .rsq .rn (V i n a).toNat)) ∧
      i.Writes (.fsqt d a r) s i.ex (fun n l => setF l d (sfu .sqt r (V i n a).toNat)) ∧
      i.Writes (.fex2 d a) s i.ex (fun n l => setF l d (sfu .ex2 .rn (V i n a).toNat)) ∧
      i.Writes (.flg2 d a) s i.ex (fun n l => setF l d (sfu .lg2 .rn (V i n a).toNat)) ∧
      i.Writes (.fsin d a) s i.ex (fun n l => setF l d (sfu .sin .rn (V i n a).toNat)) ∧
      i.Writes (.fcos d a) s i.ex (fun n l => setF l d (sfu .cos .rn (V i n a).toNat)) ∧
      i.Writes (.ftnh d a) s i.ex (fun n l => setF l d (sfu .tnh .rn (V i n a).toNat)))

/-- Element e of a pair of 16-bit elements (R108, R348). -/
def Sys2Proof.Claim.el (x : Word) (e : Nat) : Nat := (x.extractLsb' (16 * e) 16).toNat

/-- HPADD, HPMUL, HPFMA and HPMNX (R349): each element by itself, one rounding each, V[i][d] := r[1] · 2^16 + r[0], and the
union of the two elements' flags. -/
def Sys2Proof.Claim.HalfPrecisionResults : Prop :=
  ∀ (i : Iss) (s : State),
    let both := fun (f : Nat → Nat × BitVec 5) => ((f 1).1 * 2 ^ 16 + (f 0).1, (f 0).2 ||| (f 1).2)
    (∀ d a b r mx bf, i.Stands Guard.always (r1 d ++ r1 a ++ r1 b) s →
      i.Writes (.hpadd d a b r) s i.ex (fun n l => setF l d (both (fun e => fpAdd f16 r (el (V i n a) e) (el (V i n b) e)))) ∧
      i.Writes (.hpmul d a b r) s i.ex (fun n l => setF l d (both (fun e => fpMul f16 r (el (V i n a) e) (el (V i n b) e)))) ∧
      i.Writes (.hpmnx d a b mx bf) s i.ex (fun n l =>
        setF l d (both (fun e => fpMinMax (if bf then bf16 else f16) mx (el (V i n a) e) (el (V i n b) e))))) ∧
    (∀ gd d a b c r bf, i.Stands gd (r1 d ++ r1 a ++ r1 b ++ r1 c) s →
      i.Writes (.hpfma gd d a b c r bf) s i.ex (fun n l =>
        setF l d (both (fun e => fpFma (if bf then bf16 else f16) r (el (V i n a) e) (el (V i n b) e) (el (V i n c) e)))))

/-- FP64 (R324, R325): results where the part has the unit.
NV of a 0 times infinity product in DFMA is the model's reading (log 24). -/
def Sys2Proof.Claim.DoublePrecisionResults : Prop :=
  ∀ (i : Iss) (s : State), Config.hasF64 s.part = true →
    (∀ d a b r mx, i.Stands Guard.always (r2 d ++ r2 a ++ r2 b) s →
      i.Writes (.dadd d a b r) s i.ex (fun n l => setD l d (fpAdd f64 r (X i n a).toNat (X i n b).toNat)) ∧
      i.Writes (.dmul d a b r) s i.ex (fun n l => setD l d (fpMul f64 r (X i n a).toNat (X i n b).toNat)) ∧
      i.Writes (.dmnx d a b mx) s i.ex (fun n l => setD l d (fpMinMax f64 mx (X i n a).toNat (X i n b).toNat))) ∧
    (∀ gd d a b c r, i.Stands gd (r2 d ++ r2 a ++ r2 b ++ r2 c) s →
      i.Writes (.dfma gd d a b c r) s i.ex (fun n l =>
        setD l d (fpFma f64 r (X i n a).toNat (X i n b).toNat (X i n c).toNat)))

/-- The state in which an issue takes its own trap: no mismatch counts against the next instruction, and the group meets breakpoints
again (R259, R275). -/
def Sys2Proof.Claim.begun (i : Iss) (s : State) : State :=
  s.updGroup i.loc.p i.loc.g (fun g => { g with retries := 0, skipBp := false })

/-- On a part without the FP64 unit, DADD, DMUL, DFMA and DMNX take cause 0x02 at their own address with the selected lanes,
whatever their operands hold; the one operation that takes it is takeTrap (R5). -/
def Sys2Proof.Claim.AbsentUnitTraps : Prop :=
  ∀ (i : Iss) (s : State), Config.hasF64 s.part = false →
    (∀ d a b r mx, i.Stands Guard.always (r2 d ++ r2 a ++ r2 b) s →
      exec (.dadd d a b r) s = .next ((begun i s).takeTrap i.loc i.sel 0x02 i.addr 0 i.leader 0) ∧
      exec (.dmul d a b r) s = .next ((begun i s).takeTrap i.loc i.sel 0x02 i.addr 0 i.leader 0) ∧
      exec (.dmnx d a b mx) s = .next ((begun i s).takeTrap i.loc i.sel 0x02 i.addr 0 i.leader 0)) ∧
    (∀ gd d a b c r, i.Stands gd (r2 d ++ r2 a ++ r2 b ++ r2 c) s →
      exec (.dfma gd d a b c r) s = .next ((begun i s).takeTrap i.loc i.sel 0x02 i.addr 0 i.leader 0))

/-- Single, half and double precision and special functions: result, completion and frame; and the traps of a part without the FP64
unit. -/
def Obligations.FloatResults : Prop :=
  Claim.SinglePrecisionResults ∧ Claim.SpecialFunctionResults ∧ Claim.HalfPrecisionResults ∧ Claim.DoublePrecisionResults ∧
    Claim.AbsentUnitTraps

/-- Bytes of a type as an operand names them: a register, or a pair for 64 bits. -/
def Sys2Proof.Claim.val (i : Iss) (n : Nat) (w64 : Bool) (r : Reg) : Nat := if w64 then (X i n r).toNat else (V i n r).toNat
def Sys2Proof.Claim.setW (l : Lane) (w64 : Bool) (d : Reg) (r : Nat × BitVec 5) : Lane := if w64 then setD l d r else setF l d r

/-- Field k of w bits of a word. -/
def Sys2Proof.Claim.part (x : Word) (w k : Nat) : Nat := x.toNat / 2 ^ (w * k) % 2 ^ w

/-- Conversions and dot products (R112 to R120, R323, R357, R380, R393, R407): results, completion and frame. -/
def Obligations.ConversionResults : Prop :=
  ∀ (i : Iss) (s : State),
    (∀ gd d a dt sty r nosat, i.Stands gd (rw (dt.width == 64) d ++ rw (sty.width == 64) a) s →
      (dt = .f64 ∨ sty = .f64 → Config.hasF64 s.part = true) →
      i.Writes (.cvt gd d a dt sty r nosat) s i.ex (fun n l =>
        setW l (dt.width == 64) d (convert dt sty r nosat (val i n (sty.width == 64) a)))) ∧
    (∀ gd d a b c dt sty r nosat (j : BitVec 2), i.Stands gd (r1 d ++ r1 a ++ r1 b ++ r1 c) s →
      packOk dt sty j.toNat = true →
      ∃ w : Nat → Word, i.Writes (.pack gd d a b c dt sty r nosat j) s i.ex (fun n l => (l.setV d.toNat (w n)).orFf
          ((convert dt sty r nosat (V i n a).toNat).2 ||| (convert dt sty r nosat (V i n b).toNat).2)) ∧
        ∀ n, part (w n) dt.width (2 * j.toNat) = (convert dt sty r nosat (V i n a).toNat).1 % 2 ^ dt.width ∧
          part (w n) dt.width (2 * j.toNat + 1) = (convert dt sty r nosat (V i n b).toNat).1 % 2 ^ dt.width ∧
          ∀ k, k ≠ 2 * j.toNat → k ≠ 2 * j.toNat + 1 → part (w n) dt.width k = part (V i n c) dt.width k) ∧
    (∀ gd d a (k : BitVec 3) sty dt, i.Stands gd (r1 d ++ r1 a) s →
      i.Writes (.unpk gd d a k sty dt) s i.ex (fun n l =>
        let r := convert dt sty .rn false (part (V i n a) sty.width k.toNat)
        setF l d (r.1, r.2 &&& ffNv))) ∧
    (∀ gd d a et, i.Stands gd (r1 d ++ r1 a) s →
      i.Writes (.scex gd d a et) s i.ex (fun n l => l.setV d.toNat (BitVec.ofNat 32 (scaleCode et (V i n a).toNat)))) ∧
    (∀ gd d a b c i4 au bu sat, i.Stands gd (r1 d ++ r1 a ++ r1 b ++ r1 c) s →
      i.Writes (.idot gd d a b c i4 au bu sat) s i.ex (fun n l =>
        let w := if i4 then 4 else 8
        let e := fun (u : Bool) (x : Word) (k : Nat) => if u then (part x w k : Int) else signedOf w (part x w k)
        let y := ((List.range (32 / w)).map (fun k => e au (V i n a) k * e bu (V i n b) k)).sum + (V i n c).toInt
        l.setV d.toNat (fin 32 (if sat then .satS else .wrapS) y))) ∧
    (∀ gd d a b c sr fmt (ja jb : BitVec 2) r, i.Stands gd (r1 d ++ r1 a ++ r1 b ++ r1 c ++ r1 sr) s →
      i.Writes (.fdot gd d a b c sr fmt ja jb r) s i.ex (fun n l =>
        setF l d (fdotValue fmt r (V i n a).toNat (V i n b).toNat (V i n c).toNat
          (part (V i n sr) 8 ja.toNat) (part (V i n sr) 8 jb.toNat))))

/-- The source lane of SGAT, where it is valid (R395). -/
def Sys2Proof.Claim.gather (mode : SgMode) (w k n : Nat) : Option Nat :=
  let base := n - n % w
  match mode with
  | .at => some (base + k % w)
  | .lo => if base + k ≤ n then some (n - k) else none
  | .hi => if n + k < base + w then some (n + k) else none
  | .xor => some (base + (n % w).xor (k % w))

/-- node(2^k, j) of the tree of R369, and the union of the flags of every node below it. -/
def Sys2Proof.Claim.tree (op : LaneOp) (u : Nat → Nat) : Nat → Nat → Nat × BitVec 5
  | 0, j => (u j, 0)
  | k + 1, j =>
    let x := tree op u k j
    let y := tree op u k (j + 2 ^ k)
    let r := laneOp op 32 x.1 y.1
    (r.1, x.2 ||| y.2 ||| r.2)

/-- u[j] of R369. -/
def Sys2Proof.Claim.leaf (i : Iss) (op : LaneOp) (a : Reg) (j : Nat) : Nat :=
  if bit i.ex j then (V i j a).toNat else laneIdent op 32

/-- acc of LPFX in lane n (R369). -/
def Sys2Proof.Claim.accOf (i : Iss) (op : LaneOp) (a : Reg) (n : Nat) : Nat :=
  [4, 3, 2, 1, 0].foldl (fun acc k =>
    if n / 2 ^ k % 2 = 1 then (laneOp op 32 acc (tree op (leaf i op a) k (2 * 2 ^ k * (n / (2 * 2 ^ k)))).1).1 else acc) (laneIdent op 32)

/-- Operations across lanes (R366, R369, R395, R408): every value is read before any is written, and only lanes of exec take
part and receive.
Which nodes of LPFX give flags is the model's reading (log 40). -/
def Obligations.CrossLaneResults : Prop :=
  ∀ (i : Iss) (s : State),
    (∀ gd d a mode (k : BitVec 5) (seg : BitVec 3), i.Stands gd (r1 d ++ r1 a) s →
      i.Writes (.sgat gd d a mode (.imm k) seg) s i.ex (fun n l =>
        l.setV d.toNat (match gather mode (2 ^ (5 - seg.toNat)) k.toNat n with
          | some j => if bit i.ex j then V i j a else V i n a
          | none => V i n a))) ∧
    (∀ gd d a mode b (seg : BitVec 3), i.Stands gd (r1 d ++ r1 a ++ r1 b) s →
      i.Writes (.sgat gd d a mode (.reg b) seg) s i.ex (fun n l =>
        l.setV d.toNat (match gather mode (2 ^ (5 - seg.toNat)) ((V i n b).toNat % 32) n with
          | some j => if bit i.ex j then V i j a else V i n a
          | none => V i n a))) ∧
    (∀ gd a d, i.Stands gd (r1 d) s → ∃ w : Word, i.Writes (.vote gd (.mask d) a) s i.ex (fun _ l => l.setV d.toNat w) ∧
      ∀ k < 32, bit w k = (bit i.ex k && P i k a)) ∧
    (∀ gd a (d : BitVec 3), i.Stands gd [] s →
      let votes := fun (n : Nat) => n < 32 ∧ bit i.ex n = true ∧ P i n a = true
      let all := ∀ n < 32, bit i.ex n = true → P i n a = true
      ∃ e o m : Bool, i.Writes (.vote gd (.every d) a) s i.ex (fun _ l => l.setP d.toNat e) ∧ (e = true ↔ all) ∧
        i.Writes (.vote gd (.some d) a) s i.ex (fun _ l => l.setP d.toNat o) ∧ (o = true ↔ ∃ n, votes n) ∧
        i.Writes (.vote gd (.same d) a) s i.ex (fun _ l => l.setP d.toNat m) ∧ (m = true ↔ all ∨ ¬ ∃ n, votes n)) ∧
    (∀ gd d a op, i.Stands gd (r1 d ++ r1 a) s →
      i.Writes (.lred gd d a op) s i.ex (fun _ l => setF l d (tree op (leaf i op a) 5 0))) ∧
    (∀ gd d a op incl, i.Stands gd (r1 d ++ r1 a) s →
      ∃ fl : BitVec 5, i.Writes (.lpfx gd d a op incl) s i.ex (fun n l => setF l d
        (if incl then (laneOp op 32 (accOf i op a n) (leaf i op a n)).1 else accOf i op a n, fl))) ∧
    (∀ d a w64, i.Stands Guard.always (r1 d ++ rw w64 a) s →
      ∃ w : Nat → Word, i.Writes (.lmch d a w64) s i.ex (fun n l => l.setV d.toNat (w n)) ∧
        ∀ n k, k < 32 → bit (w n) k = (bit i.ex k && decide (val i k w64 a = val i n w64 a)))

/-- An issue that changes nothing of the group but its PCs and its wait. -/
def Sys2Proof.Claim.same : Nat → Lane → Lane := fun _ l => l

/-- The 32-bit special registers of R72 by id, as lane n reads them (R4, R25, R35, R73, R242). -/
def Sys2Proof.Claim.sregs (i : Iss) (s : State) : List (Nat × (Nat → Nat)) :=
  let nd := i.loc.node
  let x := i.loc.blk.idx
  let f := i.loc.grp.fair
  [(0x000, fun n => n), (0x001, fun _ => i.loc.grp.gidx), (0x002, fun n => 32 * i.loc.grp.gidx + n), (0x003, fun _ => i.loc.role),
   (0x008, fun _ => x % nd.nx), (0x009, fun _ => x / nd.nx % nd.ny), (0x00A, fun _ => x / nd.nx / nd.ny), (0x00B, fun _ => nd.nx),
   (0x00C, fun _ => nd.ny), (0x00D, fun _ => nd.nz), (0x00E, fun _ => i.loc.blk.rank), (0x010, fun _ => i.loc.die),
   (0x011, fun _ => i.loc.p), (0x012, fun _ => nd.lid), (0x013, fun _ => nd.nid), (0x014, fun _ => i.loc.asid),
   (0x015, fun _ => i.loc.ctx.inc), (0x016, fun _ => (Config.caps s.part).toNat), (0x020, fun n => (i.loc.grp.lane n).ff.toNat),
   (0x021, fun _ => f.len % 2 ^ 13 + 2 ^ 13 * (f.cnt % 2 ^ 13) + 2 ^ 26 * (if f.slice then 1 else 0)),
   (0x030, fun _ => match i.loc.grp.handler with
     | some h => h.cause.toNat + 2 ^ 8 * h.lane.toNat + 2 ^ 16 * h.code.toNat
     | none => 0)]

/-- The pair registers of R72 by id. -/
def Sys2Proof.Claim.sregPairs (i : Iss) (s : State) : List (Nat × Nat) :=
  [(0x018, 0xFF00000000000000), (0x01A, i.addr.toNat),
   (0x022, (s.pkg i.loc.p).arith - ((s.pkg i.loc.p).core i.loc.core).ccnt0),
   (0x032, match i.loc.grp.handler with | some h => h.tpc.toNat | none => 0),
   (0x034, match i.loc.grp.handler with | some h => h.taddr.toNat | none => 0)]

/-- SRD and SWR (R25, R35, R72, R397, R398): every register of the table reads as its rules say, a write of s.fflags is per
lane, one of s.fair sets LEN, clears CNT and ends a slice, and one of s.tpc in a handler stores bits 55 to 2.
The order of the write of s.fair and the issue's own count is the model's reading (log 38). -/
def Obligations.SpecialRegisterResults : Prop :=
  ∀ (i : Iss) (s : State) (u : Bool) (d a : Reg) (id : BitVec 9),
    (∀ e ∈ sregs i s, id.toNat = e.1 → i.Stands Guard.always (r1 d) s →
      i.Writes (.srd u d id) s (dst i u) (fun n l => l.setV d.toNat (BitVec.ofNat 32 (e.2 (src i u n))))) ∧
    (∀ e ∈ sregPairs i s, id.toNat = e.1 → d.toNat % 2 = 0 → i.Stands Guard.always (r2 d) s →
      i.Writes (.srd u d id) s (dst i u) (fun _ l => l.setX d.toNat (BitVec.ofNat 64 e.2))) ∧
    (i.Stands Guard.always (r1 a) s →
      i.Writes (.swr u a 0x020) s (dst i u) (fun n l => { l with ff := (V i (src i u n) a).extractLsb' 0 5 }) ∧
      i.Writes (.swr u a 0x021) s 0 same ∧
      (∃ t gt, exec (.swr u a 0x021) s = .next t ∧ t.group? i.loc.p i.loc.g = some gt ∧ gt.fair.cnt = 0 ∧ gt.fair.slice = false ∧
        gt.fair.len = (let n := (V i i.leader a).toNat % 2 ^ 13
          if n = 0 then 0 else if n < 64 then 64 else if 4096 < n then 4096 else n))) ∧
    (∀ h, i.loc.grp.handler = some h → a.toNat % 2 = 0 → i.Stands Guard.always (r2 a) s →
      i.Does (.swr u a 0x032) s (s.updGroup i.loc.p i.loc.g (fun g => { g with
        handler := some { h with tpc := BitVec.ofNat 64 ((X i i.leader a).toNat % 2 ^ 56 / 4 * 4) } })) 0 same i.nextAddr)

/-- What becomes of the signatures and barriers when the lanes of exec leave (R43, R332, R333). -/
def Sys2Proof.Claim.left (i : Iss) (s : State) : State :=
  let s1 := s.exitSignatures i.loc i.ex
  if i.loc.grp.live &&& ~~~ i.ex = 0 then s1.leaveBarriers i.loc else s1

/-- Control flow (R74, R75, R314, R332, R358, R378, R392, R411): where every lane of exec goes on, and the one register that CALL
writes. EXIT ends the lanes; CKPT in a launch without versions acts as NOP (R253). -/
def Sys2Proof.Claim.ControlTransfers : Prop :=
  ∀ (i : Iss) (s : State),
    (i.Stands Guard.always [] s →
      i.Writes .nop s 0 same ∧ i.Writes .yield s 0 same ∧
      (i.loc.versioned = false ∨ (i.g.handler.isSome = true ∧ i.loc.clu.arrived = []) → i.Writes .ckpt s 0 same)) ∧
    (∀ gd disp, i.Stands gd [] s →
      i.Does (.bra gd disp) s s 0 same (fun n => if bit i.ex n then i.addr + disp.signExtend 56 * 4 else i.nextAddr n)) ∧
    (∀ disp, i.Stands Guard.always [127] s →
      i.Does (.call disp) s s i.ex (fun _ l => l.setV 127 ((i.addr + 4).extractLsb' 0 32))
        (fun n => if bit i.ex n then i.addr + disp.signExtend 56 * 4 else i.nextAddr n)) ∧
    (i.Stands Guard.always [127] s →
      let tgt := fun (n : Nat) => i.addr.extractLsb' 32 24 ++ i.g.v n 127
      (∀ n < 32, bit i.ex n = true → (tgt n).toNat % 4 = 0) →
        i.Does .ret s s 0 same (fun n => if bit i.ex n then tgt n else i.nextAddr n)) ∧
    (∀ a, i.Stands Guard.always (r2 a) s →
      (∀ n < 32, bit i.ex n = true → (X i n a).toNat % 4 = 0 ∧ (X i n a).toNat / 2 ^ 56 = i.loc.fetchRid) →
        i.Does (.jmpi a) s s 0 same (fun n => if bit i.ex n then (X i n a).extractLsb' 0 56 else i.nextAddr n)) ∧
    (i.Stands Guard.always [] s →
      i.Does .exit s (left i s) i.ex (fun _ l => { l with live := false }) i.nextAddr ∧
      ((∀ e ∈ i.loc.blk.kregs, e.2.sigs = []) → s.exitSignatures i.loc i.ex = s))

/-- Fairness at a YIELD (R32, R34): the executing lanes advance and nothing else of them changes; outside a handler the group is handed to the lowest PC that a waiting lane holds above the
YIELD, for L issues (256 where L is 0), or for what remains of a slice; with no such lane, or nothing left of the slice, the
count returns to 0 and no slice is in force. -/
def Sys2Proof.Claim.YieldHandsOff : Prop :=
  ∀ (i : Iss) (s : State), i.Stands Guard.always [] s → i.Does .yield s s 0 same i.nextAddr ∧ (i.loc.grp.handler = none →
    let g := i.loc.grp
    let above := fun (n : Nat) => n < 32 ∧ (g.lane n).live = true ∧ bit i.sel n = false ∧ i.addr < (g.lane n).pc
    let len := if g.fair.slice then g.fair.n - 1 else if 0 < g.fair.len then g.fair.len else 256
    ∃ t gt, exec .yield s = .next t ∧ t.group? i.loc.p i.loc.g = some gt ∧ gt.fair.len = g.fair.len ∧ gt.fair.cnt = 0 ∧
      (((¬ ∃ n, above n) ∨ len = 0) → gt.fair.slice = false) ∧
      (∀ m, above m → (∀ n, above n → (g.lane m).pc ≤ (g.lane n).pc) → len ≠ 0 →
        gt.fair.slice = true ∧ gt.fair.n = len ∧
        ∀ n < 32, bit gt.fair.set n = (decide ((g.lane n).live = true) && !bit i.sel n && decide ((g.lane n).pc = (g.lane m).pc))))

/-- Control flow and the hand-off at a YIELD. -/
def Obligations.ControlFlowResults : Prop := Claim.ControlTransfers ∧ Claim.YieldHandsOff

/-- TRAP, BKPT and words that are no instruction (R95, R313, R405) take their cause at their own address, with the selected lanes
and the leader; takeTrap is the one operation that takes it. TRET returns each lane of exec to s.tpc[55:0] (R244), and outside a
handler takes cause 0x01. A word that cannot be fetched traps at the PC, or its page enters the operand log and the group waits
(R166). -/
def Obligations.TrapInstructions : Prop :=
  ∀ (i : Iss) (s : State),
    (∀ code, i.Stands Guard.always [] s →
      exec (.trap code) s = .next ((begun i s).takeTrap i.loc i.sel 0x10 i.addr 0 i.leader code) ∧
      exec (.bkpt code) s = .next ((begun i s).takeTrap i.loc i.sel 0x11 i.addr 0 i.leader 0)) ∧
    (i.Stands Guard.always [] s →
      (∀ h, i.loc.grp.handler = some h →
        i.Does .tret s (s.updGroup i.loc.p i.loc.g (fun g => { g with handler := some { h with returned := h.returned ||| i.ex } }))
          0 same (fun n => if bit i.ex n then h.tpc.extractLsb' 0 56 else i.nextAddr n)) ∧
      (i.loc.grp.handler = none → exec .tret s = .next ((begun i s).takeTrap i.loc i.sel 0x01 i.addr 0 i.leader 0))) ∧
    (s.cur = .issue i.loc.p i.loc.g i.addr i.sel i.words → s.loc i.loc.p i.loc.g = some i.loc → s.laneFaults = [] →
      i.loc.grp.step = none →
      (∀ w0 w1, exec (.illegalInstruction w0 w1) s = .next ((begun i s).takeTrap i.loc i.sel 0x01 i.addr 0 (Mask.lowest i.sel) 0)) ∧
      (∀ a, a = (if twoWords i.words.1 then i.addr + 4 else i.addr) →
        (∀ c, (s.fetchWord i.loc a).1 = .bad c →
          exec .fetchFault s = .next ((begun i (s.fetchWord i.loc a).2).takeTrap i.loc i.sel c i.addr (BitVec.ofNat 8 i.loc.fetchRid ++ a) (Mask.lowest i.sel) 0)) ∧
        ((s.fetchWord i.loc a).1 = .fault → (∀ o ∈ (s.pkg i.loc.p).olog, o.gid ≠ i.loc.g) →
          (s.pkg i.loc.p).ologOf i.loc.core < Config.ologEntries →
          ∃ t e gt h, exec .fetchFault s = .next t ∧ (t.pkg i.loc.p).olog = (s.pkg i.loc.p).olog ++ [e] ∧ e.gid = i.loc.g ∧
            e.page = a.toNat / 65536 ∧ e.waiting = true ∧ t.group? i.loc.p i.loc.g = some gt ∧ h ∈ gt.holds ∧ h.addr = i.addr ∧
            h.kind = .fetch ∧ ∀ n < 32, gt.lane n = i.loc.grp.lane n)))

/-- Taking a trap (R242 to R245): when a cause is delivered; what the handler's entry saves, and where the lanes go; what becomes
of a trap that is not delivered, with a debugger that stops the group alone, and without one. -/
def Obligations.TrapEntry : Prop :=
  ∀ (s : State) (l : Loc) (lanes : Mask) (c : BitVec 8) (tpc : Addr) (taddr : DWord) (lane : Nat) (code : BitVec 9),
    s.loc l.p l.g = some l →
    let t := s.takeTrap l lanes c tpc taddr lane code
    (l.delivers c = true ↔ 1 ≤ c.toNat ∧ c.toNat ≤ 0x10 ∧ c ≠ 6 ∧ c ≠ 7 ∧ c ≠ 15 ∧ bit l.ctx.trapEn c.toNat = true ∧
      l.ctx.trapPc ≠ 0 ∧ l.grp.handler = none) ∧
    (l.delivers c = true → (s.pkg l.p).rewriting l.asid = false →
      ∃ gt, t = s.updGroup l.p l.g (fun _ => gt) ∧
        gt = { l.grp with lanes := gt.lanes, holds := l.grp.holds.filter (fun h => h.addr != tpc),
                          handler := some { lanes := lanes, returned := 0, cause := c, lane := BitVec.ofNat 5 lane, code := code,
                                            tpc := tpc.setWidth 64, taddr := taddr } } ∧
        ∀ n < 32, gt.lane n = if bit lanes n then { l.grp.lane n with pc := l.ctx.trapPc.extractLsb' 0 56 } else l.grp.lane n) ∧
    (l.delivers c = false → (s.pkg l.p).attached l.asid = false →
      t = (s.updPkg l.p (fun k => k.report l.ctx.fn
          { w0 := BitVec.ofNat 32 (2 + 2 ^ 8 * l.asid + 2 ^ 31), w1 := BitVec.ofNat 32 c.toNat, va := vaOf taddr, pc := tpc,
            name := nameOf l.p l.blk.lid l.blk.idx l.grp.gidx lane })).faultMode l.p l.blk.cluster c.toNat (vaOf taddr) tpc
        (nameOf l.p l.blk.lid l.blk.idx l.grp.gidx lane)) ∧
    (l.delivers c = false → (s.pkg l.p).attached l.asid = true → (s.pkg l.p).stopw l.asid = 0 → l.grp.halted = false →
      ∃ gt, t.group? l.p l.g = some gt ∧ gt.halted = true ∧ (∀ n < 32, gt.lane n = l.grp.lane n) ∧
        (l.ctx.stops.length < Config.stopQueue → (tget (t.pkg l.p).ctxs l.asid).map (·.stops) = some (l.ctx.stops ++
          [{ name := nameOf l.p l.blk.lid l.blk.idx l.grp.gidx lane, cause := c, pc := tpc, lanes := lanes }])))

/-- The fault mode decides for a cluster that takes an unhandled trap (R247): a fatal one is a context error, the first two of an
idempotent or versioned cluster drop it to be placed again and count, and the third is a context error. -/
def Obligations.FaultModeDecides : Prop :=
  ∀ (s : State) (p c cause va : Nat) (pc : Addr) (name : Name3) (x : Cluster) (n : Node),
    tget (s.pkg p).clusters c = some x → tget (s.pkg p).nodes x.node = some n →
    let t := s.faultMode p c cause va pc name
    (n.desc.fault ≠ 1 → n.desc.fault ≠ 2 → t = s.contextError p n.asid cause va pc name) ∧
    (n.desc.fault = 1 → x.relaunches < 2 → ∃ y, tget (t.pkg p).clusters c = some y ∧ y.relaunches = x.relaunches + 1 ∧
      y.ready = true ∧ y.blocks = [] ∧ (∀ b ∈ x.blocks, tget (t.pkg p).blocks b = none) ∧ t.mem = s.mem) ∧
    (n.desc.fault = 1 → 2 ≤ x.relaunches → t = s.contextError p n.asid cause va pc name) ∧
    (n.desc.fault = 2 → x.committing = none → x.discards < 2 → ∃ y, tget (t.pkg p).clusters c = some y ∧
      y.discards = x.discards + 1 ∧ y.ready = true ∧ t.mem = s.mem ∧ ∀ v, y.ver = some v → v.secs = [] ∧ v.log = []) ∧
    (n.desc.fault = 2 → x.committing = none → 2 ≤ x.discards → t = s.contextError p n.asid cause va pc name)

/-! ## Memory instructions -/

/-- Nothing of the group, or of the cores that share its L1, is under way that a memory access would meet: no outstanding access, log
entry or buffered store, no version, no sampling, no watchpoint. -/
structure Sys2Proof.Claim.Calm (i : Iss) (s : State) : Prop where
  pend : i.loc.grp.pend = []
  pends : ∀ q ∈ (s.pkg i.loc.p).pends, q.acc.gid ≠ i.loc.g ∧ q.core ∉ scalarCores i.loc.node.desc.fused i.loc.core ∧ q.core ≠ i.loc.core
  olog : ∀ o ∈ (s.pkg i.loc.p).olog, o.gid ≠ i.loc.g
  cb : ((s.pkg i.loc.p).core i.loc.core).cb = [] ∧ ∀ c ∈ scalarCores i.loc.node.desc.fused i.loc.core, ((s.pkg i.loc.p).core c).cb = []
  ver : i.loc.versioned = false ∧ i.loc.clu.ver = none ∧ i.loc.clu.committing = none
  sampling : bits (s.pkg i.loc.p).plat.smpctl 15 0 = 0
  watch : i.loc.ctx.bp = []

/-- Of the package's cores only the caches and combining buffers of those beside the issuing core's L1 differ (R153). -/
def Sys2Proof.Claim.Caches (i : Iss) (s : State) (cores : Tab Nat Core) : Prop :=
  ∀ c, let x := (s.pkg i.loc.p).core c
    let y := tgetD cores c (Core.fresh c)
    y = { x with l1 := y.l1, scalar := y.scalar, cb := y.cb } ∧ (c ∉ scalarCores i.loc.node.desc.fused i.loc.core → c ≠ i.loc.core → y = x) ∧
      (c ≠ i.loc.core → y.cb = x.cb)

/-- What an acquire at a scope does to the caches (R152, R153, R362): the context's sectors leave the issuing core's scalar cache from
blk scope on, and its L1, which under the fused attribute is its octet's and leaves from die scope on. -/
def Sys2Proof.Claim.Acquired (i : Iss) (s : State) (sc : Nat) (cores : Tab Nat Core) : Prop :=
  ∀ c, let x := (s.pkg i.loc.p).core c
    let other := fun (e : SectorKey × L1Sec) => e.1.asid != i.loc.asid
    tgetD cores c (Core.fresh c) = { x with
      l1 := if (if i.loc.node.desc.fused then 4 ≤ sc ∧ c / 8 = i.loc.core / 8 else 2 ≤ sc ∧ c = i.loc.core) then x.l1.filter other else x.l1,
      scalar := if 2 ≤ sc ∧ c = i.loc.core then x.scalar.filter other else x.scalar }

/-- The virtual address of byte k of a checked access of lane n to global or private memory (R141, R149). -/
def Sys2Proof.Claim.byteVa (i : Iss) (x : DWord) (n : Nat) (c : Checked) (k : Nat) : Nat :=
  match c with
  | .ok .priv b => privVa b (vaOf x + k) n i.loc.grp.window
  | _ => vaOf x + k

/-- The name of the sector of an address, as the issuing core uses it. -/
def Sys2Proof.Claim.keyAt (i : Iss) (s : State) (va : Nat) : SectorKey := s.keyOf i.loc.p i.loc.asid va

/-- The sector of an address stands in the own die's L2 with the tokens that the access needs (R168), and not in the L1. -/
def Sys2Proof.Claim.atHand (i : Iss) (s : State) (write : Bool) (va : Nat) (e : L2Sec) : Prop :=
  s.l2 i.loc.p i.loc.die (keyAt i s va) = some e ∧ s.l2Ready i.loc.p i.loc.die (keyAt i s va) write = true ∧ e.psn = false ∧
    tget ((s.pkg i.loc.p).core (l1Core i.loc.node.desc.fused i.loc.core va)).l1 (keyAt i s va) = none

/-- A byte of a sector. -/
def Sys2Proof.Claim.secByte (d : SectorData) (va : Nat) : Byte := BitVec.ofNat 8 (secGet d (va % 64) 1)

/-- LD (R91, R141, R142, R144, R149, R361 to R363) from global, private and argument memory whose sectors stand in the die's L2:
each lane, or every lane from the leader in the uniform form, receives the bytes at its own address, least significant first,
sign-extended where .sx stands; the access makes no message, and nothing else changes but the L1 and scalar cache, which gain only
what the L2 holds. -/
def Obligations.LoadResults : Prop :=
  ∀ (i : Iss) (s : State) (u : Bool) (gd : Guard) (d a : Reg) (size : Size) (sx acq : Bool) (sc : BitVec 5) (off : BitVec 10)
    (M : Nat → L2Sec),
    let n := size.bytes
    let lanes := fun (j : Nat) => j < 32 ∧ (if u then j = i.leader else bit i.ex j = true)
    let x := fun (j : Nat) => i.ptr a off.toInt j
    let c := fun (j : Nat) => i.check a off.toInt n .rd j
    i.Stands gd (r2 a ++ rw (size == .b64) d) s → Calm i s →
    (∀ j, lanes j → (∃ b, c j = .ok .arg b) ∨
      ((∃ b, c j = .ok .global b ∨ c j = .ok .priv b) ∧
        ∀ k < n, atHand i s false (byteVa i (x j) j (c j) k) (M (byteVa i (x j) j (c j) k / 64)) ∧
          tget ((s.pkg i.loc.p).core i.loc.core).scalar (keyAt i s (byteVa i (x j) j (c j) k)) = none)) →
    ∃ made cores, Caches i s cores ∧
      (∀ c, let y := tgetD cores c (Core.fresh c)
        let z := (s.pkg i.loc.p).core c
        y.cb = z.cb ∧ (∀ key v, tget y.l1 key = some v → tget z.l1 key = some v ∨ ∃ va, key = keyAt i s va ∧ v.data = (M (va / 64)).data) ∧
        ∀ key v, tget y.scalar key = some v → tget z.scalar key = some v ∨ ∃ va, key = keyAt i s va ∧ v.data = (M (va / 64)).data) ∧
      i.Does (.ld u gd d a size sx acq sc off) s (s.updPkg i.loc.p (fun k => { k with uid := k.uid + made, cores := cores }))
      (dst i u) (fun j l =>
        let m := src i u j
        let byte := fun (k : Nat) => match c m with
          | .ok .arg _ => i.loc.node.args.getD (vaOf (x m) + k) 0
          | _ => secByte (M (byteVa i (x m) m (c m) k / 64)).data (byteVa i (x m) m (c m) k)
        let v := leNat ((List.range n).map byte)
        match size with
        | .b64 => l.setX d.toNat (BitVec.ofNat 64 v)
        | .b32 => l.setV d.toNat (BitVec.ofNat 32 v)
        | .b16 => l.setV d.toNat (if sx then (BitVec.ofNat 16 v).signExtend 32 else (BitVec.ofNat 16 v).setWidth 32)
        | .b8 => l.setV d.toNat (if sx then (BitVec.ofNat 8 v).signExtend 32 else (BitVec.ofNat 8 v).setWidth 32))
      i.nextAddr

/-- Byte k of what lane n stores. -/
def Sys2Proof.Claim.storedByte (i : Iss) (w64 : Bool) (b : Reg) (n k : Nat) : Byte :=
  if w64 then (X i n b).extractLsb' (8 * k) 8 else (V i n b).extractLsb' (8 * k) 8

/-- ST (R91, R141, R149, R152, R399, R400) to global or private memory whose sectors the die's L2 may write: the store waits in
the core's combining buffer, so no memory, message or cache beside another L1 changes. What the core then reads at an address
is the stored byte of the highest lane that stores there, and every other address reads as before, whatever the L2 holds; the caches
gain no sector, and a copy in the L1 keeps every byte that is not stored to. -/
def Obligations.StoreResults : Prop :=
  ∀ (i : Iss) (s : State) (gd : Guard) (a b : Reg) (size : Size) (rel : Bool) (sc : BitVec 5) (off : BitVec 10) (M : Nat → L2Sec),
    let n := size.bytes
    let x := fun (j : Nat) => i.ptr a off.toInt j
    let c := fun (j : Nat) => i.check a off.toInt n .wr j
    let at_ := fun (j k : Nat) => byteVa i (x j) j (c j) k
    let writes := fun (j k va : Nat) => j < 32 ∧ bit i.ex j = true ∧ k < n ∧ at_ j k = va
    let seen := fun (t : State) (va : Nat) (d : SectorData) => secByte (t.forwarded i.loc.p i.loc.core i.loc.node.desc.fused (keyAt i s va) d) va
    i.Stands gd (r2 a ++ rw (size == .b64) b) s → Calm i s → (rel = true → s.released i.loc sc.toNat = true) →
    (∃ secs : List Nat, secs.length ≤ Config.cbSectors ∧ ∀ j k, j < 32 → bit i.ex j = true → k < n → at_ j k / 64 ∈ secs) →
    (∀ j < 32, bit i.ex j = true → (∃ bd, c j = .ok .global bd ∨ c j = .ok .priv bd) ∧
      ∀ k < n, s.l2 i.loc.p i.loc.die (keyAt i s (at_ j k)) = some (M (at_ j k / 64)) ∧ (M (at_ j k / 64)).wr = true) →
    ∃ made cores, let s' := s.updPkg i.loc.p (fun k => { k with uid := k.uid + made, cores := cores })
      Caches i s cores ∧
      (∀ c, let y := tgetD cores c (Core.fresh c)
        let z := (s.pkg i.loc.p).core c
        (∀ key v, tget y.scalar key = some v → tget z.scalar key = some v) ∧
        ∀ key v, tget y.l1 key = some v → ∃ w, tget z.l1 key = some w ∧ w.ver = v.ver ∧
          ∀ va, keyAt i s va = key → (∀ j k, ¬ writes j k va) → secByte v.data va = secByte w.data va) ∧
      i.Does (.st gd a b size rel sc off) s s' 0 same i.nextAddr ∧
      (∀ va d, (∀ j k, ¬ writes j k va) → seen s' va d = secByte d va) ∧
      (∀ j k va d, writes j k va → (∀ j' k', writes j' k' va → j' ≤ j) → seen s' va d = storedByte i (size == .b64) b j k)

/-- The lanes of an atomic that name the location of lane n, with their operands, in ascending order (R203, R306). -/
def Sys2Proof.Claim.mates (i : Iss) (a b c : Reg) (w64 : Bool) (off : BitVec 9) (n : Nat) : Tab Nat (DWord × DWord) :=
  let val := fun (r : Reg) (j : Nat) => if w64 then X i j r else (V i j r).setWidth 64
  ((List.range 32).filter (fun j => bit i.ex j && vaOf (i.ptr a off.toInt j) == vaOf (i.ptr a off.toInt n))).map
    (fun j => (j, (val b j, val c j)))

/-- ATOM and RED (R202, R203, R306, R391) on global memory of which the die's L2 holds all 64 tokens: each location takes one
read-modify-write for all of its lanes, each lane of an ATOM receives its own old value, every other byte of the L2 is
unchanged, nothing leaves the die, and of the caches only copies go. -/
def Obligations.AtomicResults : Prop :=
  ∀ (i : Iss) (s : State) (gd : Guard) (d a b c : Reg) (op : LaneOp) (w64 : Bool) (ord : Order) (sc : BitVec 5) (off : BitVec 9)
    (M : Nat → L2Sec),
    let n := if w64 then 8 else 4
    let x := fun (j : Nat) => i.ptr a off.toInt j
    let va := fun (j : Nat) => vaOf (x j)
    let res := fun (c : Reg) (j : Nat) => rmw op (8 * n) (secGet (M (va j / 64)).data (va j % 64) n) (mates i a b c w64 off j)
    let hits := fun (key : SectorKey) (o : Nat) => ∃ j k, j < 32 ∧ bit i.ex j = true ∧ k < n ∧ keyAt i s (va j) = key ∧ va j % 64 + k = o
    let done := fun (c : Reg) (s' : State) =>
      (∀ j < 32, bit i.ex j = true → ∃ e, s'.l2 i.loc.p i.loc.die (keyAt i s (va j)) = some e ∧
        secGet e.data (va j % 64) n = (res c j).1) ∧
      ∀ key o, o < 64 → ¬ hits key o → (s'.l2 i.loc.p i.loc.die key).map (fun e => secByte e.data o) =
        (s.l2 i.loc.p i.loc.die key).map (fun e => secByte e.data o)
    let kept := fun (cores : Tab Nat Core) (dies : Tab Nat Die) => Caches i s cores ∧
      (∀ c, let y := tgetD cores c (Core.fresh c)
        let z := (s.pkg i.loc.p).core c
        y.cb = z.cb ∧ (∀ e ∈ y.l1, e ∈ z.l1) ∧ ∀ e ∈ y.scalar, e ∈ z.scalar) ∧
      (∀ q, q ≠ i.loc.die → tget dies q = tget (s.pkg i.loc.p).dies q) ∧
      let z := (s.pkg i.loc.p).die i.loc.die
      let y := tgetD dies i.loc.die Die.fresh
      y = { z with l2 := y.l2 } ∧ ∀ key, (tget y.l2 key).map (fun e => { e with dirty := false, data := 0 }) =
        (tget z.l2 key).map (fun e => { e with dirty := false, data := 0 })
    Calm i s → (Order.releases ord = true → s.released i.loc sc.toNat = true) →
    (∀ j < 32, bit i.ex j = true → (∃ bd, i.check a off.toInt n .atom j = .ok .global bd) ∧
      atHand i s true (va j) (M (va j / 64)) ∧ (keyAt i s (va j)).home = i.loc.p) →
    (i.Stands gd (r2 a ++ rw w64 b ++ rw w64 c ++ rw w64 d) s →
      ∃ made cores dies, let s' := s.updPkg i.loc.p (fun k => { k with uid := k.uid + made, cores := cores, dies := dies })
        kept cores dies ∧ i.Does (.atom gd d a b c op w64 ord sc off) s s' i.ex (fun j l =>
          let old := (tget (res c j).2 j).getD 0
          if w64 then l.setX d.toNat (BitVec.ofNat 64 old) else l.setV d.toNat (BitVec.ofNat 32 old)) i.nextAddr ∧
        done c s') ∧
    (i.Stands gd (r2 a ++ rw w64 b) s →
      ∃ made cores dies, let s' := s.updPkg i.loc.p (fun k => { k with uid := k.uid + made, cores := cores, dies := dies })
        kept cores dies ∧ i.Does (.red gd a b op w64 ord sc off) s s' 0 same i.nextAddr ∧ done 0 s')

/-- One location's read-modify-write (R203, R204): .exch leaves the highest lane's operand and each lane receives what stood
before its own turn; .add leaves the sum, modulo the width, of the old value and every operand; with one lane each op named
here leaves its own combination of the old value and the operand, and the lane receives the old value. -/
def Obligations.ReadModifyWrite : Prop :=
  ∀ (w old : Nat) (ops : Tab Nat (DWord × DWord)), (w = 32 ∨ w = 64) → old < 2 ^ w → ops.Pairwise (fun x y => x.1 < y.1) →
    (∀ e ∈ ops, e.1 < 32) →
    ((rmw .add w old ops).1 = (old + (ops.map (fun e => e.2.1.toNat)).sum) % 2 ^ w) ∧
    (∀ op l o, ops = [l] → (op = .exch → o = l.2.1.toNat % 2 ^ w) →
      (op = .cas → o = if old = l.2.1.toNat % 2 ^ w then l.2.2.toNat % 2 ^ w else old) →
      (op = .add → o = (old + l.2.1.toNat) % 2 ^ w) → (op = .and → o = old &&& (l.2.1.toNat % 2 ^ w)) →
      (op = .or → o = old ||| (l.2.1.toNat % 2 ^ w)) → (op = .xor → o = old ^^^ (l.2.1.toNat % 2 ^ w)) →
      (op = .minU → o = min old (l.2.1.toNat % 2 ^ w)) → (op = .maxU → o = max old (l.2.1.toNat % 2 ^ w)) →
      op ∈ [LaneOp.exch, .cas, .add, .and, .or, .xor, .minU, .maxU] →
      (rmw op w old ops).1 = o ∧ tget (rmw op w old ops).2 l.1 = some old) ∧
    (∀ pre l, ops = pre ++ [l] → (rmw .exch w old ops).1 = l.2.1.toNat % 2 ^ w ∧
      ∀ x pre', pre = pre' ++ [x] → tget (rmw .exch w old ops).2 l.1 = some (x.2.1.toNat % 2 ^ w))

/-- The block that lane j of a scratchpad access names: its own, or that of the cluster rank in V[j][c] (R365). -/
def Sys2Proof.Claim.spBlk (i : Iss) (s : State) (c : Option Reg) (j : Nat) : Option Nat :=
  match c with
  | none => some i.loc.grp.blk
  | some c => if (V i j c).toNat < i.loc.node.desc.cluster then
      i.loc.clu.blocks.find? (fun b => ((tget (s.pkg i.loc.p).blocks b).map (fun x => x.rank)) == some (V i j c).toNat) else none

/-- Lane j of exec may access n bytes at offset o of the block b (R146, R365). -/
structure Sys2Proof.Claim.SpOk (i : Iss) (s : State) (c : Option Reg) (n : Nat) (j : Nat) (o : Int) (b : Nat) (x : Block) : Prop where
  blk : spBlk i s c j = some b
  there : s.block? i.loc.p b = some x
  aligned : o % n = 0
  inside : 0 ≤ o ∧ o + n ≤ i.loc.node.desc.scratch

/-- The package after an instruction that touches only blocks and the caches of cores. -/
def Sys2Proof.Claim.blocksOnly (s : State) (p : Nat) (cores : Tab Nat Core) (blks : Tab Nat Block) : State :=
  s.updPkg p (fun k => { k with cores := cores, blocks := blks })

/-- LDS and LDSX (R146 to R148, R364, R365): each lane of exec receives the bytes at its own offset, extended, of its own block or
of the block of its rank; an .fe form whose granules are all full completes at once as an acquire at clu scope, and .clr empties
exactly the granules touched. No byte of any scratchpad changes, and without .fe no cache. -/
def Sys2Proof.Claim.ScratchLoadResults : Prop :=
  ∀ (i : Iss) (s : State) (gd : Guard) (d a : Reg) (c : Option Reg) (size : Size) (sx fe clr : Bool) (off : BitVec 10)
    (B : Nat → Nat) (Y : Nat → Block),
    let n := size.bytes
    let o := fun (j : Nat) => ((V i j a).toNat : Int) + off.toInt
    let touched := fun (b g : Nat) => (List.range 32).any (fun j => bit i.ex j && B j == b && (o j).toNat / 16 == g)
    let x : Instr := match c with | none => .lds gd d a size sx fe clr off | some c => .ldsx gd d a c size sx fe clr off
    i.Stands gd (r1 a ++ (match c with | none => [] | some c => r1 c) ++ rw (size == .b64) d) s → i.g.hold? i.addr = none →
    s.orderWait i.loc.p i.loc.g = false →
    (∀ j < 32, bit i.ex j = true → SpOk i s c n j (o j) (B j) (Y j) ∧ (fe = true → (o j).toNat / 16 ∈ (Y j).full)) →
    ∃ cores blks, (if fe then Acquired i s scClu cores else cores = (s.pkg i.loc.p).cores) ∧
      i.Does x s (blocksOnly s i.loc.p cores blks) i.ex (fun j l =>
        let v := leNat ((List.range n).map (fun k => (Y j).byte ((o j).toNat + k)))
        match size with
        | .b64 => l.setX d.toNat (BitVec.ofNat 64 v)
        | .b32 => l.setV d.toNat (BitVec.ofNat 32 v)
        | .b16 => l.setV d.toNat (if sx then (BitVec.ofNat 16 v).signExtend 32 else (BitVec.ofNat 16 v).setWidth 32)
        | .b8 => l.setV d.toNat (if sx then (BitVec.ofNat 8 v).signExtend 32 else (BitVec.ofNat 8 v).setWidth 32)) i.nextAddr ∧
      ∀ b, tget blks b = (tget (s.pkg i.loc.p).blocks b).map (fun y =>
        { y with full := if fe && clr then y.full.filter (fun g => !touched b g) else y.full })

/-- STS and STSX (R147, R401, R402): a byte of a scratchpad reads as the stored byte of the highest lane of exec that stores there,
and every other byte as before. No cache changes. Without .set no full bit changes; with .set, when the release may be performed and no group
waits for a granule, exactly the granules touched become full. -/
def Sys2Proof.Claim.ScratchStoreResults : Prop :=
  ∀ (i : Iss) (s : State) (gd : Guard) (a b : Reg) (c : Option Reg) (size : Size) (set : Bool) (off : BitVec 10)
    (B : Nat → Nat) (Y : Nat → Block),
    let n := size.bytes
    let o := fun (j : Nat) => ((V i j a).toNat : Int) + off.toInt
    let stores := fun (j k blk y : Nat) => j < 32 ∧ bit i.ex j = true ∧ k < n ∧ B j = blk ∧ (o j).toNat + k = y
    let x : Instr := match c with | none => .sts gd a b size set off | some c => .stsx gd a b c size set off
    i.Stands gd (r1 a ++ (match c with | none => [] | some c => r1 c) ++ rw (size == .b64) b) s →
    s.orderWait i.loc.p i.loc.g = false →
    (∀ j < 32, bit i.ex j = true → SpOk i s c n j (o j) (B j) (Y j)) →
    (set = true → s.released i.loc scClu = true ∧ ∀ e ∈ (s.pkg i.loc.p).groups, ∀ h ∈ e.2.holds, h.kind ≠ .fe) →
    ∃ blks, i.Does x s (blocksOnly s i.loc.p (s.pkg i.loc.p).cores blks) 0 same i.nextAddr ∧
      ∀ blk, match tget (s.pkg i.loc.p).blocks blk with
        | none => tget blks blk = none
        | some y => ∃ y', tget blks blk = some y' ∧ y' = { y with scratch := y'.scratch, full := y'.full } ∧
          (∀ g, g ∈ y'.full ↔ g ∈ y.full ∨ (set = true ∧ ∃ j k, stores j k blk (16 * g + ((o j).toNat + k) % 16))) ∧
          (∀ e, (∀ j k, ¬ stores j k blk e) → y'.byte e = y.byte e) ∧
          (∀ j k e, stores j k blk e → (∀ j' k', stores j' k' blk e → j' ≤ j) → y'.byte e = storedByte i (size == .b64) b j k)

/-- FEOP (R343, R344): .set fills, .clr empties, exactly the granules that the lanes' ranges touch; .test writes whether all of the
lane's own granules are full, and is an acquire at clu scope where some lane's are. -/
def Sys2Proof.Claim.FullEmptyResults : Prop :=
  ∀ (i : Iss) (s : State) (gd : Guard) (a b : Reg) (y : Block),
    let start := fun (j : Nat) => (V i j a).toNat
    let len := fun (j : Nat) => (V i j b).toNat
    let names := fun (j g : Nat) => decide (16 * g < start j + len j) && decide (start j < 16 * g + 16) && decide (0 < len j)
    let touched := fun (g : Nat) => ∃ j < 32, bit i.ex j = true ∧ names j g = true
    i.Stands gd (r1 a ++ r1 b) s → s.block? i.loc.p i.loc.grp.blk = some y → y = i.loc.blk → s.orderWait i.loc.p i.loc.g = false →
    (∀ j < 32, bit i.ex j = true → 0 < len j → start j + len j ≤ i.loc.node.desc.scratch) →
    (∃ blks, i.Does (.feop gd .clr a b) s (blocksOnly s i.loc.p (s.pkg i.loc.p).cores blks) 0 same i.nextAddr ∧
      (∀ n, n ≠ i.loc.grp.blk → tget blks n = tget (s.pkg i.loc.p).blocks n) ∧
      ∃ y', tget blks i.loc.grp.blk = some y' ∧ y' = { y with full := y'.full } ∧ ∀ g, g ∈ y'.full ↔ g ∈ y.full ∧ ¬ touched g) ∧
    (s.released i.loc scClu = true → (∀ e ∈ (s.pkg i.loc.p).groups, ∀ h ∈ e.2.holds, h.kind ≠ .fe) →
      ∃ blks, i.Does (.feop gd .set a b) s (blocksOnly s i.loc.p (s.pkg i.loc.p).cores blks) 0 same i.nextAddr ∧
      (∀ n, n ≠ i.loc.grp.blk → tget blks n = tget (s.pkg i.loc.p).blocks n) ∧
      ∃ y', tget blks i.loc.grp.blk = some y' ∧ y' = { y with full := y'.full } ∧ ∀ g, g ∈ y'.full ↔ g ∈ y.full ∨ touched g) ∧
    (∀ d : BitVec 3, ∃ (cores : Tab Nat Core) (w : Nat → Bool),
      i.Does (.feop gd (.test d) a b) s (blocksOnly s i.loc.p cores (s.pkg i.loc.p).blocks) i.ex
        (fun j l => l.setP d.toNat (w j)) i.nextAddr ∧
      (∀ j < 32, bit i.ex j = true → (w j = true ↔ ∀ g, names j g = true → g ∈ y.full)) ∧
      ((∃ j < 32, bit i.ex j = true ∧ ∀ g, names j g = true → g ∈ y.full) → Acquired i s scClu cores) ∧
      ((¬ ∃ j < 32, bit i.ex j = true ∧ ∀ g, names j g = true → g ∈ y.full) → cores = (s.pkg i.loc.p).cores))

/-- Scratchpad loads, stores and full-empty operations: result, completion and frame. -/
def Obligations.ScratchResults : Prop := Claim.ScratchLoadResults ∧ Claim.ScratchStoreResults ∧ Claim.FullEmptyResults

/-- FENCE, PFT and CLIN (R152, R190, R322, R342, R382). A FENCE that nothing delays retires: it marks the group's accesses in flight,
so that later ones wait for them, with the scope at which an acquire acts again when each is performed, and an acquire drops the
context's sectors from the caches. PFT changes nothing. CLIN outside a version stands at its address until CLIN_COMPLETE.
Marking every access in flight is the model's way to order them (log 41), and that PFT fills nothing is its reading (log 39). -/
def Obligations.OrderResults : Prop :=
  ∀ (i : Iss) (s : State),
    (∀ u gd ord (sc : BitVec 5), i.Stands gd [] s → (i.loc.versioned = true → sc.toNat < 4) →
      (∀ o ∈ (s.pkg i.loc.p).olog, o.gid ≠ i.loc.g) → (s.pkg i.loc.p).pendsOf i.loc.core < Config.otEntries →
      (Order.releases ord = true → s.cbClear i.loc.p i.loc.asid (i.loc.drainCores sc.toNat) = true) →
      ∃ cores, i.Does (.fence u gd ord sc) s (s.updPkg i.loc.p (fun k => { k with cores := cores, pends := k.pends.map (fun q =>
          if q.acc.gid = i.loc.g then { q with fenced := some (max (if Order.acquires ord then sc.toNat else 0) (q.fenced.getD 0)) } else q) }))
          0 same i.nextAddr ∧
        (if Order.acquires ord then Acquired i s sc.toNat cores else cores = (s.pkg i.loc.p).cores)) ∧
    (∀ gd a l2 off, i.Stands gd (r2 a) s → i.Writes (.pft gd a l2 off) s 0 same) ∧
    (∀ gd a b op (all : Bool) (sc : BitVec 5), i.Stands gd (r2 a ++ r1 b) s → i.loc.versioned = false →
      (∀ j < 32, bit i.ex j = true → i.clinBad (op == .inv) a b j = none) → (∀ q ∈ (s.pkg i.loc.p).pends, q.acc.gid ≠ i.loc.g) →
      ∃ t gt h, exec (.clin gd a b op all sc) s = .next t ∧ t.group? i.loc.p i.loc.g = some gt ∧
        (∀ n < 32, gt.lane n = i.loc.grp.lane n) ∧ h ∈ gt.holds ∧ h.kind = .clin ∧ h.addr = i.addr ∧ h.lanes = i.sel ∧
        h.data = [ClinOp.code op, if all then 1 else 0, sc.toNat, a.toNat, b.toNat, i.ex.toNat]) ∧
    (∀ p g l h op (all : Bool) sc a b ex, s.loc p g = some l → l.grp.holds.find? (fun h => h.kind == .clin) = some h →
      h.data = [ClinOp.code op, if all then 1 else 0, sc, a, b, ex] → l.grp.step = none → s.strikes = [] → s.laneFaults = [] →
      (∀ q ∈ (s.pkg p).pends, q.isFlush = false) → (∀ c ∈ s.scopeCores l sc, ((s.pkg c.1).core c.2).cb = [] ∧
        ∀ q ∈ (s.pkg c.1).pends, q.isFlush = false) → (s.pkg p).groupResident g = true →
      (op = .wb ∨ ∀ m ∈ s.messages, ∀ n own dirty ser d psn wr, m.body ≠ .tok n own dirty ser d psn wr) →
      ∃ t gt, exec (.clinComplete p g) s = .next t ∧ t.group? p g = some gt ∧ (∀ x ∈ gt.holds, x.addr ≠ h.addr) ∧
        ∀ n < 32, gt.lane n = if bit h.lanes n && (l.grp.lane n).live then { l.grp.lane n with pc := h.addr + 8 } else l.grp.lane n)

/-- The normal case of a group's memory access: none of its earlier accesses is under way or in the operand log (R162), the
outstanding-transaction table has room for its own (R13), and no watchpoint is enabled (R276). -/
structure Sys2Proof.Claim.Unhindered (i : Iss) (s : State) : Prop where
  pends : ∀ q ∈ (s.pkg i.loc.p).pends, q.acc.gid ≠ i.loc.g
  olog : ∀ o ∈ (s.pkg i.loc.p).olog, o.gid ≠ i.loc.g
  room : (s.pkg i.loc.p).pendsOf i.loc.core + 64 ≤ Config.otEntries
  watch : ∀ n < 4, bit (tgetD i.loc.ctx.bp (64 + 8 * n) 0) 0 = false

/-- A release at a scope finds what its scope names drained (R152, R194). -/
def Sys2Proof.Claim.cbDrained (i : Iss) (s : State) (sc : Nat) : Prop :=
  2 ≤ sc → s.cbClear i.loc.p i.loc.asid (i.loc.drainCores sc) = true

/-- The cluster's version has room for what one instruction may add; a launch without versions has none (R249, R255). -/
def Sys2Proof.Claim.versionRoomFor (i : Iss) (n : Nat) : Prop :=
  if i.loc.versioned then ∃ v, i.loc.clu.ver = some v ∧ i.loc.clu.committing = none ∧ v.bytes + n ≤ i.loc.node.desc.quota
  else i.loc.clu.ver = none

/-- Loads, stores, atomics, fences and hints to memory complete (R91, R152, R162, R202, R252, R306, R322, R342, R363, R382, R391, R400):
with every lane's address admitted, the sectors known to the die's L2 and nothing to wait for, LD, ST, ATOM, RED, FENCE and
PFT go on, whatever the registers hold; and a CLIN with nothing left to drain goes on at the CLIN_COMPLETE that follows its issue. -/
def Obligations.GlobalMemoryCompletes : Prop :=
  ∀ (i : Iss) (s : State), Unhindered i s →
    (∀ u gd d a size sx acq (sc : BitVec 5) (off : BitVec 10), i.Stands gd (r2 a ++ rw (size == .b64) d) s →
      (i.loc.versioned = true → acq = true → sc.toNat < 4) →
      (∀ j < 32, (if u then j = i.leader else bit i.ex j = true) →
        let c := i.check a off.toInt size.bytes .rd j
        (∃ b, c = .ok .arg b) ∨ (∃ b, c = .ok .global b ∨ c = .ok .priv b) ∧ ∀ k < size.bytes,
          let key := keyAt i s (byteVa i (i.ptr a off.toInt j) j c k)
          ∃ e, s.l2 i.loc.p i.loc.die key = some e ∧ e.psn = false ∧ s.l2Ready i.loc.p i.loc.die key false = true) →
      i.Completes (.ld u gd d a size sx acq sc off) s) ∧
    (∀ gd a b size rel (sc : BitVec 5) (off : BitVec 10), i.Stands gd (r2 a ++ rw (size == .b64) b) s →
      (rel = true → cbDrained i s sc.toNat ∧ (i.loc.versioned = true → sc.toNat < 4)) → versionRoomFor i 4096 →
      (∀ j < 32, bit i.ex j = true →
        let c := i.check a off.toInt size.bytes .wr j
        (∃ b, c = .ok .global b ∨ c = .ok .priv b) ∧ ∀ k < size.bytes,
          ∃ e, s.l2 i.loc.p i.loc.die (keyAt i s (byteVa i (i.ptr a off.toInt j) j c k)) = some e ∧ e.wr = true) →
      i.Completes (.st gd a b size rel sc off) s) ∧
    (∀ gd d a b c op w64 ord (sc : BitVec 5) (off : BitVec 9), (Order.releases ord = true → cbDrained i s sc.toNat) →
      (∀ j < 32, bit i.ex j = true →
        (∃ bd, i.check a off.toInt (if w64 then 8 else 4) .atom j = .ok .global bd) ∧
        let key := keyAt i s (vaOf (i.ptr a off.toInt j))
        s.sectorClear i.loc key = true ∧ ∃ e, s.l2 i.loc.p i.loc.die key = some e ∧ e.wr = true ∧ e.psn = false) →
      (i.Stands gd (r2 a ++ rw w64 b ++ rw w64 c ++ rw w64 d) s → i.loc.versioned = false →
        i.Completes (.atom gd d a b c op w64 ord sc off) s) ∧
      (i.Stands gd (r2 a ++ rw w64 b) s → versionRoomFor i 512 → (i.loc.versioned = true → ord ≠ .plain → sc.toNat < 4) →
        i.Completes (.red gd a b op w64 ord sc off) s)) ∧
    (∀ u gd ord (sc : BitVec 5), i.Stands gd [] s → (i.loc.versioned = true → sc.toNat < 4) →
      (Order.releases ord = true → cbDrained i s sc.toNat) → i.Completes (.fence u gd ord sc) s) ∧
    (∀ gd a l2 off, i.Stands gd (r2 a) s → i.Completes (.pft gd a l2 off) s) ∧
    (∀ gd a b op all (sc : BitVec 5), i.Stands gd (r2 a ++ r1 b) s → i.loc.versioned = false →
      (∀ j < 32, bit i.ex j = true → i.clinBad (op == .inv) a b j = none) → (∀ h ∈ i.loc.grp.holds, h.kind ≠ .clin) →
      (∀ c ∈ s.scopeCores i.loc sc.toNat, ((s.pkg c.1).core c.2).cb = [] ∧ ∀ q ∈ (s.pkg c.1).pends, q.isFlush = false) →
      (op = .wb ∨ ∀ m ∈ s.messages, ∀ n own dirty ser x psn wr, m.body ≠ .tok n own dirty ser x psn wr) →
      (s.pkg i.loc.p).groupResident i.loc.g = true →
      ∃ t t' gt, exec (.clin gd a b op all sc) s = .next t ∧ exec (.clinComplete i.loc.p i.loc.g) t = .next t' ∧
        t'.group? i.loc.p i.loc.g = some gt ∧ (∀ h ∈ gt.holds, h.addr ≠ i.addr) ∧
        ∀ n < 32, gt.lane n = if bit i.sel n && (i.loc.grp.lane n).live then { i.loc.grp.lane n with pc := i.addr + 8 } else i.loc.grp.lane n)

/-- Scratchpad accesses complete (R146 to R148, R344, R365, R402): with every lane inside its block and aligned, LDS and LDSX go on, in an
.fe form when the granules are full; STS, STSX and FEOP go on, in a .set form when the release may be performed. -/
def Obligations.ScratchpadCompletes : Prop :=
  ∀ (i : Iss) (s : State), s.orderWait i.loc.p i.loc.g = false → i.g.hold? i.addr = none →
    let o := fun (a : Reg) (off : BitVec 10) (j : Nat) => ((V i j a).toNat : Int) + off.toInt
    (∀ gd d a (c : Option Reg) size sx fe clr (off : BitVec 10),
      i.Stands gd (r1 a ++ (match c with | none => [] | some c => r1 c) ++ rw (size == .b64) d) s →
      (∀ j < 32, bit i.ex j = true → ∃ b x, SpOk i s c size.bytes j (o a off j) b x ∧ (fe = true → (o a off j).toNat / 16 ∈ x.full)) →
      i.Completes (match c with | none => .lds gd d a size sx fe clr off | some c => .ldsx gd d a c size sx fe clr off) s) ∧
    (∀ gd a b (c : Option Reg) size set (off : BitVec 10),
      i.Stands gd (r1 a ++ (match c with | none => [] | some c => r1 c) ++ rw (size == .b64) b) s →
      (∀ j < 32, bit i.ex j = true → ∃ b x, SpOk i s c size.bytes j (o a off j) b x) → (set = true → s.released i.loc scClu = true) →
      i.Completes (match c with | none => .sts gd a b size set off | some c => .stsx gd a b c size set off) s) ∧
    (∀ gd kind a b, i.Stands gd (r1 a ++ r1 b) s → (kind = .set → s.released i.loc scClu = true) →
      (∀ j < 32, bit i.ex j = true → 0 < (V i j b).toNat → (V i j a).toNat + (V i j b).toNat ≤ i.loc.node.desc.scratch) →
      i.Completes (.feop gd kind a b) s)

/-! ## Synchronization within a launch -/

/-- The package with other contents of its cores. -/
def Sys2Proof.Claim.coresOnly (s : State) (p : Nat) (cores : Tab Nat Core) : State := s.updPkg p (fun k => { k with cores := cores })

/-- A group stands at the address of the issue with a wait of a kind. -/
def Sys2Proof.Claim.Waits (i : Iss) (t : State) (kind : WaitKind) (data : List Nat) : Prop :=
  ∃ gt h, t.group? i.loc.p i.loc.g = some gt ∧ h ∈ gt.holds ∧ h.kind = kind ∧ h.addr = i.addr ∧ h.lanes = i.sel ∧ h.data = data ∧
    ∀ n < 32, (gt.lane n).pc = (i.loc.grp.lane n).pc

/-- QCFG, QARV and QWT (R385 to R389): an idle ring is configured with n empty slots; an arrival at a slot counts toward its
target and the one that reaches it turns the slot over, a consumer's with the phase; a QWT passes where the slot is full or
empty and of the phase it names, as an acquire at blk scope, and else waits. -/
def Obligations.RingResults : Prop :=
  ∀ (i : Iss) (s : State) (gd : Guard) (a : Reg) (q : BitVec 4),
    (∀ n : BitVec 9, 0 < n.toNat → n.toNat ≤ 16 → i.Stands Guard.always [] s →
      (∀ x ∈ (i.loc.blk.ring q.toNat).slots, x.full = false ∧ x.arr = 0) → (i.loc.blk.ring q.toNat).inflight = 0 →
      i.Does (.qcfg q n) s (s.updBlock i.loc.p i.loc.grp.blk (fun b => b.setRing q.toNat
        { slots := List.replicate n.toNat { full := false, ph := false, arr := 0, tgt := 1 }, inflight := 0 })) 0 same i.nextAddr) ∧
    (∀ (cons : Bool) (x : RingSlot), i.Stands gd (r1 a) s →
      let w := (V i i.leader a).toNat
      let r := i.loc.blk.ring q.toNat
      let cnt := w / 16 % 64
      w < 1024 → r.slots[w % 16]? = some x → 1 ≤ cnt → cnt ≤ 32 → x.full = cons → (0 < x.arr → cnt = x.tgt) →
      s.released i.loc scBlk = true → (∀ e ∈ (s.pkg i.loc.p).groups, ∀ h ∈ e.2.holds, h.kind ≠ .qwt) →
      i.Does (.qarv gd a q cons) s (s.updBlock i.loc.p i.loc.grp.blk (fun b => b.setRing q.toNat { r with
        slots := r.slots.set (w % 16) (if x.arr + 1 = cnt then { full := !cons, ph := if cons then !x.ph else x.ph, arr := 0, tgt := cnt }
          else { x with arr := x.arr + 1, tgt := cnt }) })) 0 same i.nextAddr) ∧
    (∀ (cons e : Bool) (x : RingSlot), i.Stands gd (r1 a) s → i.g.hold? i.addr = none →
      let slot := (V i i.leader a).toNat % 16
      (i.loc.blk.ring q.toNat).slots[slot]? = some x →
      (x.full = cons ∧ x.ph = e → ∃ cores, Acquired i s scBlk cores ∧ i.Does (.qwt gd a q cons e) s (coresOnly s i.loc.p cores) 0 same i.nextAddr) ∧
      (¬ (x.full = cons ∧ x.ph = e) → ∃ t, exec (.qwt gd a q cons e) s = .next t ∧ t.pkgs.length = s.pkgs.length ∧
        Waits i t .qwt [q.toNat, slot, if cons then 1 else 0, if e then 1 else 0, 0]))

/-- Where the issue may name a barrier (R310): a die barrier only in a die slice of a die-resident launch without versions. -/
def Sys2Proof.Claim.mayBar (i : Iss) (s : State) (lvl : BarLvl) : Prop :=
  lvl = .die → i.loc.versioned = false ∧ i.loc.node.desc.dieres = true ∧
    ∃ e, (s.pkg i.loc.p).sliceOf i.loc.blk.cluster = some e ∧ tget (s.pkg i.loc.p).slices e.1 = some e.2

/-- BAR (R43, R309, R310). With no operand the members are the live groups of the block, the cluster or the die slice, and an
operand names groups by index or blocks by rank. An arrival writes the phase to vd in every lane; the one that completes
the barrier advances the phase and empties it. A .sync waits until the phase has moved, a .wait while it is that of its
operand; to pass is an acquire. -/
def Sys2Proof.Claim.BarrierResults : Prop :=
  ∀ (i : Iss) (s : State) (gd : Guard) (d a : Reg) (n : BitVec 4) (lvl : BarLvl) (m : List Nat),
    let b := i.loc.bar (s.pkg i.loc.p) lvl n.toNat
    let mask := if a = 0 then none else some (V i i.leader a).toNat
    let mem := if b.arr = [] then m else b.mem
    let after : Bar := if ∀ g ∈ m, g ∈ b.arr ++ [i.loc.g] then { ph := b.ph + 1, mem := mem, arr := [] }
      else { ph := b.ph, mem := mem, arr := b.arr ++ [i.loc.g] }
    (lvl = .blk → i.loc.members (s.pkg i.loc.p) lvl mask = some m → ∀ g, g ∈ m ↔ ∃ x, (g, x) ∈ (s.pkg i.loc.p).groups ∧
      x.blk = i.loc.grp.blk ∧ (s.pkg i.loc.p).live g = true ∧ ∀ k, mask = some k → Option.map (fun y : Group => k.testBit y.gidx) (tget (s.pkg i.loc.p).groups g) = some true) ∧
    (i.Stands gd (r1 a ++ r1 d) s → mayBar i s lvl → i.loc.members (s.pkg i.loc.p) lvl mask = some m → i.loc.g ∈ m → i.loc.g ∉ b.arr →
      (b.arr ≠ [] → ∀ g, g ∈ m ↔ g ∈ b.mem ∧ (s.pkg i.loc.p).live g = true) → s.released i.loc (BarLvl.scope lvl) = true →
      i.Does (.barArv gd d a n lvl) s (s.setBar i.loc lvl n.toNat after) allLanes (fun _ l => l.setV d.toNat b.ph) i.nextAddr ∧
      (i.g.hold? i.addr = none →
        (after.ph ≠ b.ph → ∃ cores, Acquired i s (BarLvl.scope lvl) cores ∧ i.Does (.barSync gd d a n lvl) s (coresOnly (s.setBar i.loc lvl n.toNat after) i.loc.p cores) allLanes
            (fun _ l => l.setV d.toNat b.ph) i.nextAddr) ∧
        (after.ph = b.ph → ∃ t, exec (.barSync gd d a n lvl) s = .next t ∧ Waits i t .bar (barIn lvl n.toNat b.ph) ∧
          ∀ l, t.loc i.loc.p i.loc.g = some l → l.bar (t.pkg i.loc.p) lvl n.toNat = after))) ∧
    (i.Stands gd (r1 a) s → mayBar i s lvl →
      (V i i.leader a ≠ b.ph → ∃ cores, Acquired i s (BarLvl.scope lvl) cores ∧ i.Does (.barWait gd a n lvl) s (coresOnly s i.loc.p cores) 0 same i.nextAddr) ∧
      (V i i.leader a = b.ph → i.g.hold? i.addr = none → ∃ t, exec (.barWait gd a n lvl) s = .next t ∧
        Waits i t .bar (barFresh lvl n.toNat)))

/-- KCFG (R359): a register without signatures takes the set of groups that its operand names. -/
def Sys2Proof.Claim.kset (s : State) (i : Iss) (k : Nat) (r : KReg) : State :=
  s.updBlock i.loc.p i.loc.grp.blk (fun b => { b with kregs := tset b.kregs k r })

/-- What lane n of a KSGN signs with. -/
def Sys2Proof.Claim.plainSig (i : Iss) (n : Nat) : Sig :=
  { gid := i.loc.g, lane := n, pc := i.addr, words := i.words, ptrs := [], regs := [] }

/-- KCFG and KSGN (R39, R130, R132, R359, R360): KCFG sets the register; the lanes of exec of a KSGN sign and wait until the set is
complete, and the signing that completes it, with nothing in the engine, lets its group go on. -/
def Sys2Proof.Claim.ConvergenceResults : Prop :=
  ∀ (i : Iss) (s : State) (gd : Guard) (k : BitVec 4) (a : Reg),
    let kr := i.loc.blk.kreg k.toNat
    (i.Stands Guard.always (r1 a) s → kr.sigs = [] → (V i i.leader a).toNat < 2 ^ i.loc.node.desc.groups →
      i.Does (.kcfg k a) s (kset s i k.toNat { set := V i i.leader a, sigs := [] }) 0 same i.nextAddr) ∧
    (i.Stands gd [] s → i.loc.role = 2 → i.g.hold? i.addr = none → kr.set = laneBit i.loc.grp.gidx →
      (s.pkg i.loc.p).setGroups i.loc.grp.blk kr.set = [(i.loc.g, i.loc.grp)] → i.loc.grp.live = allLanes →
      (∀ x ∈ kr.sigs, sameSigning x.words i.words = true ∧ x.gid = i.loc.g) → (∀ n < 32, bit i.ex n = true → ∀ x ∈ kr.sigs, x.lane ≠ n) →
      ((∃ n < 32, bit i.ex n = false ∧ ∀ x ∈ kr.sigs, x.lane ≠ n) → ∃ t, exec (.ksgn gd k) s = .next t ∧
        Waits i t .ksgn [k.toNat, i.ex.toNat, 0] ∧ ∃ b, t.block? i.loc.p i.loc.grp.blk = some b ∧
          (b.kreg k.toNat).set = kr.set ∧ (b.kreg k.toNat).sigs = kr.sigs ++ (Mask.lanes i.ex).map (plainSig i)) ∧
      ((∀ n < 32, bit i.ex n = true ∨ ∃ x ∈ kr.sigs, x.lane = n) → ((s.pkg i.loc.p).core i.loc.core).eng = Engine.mk none [] false →
        (∀ h ∈ i.loc.grp.holds, h.kind ≠ .ksgn) →
        ∃ cores, (∀ c, tgetD cores c (Core.fresh c) = (s.pkg i.loc.p).core c) ∧
          i.Does (.ksgn gd k) s (kset (s.updPkg i.loc.p (fun x => { x with uid := x.uid + 1, cores := cores })) i k.toNat
          { kr with sigs := [], freed := false }) 0 same i.nextAddr))

/-- Barriers and convergence. -/
def Obligations.GroupsMeet : Prop := Claim.BarrierResults ∧ Claim.ConvergenceResults

/-- Rings, barriers and convergence complete (R309, R310, R359, R360, R387 to R389): QCFG of an idle ring, QARV that is no misuse, QWT on
a slot as it asks for; BAR.arv of a member that has not arrived, BAR.sync of the last member and one whose phase is over, BAR.wait for a phase that is
over; KCFG of a register without signatures, and a KSGN whose set has signed and whose operations have ended go on. -/
def Obligations.MeetingCompletes : Prop :=
  ∀ (i : Iss) (s : State) (gd : Guard) (a d : Reg) (k : BitVec 4),
    let w := (V i i.leader a).toNat
    let r := i.loc.blk.ring k.toNat
    (∀ n : BitVec 9, 0 < n.toNat → n.toNat ≤ 16 → i.Stands Guard.always [] s → (∀ x ∈ r.slots, x.full = false ∧ x.arr = 0) → r.inflight = 0 →
      i.Completes (.qcfg k n) s) ∧
    (∀ cons x, i.Stands gd (r1 a) s → w < 1024 → r.slots[w % 16]? = some x → 1 ≤ w / 16 % 64 → w / 16 % 64 ≤ 32 → x.full = cons →
      (0 < x.arr → w / 16 % 64 = x.tgt) → s.released i.loc scBlk = true → i.Completes (.qarv gd a k cons) s) ∧
    (∀ cons e x, i.Stands gd (r1 a) s → r.slots[w % 16]? = some x → x.full = cons → x.ph = e → i.Completes (.qwt gd a k cons e) s) ∧
    (∀ lvl m, mayBar i s lvl → let b := i.loc.bar (s.pkg i.loc.p) lvl k.toNat
      i.loc.members (s.pkg i.loc.p) lvl (if a = 0 then none else some w) = some m → i.loc.g ∈ m → i.loc.g ∉ b.arr →
      (b.arr ≠ [] → ∀ g, g ∈ m ↔ g ∈ b.mem ∧ (s.pkg i.loc.p).live g = true) → s.released i.loc (BarLvl.scope lvl) = true →
      i.Stands gd (r1 a ++ r1 d) s → i.Completes (.barArv gd d a k lvl) s ∧
        (i.g.hold? i.addr = none → (∀ g ∈ m, g ∈ b.arr ++ [i.loc.g]) → i.Completes (.barSync gd d a k lvl) s)) ∧
    (∀ lvl h ph, i.Stands gd (r1 a ++ r1 d) s → i.g.hold? i.addr = some h → h.kind = .bar → h.data = barIn lvl k.toNat ph →
      (i.loc.bar (s.pkg i.loc.p) lvl k.toNat).ph ≠ ph → i.Completes (.barSync gd d a k lvl) s) ∧
    (∀ lvl, mayBar i s lvl → i.Stands gd (r1 a) s → V i i.leader a ≠ (i.loc.bar (s.pkg i.loc.p) lvl k.toNat).ph →
      i.Completes (.barWait gd a k lvl) s) ∧
    (i.Stands Guard.always (r1 a) s → (i.loc.blk.kreg k.toNat).sigs = [] → w < 2 ^ i.loc.node.desc.groups → i.Completes (.kcfg k a) s) ∧
    (∀ h m, i.Stands gd [] s → i.loc.role = 2 → i.g.hold? i.addr = some h → h.kind = .ksgn → h.data = [k.toNat, m, 1] →
      i.Completes (.ksgn gd k) s)

/-! ## The matrix engine -/

/-- What is ppo-before an issue of these groups is performed (R205): no acquire or fenced access and no write of theirs is under way or in
the operand log, and the combining buffers beside the issuing core's L1 hold none of the context's sectors. -/
def Sys2Proof.Claim.mayForkOf (i : Iss) (s : State) (gs : List Nat) : Prop :=
  s.cbClear i.loc.p i.loc.asid (scalarCores i.loc.node.desc.fused i.loc.core) = true ∧ ∀ g ∈ gs, s.orderWait i.loc.p g = false ∧
    (∀ o ∈ (s.pkg i.loc.p).olog, ¬ (o.gid = g ∧ o.write = true)) ∧ ∀ q ∈ (s.pkg i.loc.p).pends, ¬ (q.acc.gid = g ∧ q.write = true)
def Sys2Proof.Claim.mayFork (i : Iss) (s : State) : Prop := mayForkOf i s [i.loc.g]

/-- The engine of the issuing core may take another operation of these groups at once (R131, R132, R135). -/
def Sys2Proof.Claim.mayEnter (i : Iss) (s : State) (gs : List Nat) : Prop :=
  let e := ((s.pkg i.loc.p).core i.loc.core).eng
  e.stopped = false ∧ (e.run = none → e.queue = []) ∧ e.waiting < Config.engineQueue ∧ mayForkOf i s gs ∧
    ∀ x ∈ (s.pkg i.loc.p).groups, ∀ h ∈ x.2.holds, h.kind ≠ .engineFull

/-- The state after an operation has entered the issuing core's engine: at once in the idle engine, else behind the others. -/
def Sys2Proof.Claim.Entered (i : Iss) (s s' : State) (tile : Nat) (kind : EngKind) : Prop :=
  ∃ cores o, s' = s.updPkg i.loc.p (fun k => { k with uid := k.uid + 1, cores := cores }) ∧
    (∀ c, c ≠ i.loc.core → tget cores c = tget (s.pkg i.loc.p).cores c) ∧
    (let c0 := (s.pkg i.loc.p).core i.loc.core
     tget cores i.loc.core = some { c0 with eng := if c0.eng.run = none then { c0.eng with run := some { o with started := (s.pkg i.loc.p).arith } }
       else { c0.eng with queue := c0.eng.queue ++ [o] } }) ∧
    (o.blk, o.tile, o.gid, o.lane, o.pc, o.kind, o.mismatches) = (i.loc.grp.blk, tile, i.loc.g, i.leader, i.addr, kind, 0)

/-- The six MMA instructions of a guard, tile and operands. -/
def Sys2Proof.Claim.mmas (gd : Guard) (t : BitVec 2) (x y : Bool) (o : MmaOps) : List Instr :=
  [.mmaF4 gd t o, .mmaF8 gd t x y o, .mmaI8 gd t x y o, .mmaI4 gd t x y o, .mmaBf gd t o, .mmaH gd t o]

/-- Signing an MMA (R39, R130, R131, R373, R374): every lane of exec signs with its pointers and its captured operand registers, in
ascending order, and goes on; the signing that completes the block's matrix groups sends the operation, its signatures in
rank order, to the core's engine, and empties the register. -/
def Sys2Proof.Claim.MmaSigning : Prop :=
  ∀ (i : Iss) (s : State) (gd : Guard) (t : BitVec 2) (e1 e2 : Bool) (o : MmaOps) (x : Instr) (m : Mma) (ps : List DWord),
    let kr := i.loc.blk.kreg o.k.toNat
    let groups := (s.pkg i.loc.p).setGroups i.loc.grp.blk kr.set
    let held := fun (g n : Nat) => (g = i.loc.g ∧ bit i.ex n = true) ∨ ∃ z ∈ kr.sigs, z.gid = g ∧ z.lane = n
    x ∈ mmas gd t e1 e2 o → mmaOf x = some m → o.wf m.fmt.scaled = true → i.Stands gd m.regs s → i.loc.role = 2 → i.g.hold? i.addr = none →
    kr.set = i.loc.node.desc.matrixSet → kr.set ≠ 0 → (s.pkg i.loc.p).exitedIn i.loc.grp.blk kr.set = false → kr.freed = false →
    i.loc.blk.bound m.t = true → (∀ z ∈ kr.sigs, sameSigning z.words i.words = true ∧ z.ptrs = ps) →
    (∀ n < 32, bit i.ex n = true → m.ptrs i.g n = ps ∧ ∀ z ∈ kr.sigs, ¬ (z.gid = i.loc.g ∧ z.lane = n)) →
    ((¬ ∀ e ∈ groups, ∀ n < 32, (e.2.lane n).live = true → held e.1 n) →
      ∃ new : List Sig, i.Does x s (kset s i o.k.toNat { kr with sigs := kr.sigs ++ new }) 0 same i.nextAddr ∧
        new.map (fun z => z.lane) = Mask.lanes i.ex ∧ ∀ z ∈ new, z.gid = i.loc.g ∧ z.pc = i.addr ∧ z.words = i.words ∧ z.ptrs = ps ∧
          ∀ r ∈ m.regs, tget z.regs r = some (i.g.v z.lane r)) ∧
    ((∀ e ∈ groups, ∀ n < 32, (e.2.lane n).live = true → held e.1 n) → groups ≠ [] → mayEnter i s (groups.map (·.1)) →
      (∀ p ∈ ps, tpBad p 128 = false) → (∀ y ∈ m.tilesOf ps, y.1 + 127 * tpPitch y.2 + 128 ≤ i.loc.node.desc.scratch) →
      ∃ s' sigs, Entered i s s' m.t (.mma i.words sigs) ∧
        sigs.map (fun z => (z.gid, z.lane)) = (groups.map (fun e => (Mask.lanes e.2.live).map (fun n => (e.1, n)))).flatten ∧
        i.Does x s (kset s' i o.k.toNat { kr with sigs := [], freed := false }) 0 same i.nextAddr)

/-- No operation of an engine names one of the tiles of the issuing block, and no wait of a group holds one (R134). -/
def Sys2Proof.Claim.tilesIdle (i : Iss) (s : State) (ts : List Nat) : Prop :=
  (∀ o ∈ (s.pkg i.loc.p).opsOf i.loc.grp.blk, o.tile ∉ ts) ∧ i.loc.blk.held = [] ∧
  ∀ e ∈ (s.pkg i.loc.p).groups, ∀ h ∈ e.2.holds, h.kind ≠ .engineFull

/-- The tile pointer of a group instruction on lines of 16 × width bytes passes (R127, R302). -/
def Sys2Proof.Claim.acOk (i : Iss) (ptr : DWord) (ty : Ty) : Prop :=
  tpBad ptr (16 * ty.width) = false ∧ tpOffset ptr + 127 * tpPitch ptr + 16 * ty.width ≤ i.loc.node.desc.scratch

/-- ACAL, ACFR, ACZR, ACLD, ACDR and MWT (R134, R135, R298 to R302, R377). An ACAL whose tiles are free is granted them, every element
+0, while it stands at its address, and goes on at its next issue; ACFR unbinds its tiles; ACZR, ACLD and ACDR send their
operation to the engine; MWT goes on when no operation names its tile, and else waits for those that do. -/
def Sys2Proof.Claim.AccumulatorInstructions : Prop :=
  ∀ (i : Iss) (s : State), i.loc.role = 2 →
    (∀ mask : BitVec 4, mask ≠ 0 → i.Stands Guard.always [] s → (∀ e ∈ (s.pkg i.loc.p).groups, ∀ h ∈ e.2.holds, h.kind ≠ .acal) →
      let ts := (List.range 4).filter mask.toNat.testBit
      let b := i.loc.blk
      ((∀ n ∈ ts, b.bound n = false) → b.boundCount + ts.length ≤ i.loc.node.desc.acc → residentState b.state = true → b.core = i.loc.core →
        ts.length + b.swapped.length ≤ (s.pkg i.loc.p).freeTiles i.loc.core →
        ∃ t, exec (.acal mask) s = .next t ∧ Waits i t .acal [mask.toNat, 1] ∧
          t.block? i.loc.p i.loc.grp.blk = some { b with tileCore := some i.loc.core, tiles := b.tiles ++ b.swapped ++ ts.map (fun n => (n, [])), swapped := [] }) ∧
      ((∀ n ∈ ts, b.bound n = true) → tilesIdle i s ts → (∀ e ∈ b.kregs, e.2.sigs = []) →
        i.Does (.acfr mask) s (s.updBlock i.loc.p i.loc.grp.blk (fun b => { b with
          tiles := b.tiles.filter (fun e => !(ts.contains e.1)), swapped := b.swapped.filter (fun e => !(ts.contains e.1)) })) 0 same i.nextAddr)) ∧
    (∀ (mask : BitVec 4) h, mask ≠ 0 → i.Stands Guard.always [] s → i.g.hold? i.addr = some h → h.kind = .acal → h.data = [mask.toNat, 1] →
      (∀ e ∈ (s.pkg i.loc.p).groups, ∀ h ∈ e.2.holds, h.kind = .acal → ∀ n, h.data ≠ [n, 0]) → i.Writes (.acal mask) s 0 same) ∧
    (∀ t : BitVec 2, i.loc.blk.bound t.toNat = true → i.Stands Guard.always [] s →
      (tilesIdle i s [t.toNat] → i.g.hold? i.addr = none → i.Writes (.mwt t) s 0 same) ∧
      (∀ o ∈ ((s.pkg i.loc.p).core i.loc.core).eng.ops, o.blk = i.loc.grp.blk → o.tile = t.toNat → i.g.hold? i.addr = none →
        ∃ t' ids, exec (.mwt t) s = .next t' ∧ Waits i t' .mwt ids ∧ o.id ∈ ids) ∧
      (mayEnter i s [i.loc.g] →
        ∃ s', Entered i s s' t.toNat .aczr ∧ i.Does (.aczr t) s s' 0 same i.nextAddr)) ∧
    (∀ gd (t : BitVec 2) a b st r nosat, i.loc.blk.bound t.toNat = true → a.toNat % 2 = 0 → mayEnter i s [i.loc.g] →
      let ptr := X i i.leader a
      acOk i ptr st →
      (st ∈ [Ty.fa64, .f32, .i32, .f16, .bf16] → i.Stands gd (r2 a) s →
        ∃ s', Entered i s s' t.toNat (.acld ptr st) ∧ i.Does (.acld gd t a st) s s' 0 same i.nextAddr) ∧
      (st ∈ [Ty.fa64, .f32, .f16, .bf16, .e4m3, .e5m2, .i32, .i8] → (nosat = true → st ≠ .i32 ∧ st ≠ .i8) → i.Stands gd (r2 a ++ r1 b) s →
        ∃ s', Entered i s s' t.toNat (.acdr ptr (if b = 0 then none else some (V i i.leader b)) st r nosat) ∧
          i.Does (.acdr gd t a b st r nosat) s s' 0 same i.nextAddr))

/-- The signing of MMA and the accumulator instructions. -/
def Obligations.MatrixAccumulators : Prop := Claim.MmaSigning ∧ Claim.AccumulatorInstructions

/-- Nothing of the package waits for the engine's operation that is about to end: no tile request, full/empty wait, cancelled node
or soft error. -/
structure Sys2Proof.Claim.EngAlone (s : State) (p : Nat) : Prop where
  cancelled : ∀ n ∈ (s.pkg p).nodes, n.2.cancelled = false
  waits : ∀ e ∈ (s.pkg p).groups, ∀ h ∈ e.2.holds, h.kind ≠ .acal ∧ h.kind ≠ .fe
  clean : s.strikes = []

/-- The core's engine runs o on the block b, which holds the tile and every source granule full, and its clocks have passed. -/
structure Sys2Proof.Claim.EngRuns (s : State) (p core clocks : Nat) (o : EngOp) (b : Block) : Prop where
  run : ((s.pkg p).core core).eng = { run := some o, queue := [], stopped := false }
  blk : tget (s.pkg p).blocks o.blk = some b
  tile : thas b.tiles o.tile = true
  full : ∀ g ∈ o.sources, b.isFull g = true
  clocks : o.started + clocks ≤ (s.pkg p).arith

/-- The state after o has ended in the engine, with the block y in b's place. -/
def Sys2Proof.Claim.engAfter (s : State) (p core : Nat) (o : EngOp) (y : Block) : State :=
  (s.updBlock p o.blk (fun _ => y)).updCore p core (fun c => { c with eng := { run := none, queue := [], stopped := false } })

/-- The ends of engine operations (R121, R135, R136, R137, R373): the tile, element by element, holds the products added to what it
held, +0, or the exact loaded elements; a drained tile stands in the scratchpad converted, its granules full; the engine is
free again and nothing else changes. A residue mismatch runs the operation again. -/
def Obligations.EngineCompletion : Prop :=
  ∀ (s : State) (p core : Nat) (o : EngOp) (b : Block), EngAlone s p →
    (∀ w sigs m, EngRuns s p core 128 o b → o.kind = .mma w sigs → mmaOf (decode w.1 (w.2.getD 0)) = some m →
      (∃ y, exec (.mmaComplete p core false) s = .next (engAfter s p core o { b with tiles := tset b.tiles o.tile y }) ∧
        ∀ r c, r < 128 → c < 128 → Tile.elem y (128 * r + c) =
          mmaElement m (mmaRead m b sigs) (mmaOmitted m (mmaRead m b sigs) r) (Tile.elem (tgetD b.tiles o.tile []) (128 * r + c)) r c) ∧
      (o.mismatches < 2 → ∃ t, exec (.mmaComplete p core true) s = .next t ∧ t.mem = s.mem ∧ (t.pkg p).blocks = (s.pkg p).blocks ∧
        ((t.pkg p).core core).eng = { run := some { o with mismatches := o.mismatches + 1, started := (s.pkg p).arith }, queue := [], stopped := false })) ∧
    (EngRuns s p core 16 o b → o.kind = .aczr →
      exec (.aczrComplete p core) s = .next (engAfter s p core o { b with tiles := tset b.tiles o.tile [] })) ∧
    (∀ ptr st, EngRuns s p core 128 o b → o.kind = .acld ptr st → st ∈ [Ty.fa64, .f32, .i32, .f16, .bf16] →
      ∃ y, exec (.acldComplete p core) s = .next (engAfter s p core o { b with tiles := tset b.tiles o.tile y }) ∧
        ∀ r c, r < 128 → c < 128 → Tile.elem y (128 * r + c) =
          acldElement st (b.get (tileAddr (tpOffset ptr) ptr r (st.width / 8 * c) (16 * st.width)) (st.width / 8))) ∧
    (∀ ptr sc ot rm nosat, EngRuns s p core 128 o b → o.kind = .acdr ptr sc ot rm nosat → tpBad ptr (16 * ot.width) = false →
      ot ∈ [Ty.fa64, .f32, .f16, .bf16, .e4m3, .e5m2, .i32, .i8] →
      let n := ot.width / 8
      let at_ := fun (r c : Nat) => tileAddr (tpOffset ptr) ptr r (n * c) (128 * n)
      ∃ y, exec (.acdrComplete p core) s = .next (engAfter s p core o y) ∧ y = { b with scratch := y.scratch, full := y.full } ∧
        (∀ r c, r < 128 → c < 128 → y.get (at_ r c) n = acdrElement sc ot rm nosat (Tile.elem (tgetD b.tiles o.tile []) (128 * r + c)) % 2 ^ ot.width) ∧
        (∀ e, (∀ r c, r < 128 → c < 128 → ¬ (at_ r c ≤ e ∧ e < at_ r c + n)) → y.byte e = b.byte e) ∧
        ∀ g, g ∈ y.full ↔ g ∈ b.full ∨ ∃ r c, r < 128 ∧ c < 128 ∧ 16 * g < at_ r c + n ∧ at_ r c < 16 * g + 16)

/-- Integer MMAs are exact (R121): with I8 or I4 operands, dense or sparse, an element that holds an integer and whose products
sum to another holds the sum of both, while every partial value stays below 2^49 in magnitude. -/
def Obligations.MmaIntegerExact : Prop :=
  ∀ (m : Mma) (x : MmaIn) (om : List Nat) (old : Int) (r c w : Nat) (au bu : Bool),
    (m.fmt = .i8 au bu ∧ w = 8 ∨ m.fmt = .i4 au bu ∧ w = 4) →
    let K := 1024 / w
    let num := fun (u : Bool) (v : Nat) => if u then (v : Int) else if v < 2 ^ (w - 1) then v else (v : Int) - 2 ^ w
    let a := fun (j : Nat) => num au (x.la.getD r 0 / 2 ^ (w * j) % 2 ^ w)
    let b := fun (n : Nat) => num bu ((if n < K then x.lb else x.lb2).getD c 0 / 2 ^ (w * (n % K)) % 2 ^ w)
    let s := ((List.range K).map (fun j => a j * b (mmaPos m x r j))).sum
    let code := fun (n : Int) => (roundEnc fa64 .rn (FVal.ofInt n)).1
    |s| < 2 ^ 49 → |old| < 2 ^ 49 → |old + s| < 2 ^ 49 → mmaElement m x om (code old) r c = code (old + s)

/-! ## The tile streamer and the bulk transfer engines -/

/-- The operands of a tile copy pass the checks of R404. -/
structure Sys2Proof.Claim.CopyOk (i : Iss) (m : Copy2D) : Prop where
  geo : bits m.geo 15 13 = 0 ∧ 16 ≤ geoRowb m.geo ∧ geoRowb m.geo ≤ 4096 ∧ geoRowb m.geo % 16 = 0 ∧ geoPitch m.geo % 16 = 0
  ptrs : vaOf m.gptr % 16 = 0 ∧ tpBad m.sptr (geoRowb m.geo) = false
  rows : ∀ r < geoRows m.geo, rowOk i.loc.ctx i.loc.node m.store (m.row r) (geoRowb m.geo) = true
  fits : tpOffset m.sptr + (geoRows m.geo - 1) * tpPitch m.sptr + geoRowb m.geo ≤ i.loc.node.desc.scratch
  ring : ∀ q, m.ring = some q → geoSlot m.geo < (i.loc.blk.ring q).slots.length ∧ 1 ≤ geoCnt m.geo ∧ geoCnt m.geo ≤ 32
  flag : ∀ f, m.flag = some f → i.loc.versioned = false ∧ vaOf f % 4 = 0 ∧ coversGlobal i.loc.ctx i.loc.node f 4 .wr = true
  room : i.loc.blk.stream.length < Config.streamerOps

/-- The state after a tile copy has entered its block's streamer: its ring, if it names one, has one more arrival to come. -/
def Sys2Proof.Claim.streamed (i : Iss) (s : State) (m : Copy2D) (op : StreamOp) : State :=
  (s.updPkg i.loc.p (fun k => { k with uid := k.uid + 1 })).updBlock i.loc.p i.loc.grp.blk (fun b =>
    let b' := match m.ring with
      | some q => b.setRing q { b.ring q with inflight := (b.ring q).inflight + 1 }
      | none => b
    { b' with stream := b'.stream ++ [op] })

/-- TLD, TST, BXI and BXW at issue (R315, R316, R318, R403, R404): a copy group's tile copy enters its block's streamer with its
leader's operands and every granule to do; BXI reads its control block and enters the engine of its die with the shortest
queue; BXW goes on, as an acquire, when the record holds its tag with a status other than 0, and else waits. -/
def Obligations.EngineIssue : Prop :=
  ∀ (i : Iss) (s : State) (gd : Guard), i.loc.role = 1 →
    (∀ a b c q (arv : Bool), (arv = false → q = 0) → i.Stands gd (r2 a ++ r2 b ++ r2 c) s → mayFork i s →
      let m : Copy2D := { store := false, gptr := X i i.leader a, sptr := X i i.leader b, geo := X i i.leader c,
                          ring := if arv then some q.toNat else none, flag := none }
      CopyOk i m → ∃ op, i.Does (.tld gd a b c q arv) s (streamed i s m op) 0 same i.nextAddr ∧
        op = { op with store := false, gid := i.loc.g, lane := i.leader, pc := i.addr, gptr := m.gptr, sptr := m.sptr, geo := m.geo,
                       ring := m.ring, flag := none, todo := tpGranules (tpOffset m.sptr) m.sptr (geoRows m.geo) (geoRowb m.geo) }) ∧
    (∀ d a b c q (arv flag : Bool), (arv = false → q = 0) → (flag = false → d = 0) →
      i.Stands gd (r2 a ++ r2 b ++ r2 c ++ if flag then r2 d else []) s → mayFork i s →
      let m : Copy2D := { store := true, gptr := X i i.leader b, sptr := X i i.leader a, geo := X i i.leader c,
                          ring := if arv then some q.toNat else none, flag := if flag then some (X i i.leader d) else none }
      CopyOk i m → ∃ op, i.Does (.tst gd d a b c q arv flag) s (streamed i s m op) 0 same i.nextAddr ∧
        op = { op with store := true, gid := i.loc.g, lane := i.leader, pc := i.addr, gptr := m.gptr, sptr := m.sptr, geo := m.geo,
                       ring := m.ring, flag := m.flag, todo := tpGranules (tpOffset m.sptr) m.sptr (geoRows m.geo) (geoRowb m.geo) }) ∧
    (∀ a bs s1 e, i.Stands gd (r2 a) s → i.loc.versioned = false →
      let ptr := X i i.leader a
      vaOf ptr % 64 = 0 → rowOk i.loc.ctx i.loc.node false ptr 64 = true →
      (if ridOf ptr = 0xFF then bs = (i.loc.node.args.drop (vaOf ptr)).take 64 ∧ s1 = s
       else s.vaRead i.loc.p i.loc.asid 65 (vaOf ptr) 64 = (.ok bs, s1)) →
      let w := wordsOf bs
      vaOf (ccbRecord w) % 16 = 0 → coversGlobal i.loc.ctx i.loc.node (ccbRecord w) 16 .wr = true → mayFork i s1 →
      e ∈ List.range (8 * Config.computeDies s.part) → e / 8 = i.loc.die → ((s1.pkg i.loc.p).bte e).length < Config.bteQueue →
      (∀ e' ∈ List.range (8 * Config.computeDies s.part), e' / 8 = i.loc.die → e' ≠ e →
        ((s1.pkg i.loc.p).bte e).length < ((s1.pkg i.loc.p).bte e').length) →
      ∃ o, i.Does (.bxi gd a) s (s1.updPkg i.loc.p (fun k => { k with uid := k.uid + 1, btes := tset k.btes e (k.bte e ++ [o]) })) 0 same i.nextAddr ∧
        o = { o with asid := i.loc.asid, inc := i.loc.ctx.inc, blk := some i.loc.grp.blk, node := none, gid := i.loc.g, lane := i.leader,
                     ccb := w, die := i.loc.die, cancelled := false, done := 0 }) ∧
    (∀ a b bs s1, i.Stands gd (r2 a ++ r1 b) s → s.orderWait i.loc.p i.loc.g = false →
      let ptr := X i i.leader a
      vaOf ptr % 16 = 0 → rowOk i.loc.ctx i.loc.node false ptr 16 = true →
      (if ridOf ptr = 0xFF then bs = (i.loc.node.args.drop (vaOf ptr)).take 8 ∧ s1 = s
       else s.vaRead i.loc.p i.loc.asid 9 (vaOf ptr) 8 = (.ok bs, s1)) →
      (wordOf bs = V i i.leader b ∧ bs.getD 4 0 ≠ 0 → i.Does (.bxw gd a b) s (s1.acquire i.loc 7) 0 same i.nextAddr) ∧
      (¬ (wordOf bs = V i i.leader b ∧ bs.getD 4 0 ≠ 0) → i.g.hold? i.addr = none →
        ∃ t, exec (.bxw gd a b) s = .next t ∧ Waits i t .bxw [vaOf ptr, (V i i.leader b).toNat]))

/-- The words of a granule stand in the die's L2, readable or writable; no version or commit is under way, and no buffered store of
the block's cores holds a newer byte of a word that is read. -/
def Sys2Proof.Claim.wordsAtHand (s : State) (p : Nat) (x : Block) (n : Node) (c : Cluster) (write : Bool) (ws : List (Nat × DWord)) : Prop :=
  c.ver = none ∧ c.committing = none ∧ ∀ w ∈ ws, ridOf w.2 ≠ 0xFF ∧ vaOf w.2 % 4 = 0 ∧
    s.l2Ready p (dieOfCore x.core) (s.keyOf p n.asid (vaOf w.2)) write = true ∧
    ∀ e, s.l2 p (dieOfCore x.core) (s.keyOf p n.asid (vaOf w.2)) = some e → e.psn = false ∧
      (write = false → s.forwarded p x.core n.desc.fused (s.keyOf p n.asid (vaOf w.2)) e.data = e.data)

/-- The streamer's work (R404): a granule of a TLD lands as the bytes that global memory holds at its words and becomes full; the
last one ends the copy. A TST whose granules are full stores their bytes, then its flag, and ends. A copy that ends makes
the arrival at its ring's slot that it promised. -/
def Obligations.StreamerCompletion : Prop :=
  ∀ (s : State) (p blk : Nat) (x : Block) (n : Node) (c : Cluster) (o : StreamOp) (rest : List StreamOp), EngAlone s p →
    s.streamAt p blk = some (x, n, c) → x.stream = o :: rest → (∀ z ∈ rest, z.id ≠ o.id) → (∀ e ∈ (s.pkg p).olog, e.gid ≠ engGid o.id) →
    let l2at := fun (t : State) (va : Nat) => t.l2 p (dieOfCore x.core) (s.keyOf p n.asid va)
    (∀ idx g, o.store = false → o.todo[idx]? = some g → wordsAtHand s p x n c false (o.words g) →
      (∀ w ∈ o.words g, vaOf w.2 % 8 = 0) → (o.ring = none ∨ o.todo.filter (· != g) ≠ []) →
      ∃ y, exec (.tldGranuleLands p blk idx) s = .next (s.updBlock p blk (fun _ => y)) ∧ y = { x with scratch := y.scratch, full := y.full, stream := y.stream } ∧
        y.full = addOnce x.full g ∧
        y.stream = (if o.todo.filter (· != g) = [] then rest else { o with todo := o.todo.filter (· != g) } :: rest) ∧
        (∀ w ∈ o.words g, ∀ j < 8, ∃ e, l2at s (vaOf w.2) = some e ∧ y.byte (w.1 + j) = secByte e.data (vaOf w.2 + j)) ∧
        ∀ b, (∀ w ∈ o.words g, ¬ (w.1 ≤ b ∧ b < w.1 + 8)) → y.byte b = x.byte b) ∧
    (∀ q r, o.store = false → o.todo = [r] → wordsAtHand s p x n c false (o.words r) → o.ring = some q → (∀ e ∈ (s.pkg p).groups, ∀ h ∈ e.2.holds, h.kind ≠ .qwt) →
      ∀ rg, Ring.arrive { x.ring q with inflight := (x.ring q).inflight - 1 } (geoSlot o.geo) (geoCnt o.geo) false = some rg →
      ∃ t y, exec (.tldGranuleLands p blk 0) s = .next t ∧ t.block? p blk = some y ∧ y.stream = rest ∧ y.ring q = rg ∧ y.full = addOnce x.full r) ∧
    (o.store = true → n.desc.fault ≠ 2 → o.ring = none → (∀ g ∈ o.todo, g ∈ x.full ∧ wordsAtHand s p x n c true (o.words g)) →
      (∀ f, o.flag = some f → wordsAtHand s p x n c true [(0, f)]) →
      let writes := fun (va : Nat) (v : Byte) => ∃ g ∈ o.todo, ∃ w ∈ o.words g, ∃ j < 8, vaOf w.2 + j = va ∧ v = x.byte (w.1 + j)
      let flags := fun (va : Nat) => ∃ f, o.flag = some f ∧ vaOf f ≤ va ∧ va < vaOf f + 4
      (∀ g ∈ o.todo, ∀ w ∈ o.words g, vaOf w.2 % 8 = 0) →
      ∃ dies cores t, exec (.tstComplete p blk) s = .next t ∧
        t = (s.updPkg p (fun k => { k with dies := dies, cores := cores })).updBlock p blk (fun b => { b with stream := rest }) ∧
        (n.desc.fused = false → cores = (s.pkg p).cores) ∧
        (∀ c, let y := (t.pkg p).core c
          let z := (s.pkg p).core c
          y = { z with l1 := y.l1, scalar := y.scalar } ∧ (∀ key v, tget y.l1 key = some v → tget z.l1 key = some v) ∧
            ∀ key v, tget y.scalar key = some v → tget z.scalar key = some v) ∧
        (∀ d, d ≠ dieOfCore x.core → (t.pkg p).die d = (s.pkg p).die d) ∧
        (∃ l2, (t.pkg p).die (dieOfCore x.core) = { (s.pkg p).die (dieOfCore x.core) with l2 := l2 }) ∧
        (∀ key, match s.l2 p (dieOfCore x.core) key, t.l2 p (dieOfCore x.core) key with
          | none, none => True
          | some e, some e' => e' = { e with data := e'.data, dirty := e'.dirty } ∧
              (e' = e ∨ e'.dirty = e.own ∧ ∃ va, ((∃ v, writes va v) ∨ flags va) ∧ key = s.keyOf p n.asid va)
          | _, _ => False) ∧
        (∀ va v, writes va v → (∀ v', writes va v' → v' = v) → ¬ flags va → ∃ e, l2at t va = some e ∧ secByte e.data va = v) ∧
        (∀ va f, o.flag = some f → flags va → ∃ e, l2at t va = some e ∧ secByte e.data va = if va = vaOf f then 1 else 0) ∧
        ∀ va, (∀ v, ¬ writes va v) → ¬ flags va → (l2at t va).map (fun e => secByte e.data va) = (l2at s va).map (fun e => secByte e.data va))

/-- The end of a bulk transfer (R316, R317): a copy of one chunk writes what it reads, then, unless it is quiet, its record: the
bytes moved, then its tag and status 1; here the sectors it reads and writes stand with their tokens in the L2 of its own die. One
whose control block is not legal ends with status 2 and one that was cancelled with
status 6, and neither writes anything but its record. In each case the transfer leaves its engine. -/
def Obligations.BulkCompletion : Prop :=
  ∀ (s : State) (p e idx : Nat) (o : BteOp) (c : Ctx), EngAlone s p → ((s.pkg p).bte e)[idx]? = some o → o.node = none →
    tget (s.pkg p).ctxs o.asid = some c → (∀ x ∈ (s.pkg p).olog, x.gid ≠ engGid o.id) → (∀ n ∈ (s.pkg p).nodes, n.2.kind ≠ .copy) →
    let w := o.ccb
    let left := fun (t : State) => t.updPkg p (fun k => { k with btes := tset k.btes e ((k.bte e).filter (fun x => x.id != o.id)) })
    let note := fun (t : State) (count status : Nat) (t' : State) =>
      if (status = 1 ∧ ccbQuiet w = true) ∨ cpBound c (ccbRecord w) 16 .wr = false ∨ vaOf (ccbRecord w) % 16 ≠ 0 then t' = t
      else ∃ t1, t.vaWrite p o.asid (vaOf (addOff (ccbRecord w) 8)) (leBytes 8 count) = (.ok [], t1) ∧
        t1.vaWrite p o.asid (vaOf (ccbRecord w)) (leBytes 4 (ccbTag w) ++ leBytes 4 status) = (.ok [], t')
    (∀ es ed t, o.cancelled = false → o.unread = false → ccbOk w = true → ccbRows w = 1 → o.done = 0 →
      (∀ b x y, o.blk = some b → tget (s.pkg p).blocks b = some x → (s.pkg p).nodeOf b = some y → y.desc.fused = false) →
      let n := ccbRowBytes w
      let ks := s.keyOf p o.asid (vaOf (ccbSrc w))
      let kd := s.keyOf p o.asid (vaOf (ccbDst w))
      vaOf (ccbSrc w) % 64 + n ≤ 64 → vaOf (ccbDst w) % 64 + n ≤ 64 → cpBound c (ccbSrc w) n .rd = true → cpBound c (ccbDst w) n .wr = true →
      s.l2 p (e / 8) ks = some es → s.l2Ready p (e / 8) ks false = true → es.psn = false →
      s.l2 p (e / 8) kd = some ed → s.l2Ready p (e / 8) kd true = true → kd.home = p →
      let s2 := s.setL2 p (e / 8) kd { ed with data := secPut ed.data (vaOf (ccbDst w) % 64) n (secGet es.data (vaOf (ccbSrc w) % 64) n),
                                               dirty := ed.own, psn := ed.psn && n != 64 }
      note (left s2) n 1 t → (t.pkg p).nodes = (s.pkg p).nodes → EngAlone t p →
      exec (.bxiComplete p e idx) s = .next t) ∧
    (∀ t, o.cancelled = false → o.unread = false → ccbOk w = false → note (left s) 0 2 t → (t.pkg p).nodes = (s.pkg p).nodes → EngAlone t p →
      exec (.bxiComplete p e idx) s = .next t) ∧
    (∀ t, o.cancelled = true → note (left s) o.done 6 t → (t.pkg p).nodes = (s.pkg p).nodes → EngAlone t p → exec (.bxiComplete p e idx) s = .next t)

/-! ## Deposits and counted releases -/

/-- One deposit leaves (R221, R222): a journaled channel first writes the 32 bytes of its journal entry; the sent count
advances, and the packet carries the next interval's number and its place in it. -/
def Sys2Proof.Claim.deposited (p ch kind size va : Nat) (val : DWord) (s : State) : State :=
  match s.snd p ch with
  | none => s
  | some c =>
    let seq := (c.seq + 1) % 65536
    let entry := leBytes 8 va ++ leBytes 8 val.toNat ++ leBytes 2 seq ++ leBytes 2 0 ++ leBytes 4 (c.sent + 2 ^ 20 * size + 2 ^ 22 * kind) ++
      leBytes 4 (checkCode va (leBytes (2 ^ size) val.toNat) c.asid c.inc).toNat ++ leBytes 4 0
    let s1 := match c.jsize with
      | none => s
      | some z => (s.vaWrite p c.asid (vaOf c.jptr + 32 * (c.jtail % 2 ^ (z - 5))) entry).2
    (s1.updSnd p ch (fun c => { c with sent := c.sent + 1, jtail := if c.jsize.isSome then (c.jtail + 1) % 2 ^ 32 else c.jtail })).send
      (.chan p) (.chan c.peer) c.asid c.inc noKey 0 (.deposit ch kind size va val seq c.sent c.gen)

/-- One release leaves (R221): it closes the interval, and is kept until it is acknowledged. -/
def Sys2Proof.Claim.closed (p ch va : Nat) (val : Word) (s : State) : State :=
  match s.snd p ch with
  | none => s
  | some c =>
    let seq := (c.seq + 1) % 65536
    let r : Rls := { seq := seq, cnt := c.sent, gen := c.gen, va := va, val := val, sent := s.now }
    (s.updSnd p ch (fun c => { c with seq := seq, sent := 0, kept := c.kept ++ [r] })).send
      (.chan p) (.chan c.peer) c.asid c.inc noKey 0 (.release ch seq c.sent c.gen va val)

/-- How many lanes of exec name a channel. -/
def Sys2Proof.Claim.naming (i : Iss) (c : Reg) (ch : Nat) : Nat := ((Mask.lanes i.ex).filter (fun n => (V i n c).toNat == ch)).length

/-- Lane n names a channel of its context that is not broken and of which at most one release is unacknowledged. -/
def Sys2Proof.Claim.chanOk (i : Iss) (s : State) (c : Reg) (n : Nat) (x : Snd) : Prop :=
  (V i n c).toNat < 4096 ∧ s.snd i.loc.p (V i n c).toNat = some x ∧ x.asid = i.loc.asid ∧ x.brk = false ∧ seqDiff x.seq x.ack < 2

/-- DEPS, DEPA, DEPR and CHNR (R219 to R222, R229, R319, R327 to R331): each lane of exec, in ascending order, sends its deposit or
closes its channel's interval; a CHNR reads a send or receive state. -/
def Obligations.DepositInstructions : Prop :=
  ∀ (i : Iss) (s : State) (gd : Guard) (a b c : Reg) (x : Nat → Snd), i.loc.versioned = false →
    let go := fun (w64 : Bool) (size : Nat) (perm : Perm) => i.Stands gd (r2 a ++ rw w64 b ++ r1 c) s ∧ s.acqLogged i.loc.p i.loc.g = false ∧
      ∀ n < 32, bit i.ex n = true → chanOk i s c n (x n) ∧ vaOf (X i n a) % 2 ^ size = 0 ∧
        coversGlobal i.loc.ctx i.loc.node (X i n a) (2 ^ size) perm = true ∧
        (let k := naming i c (V i n c).toNat
         (x n).sent + k < 2 ^ 20 ∧ (∀ z, (x n).jsize = some z → (x n).used + k ≤ 2 ^ (z - 5)) ∧ s.journalFault i.loc.p (x n) k = none)
    let all := fun (w64 : Bool) (kind size : Nat) => (Mask.lanes i.ex).foldl (fun s n =>
      deposited i.loc.p (V i n c).toNat kind size (vaOf (X i n a)) (if w64 then X i n b else (V i n b).setWidth 64) s) s
    (go false 0 .wr → i.Does (.deps gd a b c .b8) s (all false 0 0) 0 same i.nextAddr) ∧
    (go false 1 .wr → i.Does (.deps gd a b c .b16) s (all false 0 1) 0 same i.nextAddr) ∧
    (go false 2 .wr → i.Does (.deps gd a b c .b32) s (all false 0 2) 0 same i.nextAddr) ∧
    (go true 3 .wr → i.Does (.deps gd a b c .b64) s (all true 0 3) 0 same i.nextAddr) ∧
    (go false 2 .atom → i.Does (.depa gd a b c .i32) s (all false 1 2) 0 same i.nextAddr) ∧
    (go true 3 .atom → i.Does (.depa gd a b c .i64) s (all true 2 3) 0 same i.nextAddr) ∧
    (go false 2 .atom → i.Does (.depa gd a b c .f32) s (all false 3 2) 0 same i.nextAddr) ∧
    (i.Stands gd (r2 a ++ r1 b ++ r1 c) s → s.released i.loc scPod = true →
      (∀ n < 32, bit i.ex n = true → chanOk i s c n (x n) ∧ vaOf (X i n a) % 4 = 0 ∧ coversGlobal i.loc.ctx i.loc.node (X i n a) 4 .wr = true ∧
        naming i c (V i n c).toNat = 1) →
      i.Does (.depr gd a b c) s ((Mask.lanes i.ex).foldl (fun s n => closed i.loc.p (V i n c).toNat (vaOf (X i n a)) (V i n b) s) s)
        0 same i.nextAddr) ∧
    (∀ (d : Reg) (y : Snd) (r : Rcv), i.Stands Guard.always (r1 a ++ r1 d) s →
      let ch := bits (V i i.leader a) 11 0
      (s.snd i.loc.p ch = some y → y.asid = i.loc.asid →
        i.Writes (.chnr d a .snd) s allLanes (fun _ l => l.setV d.toNat (BitVec.ofNat 32 y.sent)) ∧
        i.Writes (.chnr d a .seq) s allLanes (fun _ l => l.setV d.toNat (BitVec.ofNat 32 (y.seq + 2 ^ 16 * y.ack)))) ∧
      (s.rcv i.loc.p (bits (V i i.leader a) 15 12) ch = some r → r.asid = i.loc.asid →
        i.Writes (.chnr d a .arr) s allLanes (fun _ l => l.setV d.toNat (BitVec.ofNat 32
          (r.cur + 2 ^ 20 * r.gen + (if r.shn then 2 ^ 22 else 0) + if r.unr then 2 ^ 23 else 0)))))

/-- The message in turn at a package, neither stale nor spoiled. -/
def Sys2Proof.Claim.Arrives (s : State) (m : Msg) : Prop := s.cur = .message m ∧ s.stale m = false ∧ m.checkOk = true

/-- A deposit arrives (R223, R224): in the current interval, or the next, it is performed once at its address and counted, and
entered in the map of a journaled channel; one of the next generation drops the held releases and recounts first; a
duplicate, one outside both intervals, one of another generation and one that fails its check code are only counted. -/
def Obligations.DepositArrival : Prop :=
  ∀ (s : State) (m : Msg) (ch kind size va seq ord gen : Nat) (val : DWord) (r0 r : Rcv),
    let p := m.dst.pkg
    let src := m.src.pkg
    let k := seqDiff seq r.last
    let s1 := s.updRcv p src ch (fun _ => r)
    let map := if k = 1 then r.mapc else r.mapn
    let add := if r.journaled then [ord] else []
    s.cur = .message m → s.stale m = false → m.body = .deposit ch kind size va val seq ord gen → s.rcv p src ch = some r0 →
    (gen = r0.gen ∧ r = r0 ∨ gen = (r0.gen + 1) % 4 ∧ gen ≠ r0.gen ∧ r = { r0 with gen := gen, tadopt := some s.now, held := [], cur := r0.mapc.length, next := r0.mapn.length, shn := false }) →
    (m.checkOk = true → k = 1 ∨ k = 2 → (r.journaled = true → ord ∉ map) → r.held = [] →
      ∀ t, s1.depositStore p m.asid va (if kind = 0 then .write va (leBytes (2 ^ size) val.toNat)
          else .atom va (if kind = 3 then .fadd else .add) (kind == 2) [(0, (val, 0))]) = .done t → t.rcv p src ch = some r →
        exec .deposit s = .next (t.updRcv p src ch (fun r =>
          if k = 1 then { r with cur := r.cur + 1, mapc := r.mapc ++ add } else { r with next := r.next + 1, mapn := r.mapn ++ add }))) ∧
    (k ≠ 1 → k ≠ 2 → exec .deposit s = .next (s1.bump p unitChan wLate)) ∧
    (k = 1 ∨ k = 2 → r.journaled = true → ord ∈ map → exec .deposit s = .next (s1.bump p unitChan wDup)) ∧
    (k = 1 ∨ k = 2 → (r.journaled = true → ord ∉ map) → m.checkOk = false → exec .deposit s = .next (s1.bump p unitChan wChk)) ∧
    (∀ g, g ≠ r0.gen → g ≠ (r0.gen + 1) % 4 → ∀ m', m'.dst = m.dst → m'.src = m.src → m'.body = .deposit ch kind size va val seq ord g →
      ∀ s', s' = { s with cur := .message m' } → s'.stale m' = false → exec .deposit s' = .next (s'.bump p unitChan wGdisc))

/-- A release arrives (R224), and its acknowledgement (R221): the next interval's release is held until every deposit of it has
been counted, then its flag is stored, the interval after it begins, and a RACK answers; one applied already is answered
again. A RACK frees what was kept up to it, and the journal entries of those intervals. -/
def Sys2Proof.Claim.ReleaseArrival : Prop :=
  ∀ (s : State) (m : Msg) (ch : Nat),
    let p := m.dst.pkg
    let src := m.src.pkg
    (∀ seq cnt gen va val r, Arrives s m → m.body = .release ch seq cnt gen va val → s.rcv p src ch = some r → gen = r.gen → r.held = [] →
      let x : Rls := { seq := seq, cnt := cnt, gen := gen, va := va, val := val, sent := s.now }
      let rack := fun (s : State) => s.send (.chan p) (.chan src) r.asid r.inc noKey 0 (.rack ch seq)
      let s1 := s.updRcv p src ch (fun r => { r with held := [x], heldAt := s.now })
      (seqDiff seq r.last = 1 → (s.pkg p).flagsHeld < Config.flagBuffer → r.cur ≠ cnt → exec .release s = .next s1) ∧
      (seqDiff seq r.last = 1 → (s.pkg p).flagsHeld < Config.flagBuffer → r.cur = cnt → (s.pkg p).chan.deps = [] → seq < 2 ^ 16 →
        ∀ t, s1.depositStore p r.asid va (.write va (leBytes 4 val.toNat)) = .done t → (t.pkg p).chan = (s1.pkg p).chan →
        exec .release s = .next (rack (t.updRcv p src ch (fun r => { r with
          last := seq, cur := r.next, next := 0, mapc := r.mapn, mapn := [], shn := false, unr := false, held := [], heldAt := s.now })))) ∧
      (seqDiff seq r.last = 0 ∨ 2 ^ 15 ≤ seqDiff seq r.last → exec .release s = .next (rack (s.bump p unitChan wDup)))) ∧
    (∀ seq c, Arrives s m → m.body = .rack ch seq → s.snd p ch = some c →
      (seqAhead seq c.ack = false → exec .rack s = .next s) ∧
      (seqAhead seq c.ack = true →
        let freed := ((c.kept.filter (fun r => !seqAhead r.seq seq)).map (fun r => r.cnt)).sum
        exec .rack s = .next (s.updSnd p ch (fun c => { c with
          ack := seq, kept := c.kept.filter (fun r => seqAhead r.seq seq), jhead := if c.jsize.isSome then (c.jhead + freed) % 2 ^ 32 else c.jhead }))))

/-- Shortfalls (R221, R225, R226): a receiver whose held release waits one lifetime bound for its deposits, then every two, says
so with its count. The sender of a journaled channel begins the next generation, sends its whole journal and its kept releases
again; of one that has no journal, or whose loss cannot be mended, since a deposit came that its release does not count or its
journal cannot be read, it breaks the channel and tells the driver. A release
unacknowledged for two lifetime bounds is sent again. -/
def Sys2Proof.Claim.ShortfallRecovery : Prop :=
  ∀ (s : State) (p ch : Nat),
    (∀ src r h, s.rcv p src ch = some r → r.held.find? (fun h => seqDiff h.seq r.last == 1) = some h → (r.cur ≠ h.cnt ∨ r.unr = true) →
      (if r.shn then r.lastShort + 2 * Config.lifetime ≤ s.now else r.heldAt + Config.lifetime ≤ s.now) →
      (∀ t, r.tadopt = some t → t + 2 * Config.lifetime ≤ s.now) → thas (s.pkg p).chan.halted src = false →
      exec (.shortfallNotice p src ch) s = .next (((s.updRcv p src ch (fun r => { r with shn := true, lastShort := s.now })).bump p unitChan wShrt).send
        (.chan p) (.chan src) r.asid r.inc noKey 0 (.short ch h.seq r.gen r.cur r.unr))) ∧
    (∀ m seq cur u c, Arrives s m → m.dst.pkg = p → m.body = .short ch seq c.gen cur u → s.snd p ch = some c → seqAhead seq c.ack = true →
      let lost := c.jsize = none ∨ u = true ∨ (∃ r, c.kept.find? (fun r => r.seq == seq) = some r ∧ r.cnt < cur) ∨
        ∃ r, s.journalStop p c = some r ∧ ∀ k va, r ≠ .fault k va
      (lost → c.brk = false → exec .short s = .next (((s.updSnd p ch (fun c => { c with brk := true })).bump p unitChan wLoss).updPkg p
        (fun k => k.report (k.ownerFn c.asid) {
          w0 := BitVec.ofNat 32 (3 + 2 ^ 8 * c.asid + 2 ^ 31), w1 := BitVec.ofNat 32 (0x0D + 2 ^ 8 * ch), va := 0, pc := 0,
          name := { n0 := 0, n1 := 0, n2 := 0 } }))) ∧
      (¬ lost → s.journalStop p c = none → let g := (c.gen + 1) % 4
        let kept := c.kept.map (fun r => { r with gen := g, sent := s.now })
        exec .short s = .next (kept.foldl (fun s r => s.send (.chan p) (.chan c.peer) c.asid c.inc noKey 0 (.release ch r.seq r.cnt r.gen r.va r.val))
          ((List.range c.used).foldl (fun s n => s.replayEntry p ch g (c.jhead + n) c)
            ((s.updSnd p ch (fun c => { c with gen := g, kept := kept })).bump p unitChan wRply))))) ∧
    (∀ c, s.snd p ch = some c → thas (s.pkg p).chan.halted c.peer = false →
      let due := fun (r : Rls) => decide (r.sent + 2 * Config.lifetime ≤ s.now)
      exec (.releaseResend p ch) s = .next ((c.kept.filter due).foldl
        (fun s r => s.send (.chan p) (.chan c.peer) c.asid c.inc noKey 0 (.release ch r.seq r.cnt r.gen r.va r.val))
        (s.updSnd p ch (fun c => { c with kept := c.kept.map (fun r => if due r then { r with sent := s.now } else r) }))))

/-- Packages that a debugger halts (R227): a HALT stops the timers toward its sender; a RESUME, or two lifetime bounds without
another HALT, starts them again from zero; a halted package repeats its HALT every lifetime bound. -/
def Sys2Proof.Claim.HaltedPeers : Prop :=
  ∀ (s : State) (p q : Nat) (m : Msg),
    let again := s.updPkg p (fun k => { k with chan := { k.chan with
      halted := tdel k.chan.halted q,
      snd := k.chan.snd.map (fun e => if e.2.peer = q then (e.1, { e.2 with kept := e.2.kept.map (fun r => { r with sent := s.now }) }) else e),
      rcv := k.chan.rcv.map (fun e => if e.1 / 4096 = q then (e.1, { e.2 with heldAt := s.now, lastShort := s.now }) else e) } })
    (s.cur = .message m → m.dst.pkg = p → m.src.pkg = q →
      exec .halt s = .next (s.updPkg p (fun k => { k with chan := { k.chan with halted := tset k.chan.halted q s.now } })) ∧
      exec .resume s = .next again) ∧
    (∀ t, tget (s.pkg p).chan.halted q = some t →
      exec (.haltAbsence p q) s = .next (if t + 2 * Config.lifetime ≤ s.now then again else s)) ∧
    ((s.pkg p).halted = true → (s.pkg p).chan.lastHalt + Config.lifetime ≤ s.now →
      exec (.haltRepeat p) s = .next ((s.pod.filter (fun x => x != p)).foldl (fun s x => s.send (.cp p) (.chan x) 0 0 noKey 0 .halt)
        (s.updPkg p (fun k => { k with chan := { k.chan with lastHalt := s.now } }))))

/-- The messages of a channel after its deposits (R221, R223, R225 to R227). -/
def Obligations.DepositFlow : Prop := Claim.ReleaseArrival ∧ Claim.ShortfallRecovery ∧ Claim.HaltedPeers

/-- Routing (R215, R216): a message to its own package enters its fabric; one to another package joins the egress queue of the
usable direct port with the fewest bytes waiting. It carries the CRC-32C of its address, data, ASID and incarnation. -/
def Obligations.MessageRouting : Prop :=
  ∀ (s : State) (src dst : Agent) (asid inc pa : Nat) (key : SectorKey) (body : Body) (scope : Nat),
    let m : Msg := { src := src, dst := dst, asid := asid, inc := inc, key := key, pa := pa, body := body,
                     check := crc32c (leBytes 8 (body.va key % 2 ^ 56) ++ body.data ++ leBytes 2 asid ++ leBytes 1 inc), scope := scope, hops := 0, since := s.now }
    let p := src.pkg
    let direct := fun (n : Nat) => n ∈ s.portsTo p dst.pkg ∧ s.usable p n = true
    (dst.pkg = p → s.send src dst asid inc key pa body scope = { s with fabric := s.fabric ++ [m] }) ∧
    (∀ n, dst.pkg ≠ p → direct n → (∀ n', direct n' → n' ≠ n →
        ((s.pkg p).port n).bytes < ((s.pkg p).port n').bytes ∨ ((s.pkg p).port n).bytes = ((s.pkg p).port n').bytes ∧ n < n') →
      s.send src dst asid inc key pa body scope = s.updPort p n (fun t => { t with egress := t.egress ++ [{ m with hops := 1 }] })) ∧
    crc32c [0x31, 0x32, 0x33, 0x34, 0x35, 0x36, 0x37, 0x38, 0x39] = 0xE3069283

/-! ## Command packets -/

/-- The queue q of context c reads a packet: it skips nothing and no graph is open. -/
structure Sys2Proof.Claim.Reads (s : State) (p q units : Nat) (x : Queue) (c : Ctx) : Prop where
  cur : s.cur = .packet p q units
  que : (s.pkg p).queue q = x
  there : thas s.pkgs p = true
  ctx : tget (s.pkg p).ctxs (bits x.ctl 11 2) = some c
  live : c.error = false ∧ c.killed = false
  skip : x.skip = none
  graph : x.graph = none

/-- The packet consumed (R45, R49): the read pointer passes it, and QRP with it but inside a LOOP. -/
def Sys2Proof.Claim.past (units : Nat) (x : Queue) : Queue :=
  let rd := x.rd + BitVec.ofNat 32 units
  { x with rd := rd, hold := none, got := [], parts := [], state := if bit x.ctl 0 then 1 else 0,
           rp := if x.nest.any (fun n => match n with | .loopBlk _ _ _ => true | .ifBlk _ => false) then x.rp else rd }

/-- The state after a packet has left s and its queue y. -/
def Sys2Proof.Claim.passed (s : State) (p q units : Nat) (y : Queue → Queue) : State := s.updQueue p q (fun x => past units (y x))

/-- A packet's condition on a value (R48). -/
def Sys2Proof.Claim.condHolds (cond : Byte) (v operand : Nat) : Bool :=
  if cond = 0 then decide (operand ≤ v) else if cond = 1 then v == operand else if cond = 2 then v != operand else v &&& operand != 0

/-- A queue's packet can read, or write, n bytes at a pointer of its context. -/
def Sys2Proof.Claim.packetReads (s : State) (p : Nat) (x : Queue) (c : Ctx) (addr : DWord) (n : Nat) (bs : List Byte) (s1 : State) : Prop :=
  cpBound c addr n .rd = true ∧ s.vaRead p (bits x.ctl 11 2) (n + 1) (vaOf addr) n = (.ok bs, s1)

/-- No node of the queue is under way. -/
def Sys2Proof.Claim.drained (s : State) (p q : Nat) : Prop := ∀ e ∈ (s.pkg p).nodes, ¬ (e.2.q = q ∧ e.2.status = none)

/-- NOP, PRIORITY, TIMESLICE, SCOPE_TABLE, GRAPH_BEGIN and PHASE (R47 to R49, R60, R192): each has its effect and is consumed. A
phase or job is counted at its closing PHASE where no earlier node of the queue is under way, and else stands open. -/
def Sys2Proof.Claim.PlainPackets : Prop :=
  ∀ (s : State) (p q units : Nat) (x : Queue) (c : Ctx) (tag : Word), Reads s p q units x c →
    let asid := bits x.ctl 11 2
    (∀ n, exec (.nopPacket n tag) s = .next (passed s p q units id)) ∧
    (∀ prio, exec (.priority tag prio) s = .next (passed s p q units (fun x => { x with prio := prio.toNat }))) ∧
    (∀ w d t, exec (.timeslice tag w d t) s = .next (passed (s.updCtx p asid (fun c => { c with
      weight := if w.toNat < 4096 then 4096 else w.toNat, dThr := d.toNat, tThr := t.toNat })) p q units id)) ∧
    (∀ nodrain id' pkgs cores, (nodrain = true ∨ drained s p q) → exec (.scopeTable nodrain tag id' pkgs cores) s =
      .next (passed (s.updCtx p asid (fun c => { c with scopes := tset c.scopes id'.toNat (pkgs, cores) })) p q units id)) ∧
    (∀ conc, exec (.graphBegin conc tag) s = .next (passed s p q units (fun x => { x with graph := some { conc := conc, nodes := [] }, gnum := x.gnum + 1 }))) ∧
    (∀ job, x.openG = [] → x.openP = [] → x.openJ = [] →
      (drained s p q → exec (.phase job tag) s = .next (passed s p q units (fun x =>
        let y := { x with pnum := x.pnum + 1, pOrd := x.ord, pcnt := x.pcnt + 1 }
        if job then { y with jnum := y.jnum + 1, jOrd := y.ord, jcnt := y.jcnt + 1 } else y))) ∧
      ((∃ e ∈ (s.pkg p).nodes, e.2.q = q ∧ e.2.status = none ∧ e.2.ord ≤ x.ord) → exec (.phase job tag) s = .next (passed s p q units (fun x =>
        let y := { x with pnum := x.pnum + 1, pOrd := x.ord, openP := [(x.pnum, x.ord)] }
        if job then { y with jnum := y.jnum + 1, jOrd := y.ord, openJ := [(x.jnum, x.ord)] } else y))))

/-- LOOP, IF and their ends (R46, R49): a LOOP opens a stretch that LOOP_END reads again while iterations are left, an IF one of
which a false condition skips the first part; a stretch that is skipped is passed over packet by packet. -/
def Sys2Proof.Claim.ControlPackets : Prop :=
  ∀ (s : State) (p q units : Nat) (x : Queue) (c : Ctx) (tag : Word),
    let start := (x.rd + BitVec.ofNat 32 units).toNat
    let entered := fun (n : Nat) (x : Queue) =>
      { x with nest := x.nest ++ [.loopBlk start n x.rd.toNat], skip := if n = 0 then some (.loopEnd 0) else none }
    (Reads s p q units x c →
      (x.nest.length < 8 →
        (∀ nodrain n addr, exec (.loop nodrain false tag n addr) s = .next (passed s p q units (entered n.toNat))) ∧
        (∀ nodrain n addr bs s1, (nodrain = true ∨ drained s p q) → vaOf addr % 4 = 0 → packetReads s p x c addr 4 bs s1 →
          exec (.loop nodrain true tag n addr) s = .next (passed s1 p q units (entered (leNat bs)))) ∧
        (∀ nodrain cond width addr val bs s1, (nodrain = true ∨ drained s p q) → width.toNat ≤ 1 → packetReads s p x c addr (4 + 4 * width.toNat) bs s1 →
          exec (.ifPkt nodrain tag cond width addr val) s = .next (passed s1 p q units (fun x => { x with
            nest := x.nest ++ [.ifBlk false],
            skip := if condHolds cond (leNat bs) (val.toNat % 2 ^ (32 + 32 * width.toNat)) then none else some (.elseOrEnd 0) })))) ∧
      (∀ nest st left rp, x.nest = nest ++ [.loopBlk st left rp] →
        (1 < left → st < 2 ^ 32 → exec (.loopEnd tag) s = .next (s.updQueue p q (fun x => { x with
          nest := nest ++ [.loopBlk st (left - 1) rp], rd := BitVec.ofNat 32 st, hold := none, got := [], parts := [], state := if bit x.ctl 0 then 1 else 0 }))) ∧
        (left ≤ 1 → exec (.loopEnd tag) s = .next (passed s p q units (fun x => { x with nest := nest })))) ∧
      (∀ nest, x.nest = nest ++ [.ifBlk false] → exec (.elsePkt tag) s = .next (passed s p q units (fun x => { x with skip := some (.endIf 0) }))) ∧
      (∀ nest els, x.nest = nest ++ [.ifBlk els] → exec (.endIf tag) s = .next (passed s p q units (fun x => { x with nest := nest })))) ∧
    (∀ y, s.cur = .packet p q units → (s.pkg p).queue q = y → tget (s.pkg p).ctxs (bits y.ctl 11 2) = some c → y = { x with skip := y.skip } → thas s.pkgs p = true →
      (∀ k ∈ [SkipTo.elseOrEnd 0, .endIf 0, .loopEnd 0, .jobEnd], units % 2 ^ 32 ≠ 0 → y.skip = some k → ∀ prio, exec (.priority tag prio) s = .next (passed s p q units id)) ∧
      (∀ nest, units % 2 ^ 32 ≠ 0 → y.skip = some (.elseOrEnd 0) → x.nest = nest ++ [.ifBlk false] →
        exec (.elsePkt tag) s = .next (passed s p q units (fun x => { x with skip := none, nest := nest ++ [.ifBlk true] })) ∧
        exec (.endIf tag) s = .next (passed s p q units (fun x => { x with skip := none, nest := nest }))))

/-- WAIT and SIGNAL (R48, R49): a WAIT goes on when its counter or word meets its condition, and else holds the queue; a SIGNAL
writes or adds its value and sends its vector. A packet whose access is out of bounds stops the queue.
The packet's access in one step is the model's reading (log 15). -/
def Sys2Proof.Claim.MemoryPackets : Prop :=
  ∀ (s : State) (p q units : Nat) (x : Queue) (c : Ctx) (tag : Word), Reads s p q units x c →
    let asid := bits x.ctl 11 2
    let held := fun (s : State) => s.updQueue p q (fun x => { x with hold := some .wait, state := 2 })
    (∀ nodrain cond counter que addr val, let q' := if que = 0xFF then q else que.toNat
      bits ((s.pkg p).queue q').ctl 11 2 = asid →
      let y := (s.pkg p).queue q'
      let v := if counter = 0 then y.lcnt else if counter = 1 then y.gcnt else if counter = 2 then y.pcnt else y.jcnt
      exec (.wait nodrain tag 0 cond counter que addr val) s =
        .next (if condHolds cond v.toNat val.toNat then passed s p q units id else held s)) ∧
    (∀ nodrain kind cond counter que addr val bs s1, kind = 1 ∨ kind = 2 → (nodrain = true ∨ drained s p q) →
      packetReads s p x c addr (4 * kind.toNat) bs s1 →
      exec (.wait nodrain tag kind cond counter que addr val) s =
        .next (if condHolds cond (leNat bs) (val.toNat % 2 ^ (32 * kind.toNat)) then passed s1 p q units id else held s1)) ∧
    (∀ nodrain msix op vec addr val, (nodrain = true ∨ drained s p q) → op.toNat ≤ 3 →
      let n := if op.toNat % 2 = 0 then 4 else 8
      let send := fun (s : State) => if msix then s.updPkg p (fun k => k.msix c.fn vec.toNat) else s
      (cpBound c addr n .wr = true → ∀ old s1 s2, (if op.toNat < 2 then leNat old = 0 ∧ s1 = s else s.vaRead p asid (n + 1) (vaOf addr) n = (.ok old, s1)) →
        s1.vaWrite p asid (vaOf addr) (leBytes n (leNat old + val.toNat)) = (.ok [], s2) →
        exec (.signal nodrain msix tag op vec addr val) s = .next (passed (send s2) p q units id)) ∧
      (cpBound c addr n .wr = false → op.toNat < 2 →
        exec (.signal nodrain msix tag op vec addr val) s = .next (s.updQueue p q (fun x => { x with state := 3, err := 8, hold := none, got := [], parts := [], rp := x.rd }))))

/-- The packets that make no node: each has the effect of its row and is consumed (R44 to R59). -/
def Obligations.PacketsWithoutNodes : Prop := Claim.PlainPackets ∧ Claim.ControlPackets ∧ Claim.MemoryPackets

/-- A node as its packet gives it (R48, R51). -/
def Sys2Proof.Claim.drafted (n : Node) (q : Nat) (x : Queue) (kind : NodeKind) (conc : Bool) (tag label : Word) (report : DWord) : Prop :=
  n.kind = kind ∧ n.q = q ∧ n.asid = bits x.ctl 11 2 ∧ n.conc = conc ∧ n.tag = tag ∧ n.label = label ∧ n.report = report ∧ n.prio = x.prio ∧
    n.phase = x.pnum ∧ n.job = x.jnum ∧ n.status = none ∧ n.cancelled = false ∧ n.done = [] ∧ n.edges = []

/-- The Lehr and the scheduler area of the context have room for a node, and no COPY waits for an engine. -/
def Sys2Proof.Claim.roomFor (s : State) (p : Nat) (c : Ctx) (bytes : Nat) : Prop :=
  (∃ nid < Config.lehrNodes, tget (s.pkg p).nodes nid = none) ∧ (s.pkg p).lehrUsed < Config.lehrNodes ∧
    c.schedUsed + bytes ≤ c.schedKiB * 1024 ∧ ∀ e ∈ (s.pkg p).nodes, e.2.kind ≠ .copy

/-- t is s with one node admitted from the queue q (R51): the lowest free Lehr entry holds it, the queue's ordinal and QADM count
it, every other node stands as before, memory is what its reads left, and the packet is consumed. -/
def Sys2Proof.Claim.admitted (s t : State) (p q units : Nat) (x : Queue) (mem : List Host.Cell) (f : Nat → Node → Prop) : Prop :=
  ∃ nid n, (∀ m < nid, tget (s.pkg p).nodes m ≠ none) ∧ tget (s.pkg p).nodes nid = none ∧ tget (t.pkg p).nodes nid = some n ∧ n.nid = nid ∧
    n.ord = x.ord + 1 ∧ n.graph = 0 ∧ f nid n ∧ (∀ m, m ≠ nid → tget (t.pkg p).nodes m = tget (s.pkg p).nodes m) ∧
    (t.pkg p).queue q = past units { x with ord := x.ord + 1, adm := BitVec.ofNat 32 (x.ord + 1) } ∧ t.mem = mem

/-- LAUNCH, LAUNCH_INDIRECT, NODE and COPY outside a graph (R48 to R55, R316): the descriptor, the grid and the arguments are read
once, and the node enters the Lehr behind every earlier node of its queue that is not complete, or, with CONC, behind none; a
launch takes the package's next launch id. An empty node that waits for nothing completes, and a COPY that waits for nothing
enters the engine with the shortest queue. A launch that a check refuses ends with none of its effect.
The order of refusals and the launch id of COPY and NODE are the model's readings (log 28). -/
def Obligations.NodePackets : Prop :=
  ∀ (s : State) (p q units : Nat) (x : Queue) (c : Ctx) (tag label : Word) (report : DWord) (conc : Bool), Reads s p q units x c →
    let asid := bits x.ctl 11 2
    let before := fun (n : Node) => ∀ m, m ∈ n.waitsFor ↔ conc = false ∧ ∃ y, (m, y) ∈ (s.pkg p).nodes ∧ y.q = q ∧ y.status = none
    let launched := fun (args bs : List Byte) (nx ny nz : Nat) (n : Node) => drafted n q x .launch conc tag label report ∧ before n ∧
      n.desc = Desc.ofBytes bs ∧ (n.nx, n.ny, n.nz) = (nx, ny, nz) ∧ n.args = args ∧ n.lid = (s.pkg p).lidCtr
    let legal := fun (bs : List Byte) (nx ny nz : Nat) => (s.pkg p).launchStatus s.part bs nx ny nz
    let bytes := fun (args : List Byte) (nx ny nz : Nat) => (args.length + 63) / 64 * 64 + ((nx * ny * nz + 7) / 8 + 63) / 64 * 64
    let args := fun (s1 : State) (argp : DWord) (argn : BitVec 16) (as : List Byte) (s2 : State) =>
      if argn = 0 then as = [] ∧ s2 = s1 else packetReads s1 p x c argp argn.toNat as s2
    (conc = true ∨ x.failed = false) → x.got = [] → x.parts = [] →
    (∀ desc nx ny nz argp argn bs as s1 s2, vaOf desc % 64 = 0 → packetReads s p x c desc 64 bs s1 →
      (legal bs nx.toNat ny.toNat nz.toNat = 0 → args s1 argp argn as s2 → (Desc.ofBytes bs).dieres = false →
        roomFor s p c (bytes as nx.toNat ny.toNat nz.toNat) →
        ∃ t, exec (.launch conc tag desc nx ny nz argp argn label report) s = .next t ∧
          admitted s t p q units x s2.mem (fun _ n => launched as bs nx.toNat ny.toNat nz.toNat n) ∧
          (t.pkg p).lidCtr = (if (s.pkg p).lidCtr < 2 ^ 32 - 1 then (s.pkg p).lidCtr + 1 else 1)) ∧
      (legal bs nx.toNat ny.toNat nz.toNat ≠ 0 → report = 0 → (s.pkg p).lehrUsed ≤ Config.lehrNodes → c.schedUsed ≤ c.schedKiB * 1024 →
        (∀ e ∈ (s.pkg p).nodes, e.1 < Config.lehrNodes ∧ e.2.kind ≠ .copy) → (∀ b ∈ (s.pkg p).blocks, b.2.node < Config.lehrNodes) → x.openG = [] → x.openP = [] → x.openJ = [] →
        (∀ e ∈ (s.pkg p).nodes, e.2.depends (Config.lehrNodes + (s.pkg p).seq) = false) →
        ∃ t, exec (.launch conc tag desc nx ny nz argp argn label report) s = .next t ∧ (t.pkg p).nodes = (s.pkg p).nodes ∧
          (t.pkg p).lidCtr = (s.pkg p).lidCtr ∧ (t.pkg p).queue q = past units { x with
            ord := x.ord + 1, adm := BitVec.ofNat 32 (x.ord + 1), lcnt := x.lcnt + 1, failed := true })) ∧
    (∀ nodrain desc grid argp argn bs gr as s1 s2 s3, (nodrain = true ∨ drained s p q) → vaOf desc % 64 = 0 → vaOf grid % 8 = 0 →
      packetReads s p x c desc 64 bs s1 → packetReads s1 p x c grid 8 gr s2 →
      let nx := leNat (gr.take 4)
      let ny := leNat ((gr.drop 4).take 2)
      let nz := leNat ((gr.drop 6).take 2)
      gr.length = 8 → legal bs nx ny nz = 0 → args s2 argp argn as s3 → (Desc.ofBytes bs).dieres = false → roomFor s p c (bytes as nx ny nz) →
        ∃ t, exec (.launchIndirect conc nodrain tag desc grid argp argn label report) s = .next t ∧
          admitted s t p q units x s3.mem (fun _ n => launched as bs nx ny nz n)) ∧
    (roomFor s p c 0 → (conc = false ∧ ¬ drained s p q →
        ∃ t, exec (.node conc tag label report) s = .next t ∧
          admitted s t p q units x s.mem (fun _ n => drafted n q x .empty conc tag label report ∧ before n ∧ n.lid = 0)) ∧
      (conc = true ∨ drained s p q → report = 0 → x.openG = [] → x.openP = [] → x.openJ = [] → (∀ b ∈ (s.pkg p).blocks, tget (s.pkg p).nodes b.2.node ≠ none) →
        (∀ e ∈ (s.pkg p).nodes, e.2.kind ≠ .empty ∧ ∀ m, e.2.depends m = true → tget (s.pkg p).nodes m ≠ none) →
        ∃ t, exec (.node conc tag label report) s = .next t ∧ (∀ m, tget (t.pkg p).nodes m = tget (s.pkg p).nodes m) ∧
          (t.pkg p).queue q = past units { x with ord := x.ord + 1, adm := BitVec.ofNat 32 (x.ord + 1), lcnt := x.lcnt + 1 })) ∧
    (∀ ccb die bs s1 e, vaOf ccb % 64 = 0 → packetReads s p x c ccb 64 bs s1 → roomFor s p c 0 → conc = true ∨ drained s p q →
      (s.pkg p).shortestBte s.part die.toNat = some e →
      ∃ t o, exec (.copy conc tag ccb die label report) s = .next t ∧
        admitted s t p q units x s1.mem (fun nid n => drafted n q x .copy conc tag label report ∧ n.ccb = wordsOf bs ∧ n.started = [0] ∧ o.node = some nid) ∧
        (t.pkg p).bte e = (s.pkg p).bte e ++ [o] ∧ o.ccb = wordsOf bs ∧ o.die = e / 8 ∧ o.asid = asid ∧ o.blk = none ∧ o.done = 0)

/-- Graphs (R49, R52, R58). Inside one a node joins the drafts and may not carry CONC; DEPEND adds an edge from the last node with
the producer's label to the last with the consumer's, by tiles where both are launches; GRAPH_END admits every node together, in
packet order, under its edges and behind the nodes that the graph waits for. -/
def Obligations.GraphPackets : Prop :=
  ∀ (s : State) (p q units : Nat) (x : Queue) (c : Ctx) (tag label : Word) (report : DWord) (g : OpenGraph),
    s.cur = .packet p q units → (s.pkg p).queue q = x → thas s.pkgs p = true → tget (s.pkg p).ctxs (bits x.ctl 11 2) = some c →
    x.skip = none → x.graph = some g →
    let joined := fun (n : Node) => passed s p q units (fun x => { x with graph := some { g with nodes := g.nodes ++ [n] } })
    (g.nodes.length < Config.lehrNodes →
      (∃ n, exec (.node false tag label report) s = .next (joined n) ∧ drafted n q x .empty false tag label report) ∧
      (∀ desc nx ny nz argp argn, ∃ n, exec (.launch false tag desc nx ny nz argp argn label report) s = .next (joined n) ∧
        drafted n q x .launch false tag label report ∧ (n.nx, n.ny, n.nz) = (nx.toNat, ny.toNat, nz.toNat)) ∧
      (∀ ccb die, ∃ n, exec (.copy false tag ccb die label report) s = .next (joined n) ∧ drafted n q x .copy false tag label report ∧ n.die = die.toNat) ∧
      (∀ nodrain desc grid argp argn, (nodrain = true ∨ drained s p q) →
        ∃ n, exec (.launchIndirect false nodrain tag desc grid argp argn label report) s = .next (joined n) ∧ drafted n q x .launch false tag label report)) ∧
    (∀ desc nx ny nz argp argn ccb die,
      ∀ i ∈ [Instr.node true tag label report, .launch true tag desc nx ny nz argp argn label report, .copy true tag ccb die label report],
        exec i s = .next (s.updQueue p q (fun x => { x with state := 3, err := 2, hold := none, got := [], parts := [], rp := x.rd }))) ∧
    (∀ tile a b ax ay wx wy bx by_ i j ni nj, g.nodes[i]? = some ni → g.nodes[j]? = some nj → ni.label = a → nj.label = b → i < j →
      (∀ k n, g.nodes[k]? = some n → n.label = a → k ≤ i) → (∀ k n, g.nodes[k]? = some n → n.label = b → k ≤ j) →
      exec (.depend tile tag a b ax ay wx wy bx by_) s = .next (passed s p q units (fun x => { x with graph := some { g with
        nodes := g.nodes.set j { nj with edges := nj.edges ++ [{
          prod := i, tile := if tile = true ∧ ni.kind = .launch ∧ nj.kind = .launch then some (ax.toNat, ay.toNat, wx.toNat, wy.toNat, bx.toInt, by_.toInt)
            else none }] } } }))) ∧
    (g.conc = true ∨ x.failed = false → x.got = [] → x.parts = [] →
      (∀ n ∈ g.nodes, n.kind = .empty ∧ n.status = none ∧ n.q = q ∧ n.asid = bits x.ctl 11 2 ∧ n.edges ≠ []) → g.nodes ≠ [] →
      x.openG = [] → x.openP = [] → x.openJ = [] → (s.pkg p).nodes = [] → c.schedUsed ≤ c.schedKiB * 1024 → g.nodes.length ≤ Config.lehrNodes →
      ∃ t, exec (.graphEnd tag) s = .next t ∧ (t.pkg p).queue q = past units { x with
          graph := none, ord := x.ord + g.nodes.length, adm := BitVec.ofNat 32 (x.ord + g.nodes.length), openG := [(x.gnum, 0)] } ∧
        ∀ j d, g.nodes[j]? = some d → ∃ n, tget (t.pkg p).nodes j = some n ∧ n.ord = x.ord + j + 1 ∧ n.graph = x.gnum ∧ n.label = d.label ∧
          n.tag = d.tag ∧ n.report = d.report ∧ n.status = none ∧ n.waitsFor = [] ∧
          n.edges = d.edges.map (fun e => { e with prod := if e.prod < g.nodes.length then e.prod else 0 }))

/-- How a node ends (R44, R52, R54, R58): its report record carries its status, tag, launch id and completed blocks; QLCNT counts
it; what waited for it waits no longer when it is complete, and is refused with status 0x01 when it is not.
That a COPY ends with status 0x00 is the model's reading (log 29). -/
def Sys2Proof.Claim.NodeEnd : Prop :=
  ∀ (s : State) (p nid st : Nat) (n : Node),
    let k := s.pkg p
    tget k.nodes nid = some n → n.status = none → (∀ e ∈ k.nodes, e.2.kind = .launch) → k.nodes.Pairwise (fun a b => a.1 ≠ b.1) →
    (∀ b ∈ k.blocks, b.2.node ≠ nid) → thas s.pkgs p = true →
    (k.queue n.q).openG = [] → (k.queue n.q).openP = [] → (k.queue n.q).openJ = [] →
    (n.report = 0 → st = 0 → ∃ t, s.endNode p nid st = t ∧ t.mem = s.mem ∧ tget (t.pkg p).nodes nid = none ∧
      (t.pkg p).queue n.q = { k.queue n.q with lcnt := (k.queue n.q).lcnt + 1 } ∧
      ∀ m y, m ≠ nid → tget k.nodes m = some y → tget (t.pkg p).nodes m = some { y with
        waitsFor := y.waitsFor.filter (fun w => w != nid), edges := y.edges.filter (fun e => e.prod != nid) }) ∧
    (n.report = 0 → st ≠ 0 → (∀ e ∈ k.nodes, e.2.depends nid = false) → ∃ t, s.endNode p nid st = t ∧ t.mem = s.mem ∧
      tget (t.pkg p).nodes nid = none ∧ (t.pkg p).queue n.q = { k.queue n.q with lcnt := (k.queue n.q).lcnt + 1, failed := true } ∧
      ∀ m, m ≠ nid → tget (t.pkg p).nodes m = tget k.nodes m) ∧
    (n.report ≠ 0 → ∀ c s1, tget k.ctxs n.asid = some c → cpBound c n.report 16 .wr = true →
      (s.updNode p nid (fun n => { n with status := some st })).vaWrite p n.asid (vaOf n.report)
        (leBytes 4 (st % 256) ++ leBytes 4 n.tag.toNat ++ leBytes 4 n.lid ++ leBytes 4 n.done.length) = (.ok [], s1) →
      (∀ e ∈ k.nodes, e.2.depends nid = false) → ∃ t, s.endNode p nid st = t ∧ t.mem = s1.mem ∧ tget (t.pkg p).nodes nid = none)

/-- CANCEL (R59): the nodes that it names, by label, graph, phase or job, lose their groups and blocks, and with no engine operation
or write under way they end with status 0x01; a node that it does not name stands as before. A CANCEL of the open job also skips
the queue's packets up to the PHASE that closes the job, in place of a packet that was held.
What a level above 0 names is the model's reading (log 26). -/
def Sys2Proof.Claim.CancelPacket : Prop :=
  ∀ (s : State) (p q units : Nat) (x y : Queue) (c : Ctx) (tag label : Word) (level que : Byte) (nid : Nat) (n : Node), Reads s p q units x c →
    let q' := if que = 0xFF then q else que.toNat
    let named := fun (m : Node) => if level = 0 then m.label = label else if level = 1 then m.graph = y.gnum ∧ y.gnum ≠ 0
      else if level = 2 then m.phase = (if y.pOrd < y.ord then y.pnum else y.pnum - 1) else m.job = (if y.jOrd < y.ord then y.jnum else y.jnum - 1)
    bits ((s.pkg p).queue q').ctl 11 2 = bits x.ctl 11 2 → (s.pkg p).queue q' = y → y.graph = none → level.toNat ≤ 3 →
    y.openG = [] → y.openP = [] → y.openJ = [] →
    tget (s.pkg p).nodes nid = some n → n.q = q' → n.status = none → named n → n.report = 0 → (s.pkg p).nodes.Pairwise (fun a b => a.1 ≠ b.1) →
    (∀ e ∈ (s.pkg p).nodes, e.1 ≠ nid → e.2.q = q' → e.2.status = none → ¬ named e.2) →
    (∀ e ∈ (s.pkg p).nodes, e.2.cancelled = false ∧ e.2.kind ≠ .copy ∧ e.2.depends nid = false) →
    (∀ e ∈ (s.pkg p).btes, ∀ o ∈ e.2, o.node ≠ some nid ∧ ∀ b, o.blk = some b → ∀ z, tget (s.pkg p).blocks b = some z → z.node ≠ nid) →
    (∀ e ∈ (s.pkg p).cores, ∀ o, e.2.eng.run = some o → ∀ z, tget (s.pkg p).blocks o.blk = some z → z.node ≠ nid) →
    (s.pkg p).blocks.Pairwise (fun a b => a.1 ≠ b.1) → y.got = [] → n.drains = [] →
    let bs := ((s.pkg p).blocks.filter (fun b => b.2.node == nid)).map (·.1)
    (∀ b z, tget (s.pkg p).blocks b = some z → z.node = nid → residentState z.state = false ∨ ∃ g ∈ (s.pkg p).groupsOf b, (s.pkg p).live g = true) →
    (∀ r ∈ (s.pkg p).pends, ∀ g, tget (s.pkg p).groups r.acc.gid = some g → g.blk ∈ bs → r.writes = false) →
    s.cbClear p n.asid ((s.pkg p).buffersOf bs) = true →
    let y' := { y with lcnt := y.lcnt + 1, failed := true }
    ∃ t, exec (.cancel tag level que label) s = .next t ∧ t.mem = s.mem ∧
      (∀ b, tget (t.pkg p).blocks b = (tget (s.pkg p).blocks b).filter (fun z => z.node != nid)) ∧
      (∀ m, tget (t.pkg p).nodes m = if m = nid then none else tget (s.pkg p).nodes m) ∧
      (t.pkg p).queue q' = (if q' = q then past units else id) (if level = 3 ∧ y.jOrd < y.ord then { y' with
        nest := y.nest ++ y.skipNest, skip := some .jobEnd, hold := none, got := [], parts := [],
        state := if y.hold.isSome then (if bit y.ctl 0 then 1 else 0) else y.state } else y')

/-- How a node ends, and CANCEL (R54, R59). -/
def Obligations.NodesEnd : Prop := Claim.NodeEnd ∧ Claim.CancelPacket

/-- CHANNEL (R49, R219, R220): an allocate that meets every condition sets up the channel's send state here and its receive state at
the peer, and writes its number; one that does not writes 0xFFFF_FFFF and changes nothing else. A free of a channel with nothing
uncounted releases both states and writes the number, one with something outstanding waits, and one of a channel that the context
does not hold writes 0xFFFF_FFFF.
Both packages act in the one step by the model's reading (log 32). -/
def Obligations.ChannelPackets : Prop :=
  ∀ (s : State) (p q units : Nat) (x : Queue) (c : Ctx) (tag : Word) (mode peer : Byte) (ch : BitVec 16) (result journal : DWord) (jsize : Byte),
    Reads s p q units x c →
    let asid := bits x.ctl 11 2
    let put := fun (s : State) (v : Nat) (t : State) => cpBound c result 4 .wr = true ∧ s.vaWrite p asid (vaOf result) (leBytes 4 v) = (.ok [], t)
    let key := 4096 * p + ch.toNat
    let need := fun (j : Bool) => if j then 16 + 256 * 1024 else 16
    (∀ j cp t n, n < 4096 → (s.snd p n).isNone = true → (ch.toNat = n ∨ ch = 0xFFFF ∧ ∀ m < n, (s.snd p m).isSome = true) → bit c.pkgs peer.toNat = true → peer.toNat ≠ p → thas s.pkgs peer.toNat = true →
      tget (s.pkg peer.toNat).ctxs asid = some cp → cp.killed = false → cp.schedUsed + need j ≤ cp.schedKiB * 1024 → (j = true → vaOf journal % 2 ^ jsize.toNat = 0) →
      let snd : Snd := { asid := asid, inc := c.inc, peer := peer.toNat, sent := 0, seq := 0, ack := 0, gen := 0, brk := false, jptr := journal,
                         jsize := if j then some jsize.toNat else none, jhead := 0, jtail := 0, jwait := none, kept := [] }
      let rcv : Rcv := { asid := asid, inc := cp.inc, journaled := j, last := 0, gen := 0, cur := 0, next := 0, mapc := [], mapn := [], tadopt := none,
                         shn := false, unr := false, held := [], heldAt := s.now, lastShort := s.now }
      let s1 := ((s.updPkg p (fun k => { k with chan := { k.chan with snd := tset k.chan.snd n snd } })).updPkg peer.toNat (fun k => { k with
        chan := { k.chan with rcv := tset k.chan.rcv (4096 * p + n) rcv } })).updCtx peer.toNat asid (fun c => { c with sched := tset c.sched (2 ^ 40 + (4096 * p + n)) (need j) })
      put s1 n t → exec (.channelAllocate tag j peer ch result journal jsize) s = .next (passed t p q units id)) ∧
    (∀ j t, ch.toNat < 4096 → ((s.snd p ch.toNat).isSome = true ∨ bit c.pkgs peer.toNat = false ∨ peer.toNat = p ∨ (j = true ∧ vaOf journal % 2 ^ jsize.toNat ≠ 0)) →
      put s 0xFFFFFFFF t → exec (.channelAllocate tag j peer ch result journal jsize) s = .next (passed t p q units id)) ∧
    (∀ y t, s.snd p ch.toNat = some y → y.asid = asid → (y.brk = true ∨ y.sent = 0 ∧ y.kept = []) → (s.pkg y.peer).chan.deps = [] →
      let s1 := ((s.updPkg p (fun k => { k with chan := { k.chan with snd := tdel k.chan.snd ch.toNat } })).updPkg y.peer (fun k => { k with
        chan := { k.chan with rcv := tdel k.chan.rcv key } })).updCtx y.peer asid (fun c => { c with sched := tdel c.sched (2 ^ 40 + key) })
      put s1 ch.toNat t → exec (.channelFree tag mode peer ch result journal jsize) s = .next (passed t p q units id)) ∧
    (∀ y, s.snd p ch.toNat = some y → y.asid = asid → y.brk = false → (y.sent ≠ 0 ∨ y.kept ≠ []) →
      exec (.channelFree tag mode peer ch result journal jsize) s = .next (s.updQueue p q (fun x => { x with hold := some (.chanFree ch.toNat), state := 2 }))) ∧
    (∀ t, (∀ y, s.snd p ch.toNat = some y → y.asid ≠ asid) → put s 0xFFFFFFFF t →
      exec (.channelFree tag mode peer ch result journal jsize) s = .next (passed t p q units id))

/-- Every agent that a kill of the package's context asks. -/
def Sys2Proof.Claim.asked (s : State) (pkgs : BitVec 16) : List Agent :=
  (((List.range 16).filter (fun i => bit pkgs i && thas s.pkgs i)).map (fun i =>
    (agentsOf s.part i).filter (fun a => !((s.pkg i).plat.deadDies.contains (a.die s.part))))).flatten

/-- KILL_CONTEXT and RECLAIM_FENCE (R49, R231, R233, R235): a kill of a live context takes the next incarnation, holds the ASID's
reclaim pending, ends the context's work in the package and asks every agent of the context's packages; the fence holds its
queue until the ASID's reclaim counter has moved. A kill of an ASID without a live context completes at once. A function may name
only its own contexts. -/
def Sys2Proof.Claim.KillPackets : Prop :=
  ∀ (s : State) (p q units : Nat) (x : Queue) (c : Ctx) (tag : Word) (asid : BitVec 16) (report : DWord) (preserve : Bool), Reads s p q units x c →
    let a := asid.toNat
    let stopped := fun (e : Nat) => s.updQueue p q (fun x => { x with state := 3, err := e, hold := none, got := [], parts := [], rp := x.rd })
    ((s.pkg p).ownerFn a ≠ x.own →
      exec (.killContext preserve tag asid report) s = .next (stopped 7) ∧ exec (.reclaimFence tag asid) s = .next (stopped 7)) ∧
    ((s.pkg p).ownerFn a = x.own →
      (∀ k, tget (s.pkg p).ctxs a = some k → k.killed = false → ((s.pkg p).recl a).pending = false → a ≠ bits x.ctl 11 2 → x.state ≠ 3 →
        let inc := if k.inc < 255 then k.inc + 1 else 1
        let kill : Kill := { inc := inc, preserve := preserve, report := report, tag := tag, rq := q, pkgs := k.pkgs, acks := [], reports := [],
                             lastAdv := s.now, quiet := s.now }
        let s1 := s.updPkg p (fun y => { y with
          kills := tset y.kills a kill, reclaim := tset y.reclaim a { y.recl a with pending := true, inc := inc }, adopted := tset y.adopted (.cp p, a) inc })
        let s2 := s1.killIn p a
        exec (.killContext preserve tag asid report) s = .next (passed ((asked s2 k.pkgs).foldl
          (fun s w => s.send (.cp p) w a inc noKey 0 (.incadv inc preserve)) s2) p q units id)) ∧
      ((∀ k, tget (s.pkg p).ctxs a = some k → k.killed = true) → ((s.pkg p).recl a).pending = false → report = 0 → x.state ≠ 3 →
        exec (.killContext preserve tag asid report) s = .next (passed (s.updPkg p (fun y => { y with reclaim := tset y.reclaim a { y.recl a with
          cnt := (y.recl a).cnt + 1, inc := if (y.recl a).inc < 255 then (y.recl a).inc + 1 else 1 } })) p q units id)) ∧
      (((s.pkg p).recl a).pending = true → report = 0 → x.state ≠ 3 → exec (.killContext preserve tag asid report) s = .next (passed s p q units id)) ∧
      ((∀ b n, x.hold ≠ some (.fence b n)) → exec (.reclaimFence tag asid) s = .next (s.updQueue p q (fun x => { x with
        hold := some (.fence a ((s.pkg p).recl a).cnt.toNat), state := 2 }))) ∧
      (∀ n, x.hold = some (.fence a n) → ((s.pkg p).recl a).cnt.toNat ≠ n → exec (.reclaimFence tag asid) s = .next (passed s p q units id)))

/-- What step 2 of R233 leaves of a context in one package: no block, transfer or log entry of it, its queues stopped with error
0x06 and QRP where it was; the queues of other contexts read on. -/
def Sys2Proof.Claim.KillStopsContext : Prop :=
  ∀ (s : State) (p asid : Nat) (c : Ctx), tget (s.pkg p).ctxs asid = some c →
    let t := s.killIn p asid
    (∃ c', tget (t.pkg p).ctxs asid = some c' ∧ c'.killed = true) ∧
      (∀ b ∈ (t.pkg p).blocks, ∀ n, tget (s.pkg p).nodes b.2.node = some n → n.asid ≠ asid) ∧
      (∀ q < Config.queues, let x := (s.pkg p).queue q
        let y := (t.pkg p).queue q
        y.rd = x.rd ∧ y.rp = x.rp ∧ y.ctl = x.ctl ∧ if bits x.ctl 11 2 = asid then y.state = 3 ∧ y.err = 6 ∧ y.hold = none else y.state = x.state) ∧
      (∀ e ∈ (t.pkg p).btes, ∀ o ∈ e.2, o.asid ≠ asid) ∧ ∀ o ∈ (t.pkg p).olog, o.asid ≠ asid

/-- The kill's messages and timers (R231 to R236): an agent that an INCADV reaches adopts the incarnation, drops what it holds of
the context and answers twice; the asking package notes each answer, asks again after 16,384 of its cycles whoever is missing,
and, one lifetime bound after the last answer, advances the reclaim counter in every package of the context.
That an agent whose report is missing is asked again is the model's reading (log 34). -/
def Sys2Proof.Claim.KillSequence : Prop :=
  ∀ (s : State) (p asid : Nat) (m : Msg),
    (∀ inc preserve, s.cur = .message m → m.body = .incadv inc preserve →
      let a := m.dst
      let answer := fun (t : State) => (t.send a m.src m.asid inc noKey 0 (.incack inc a)).send a m.src m.asid inc noKey 0 (.flushReport inc a)
      (s.agentInc a m.asid = some inc → exec .incadv s = .next (answer s)) ∧
      (s.agentInc a m.asid ≠ some inc → (∀ c, a ≠ .cp c) → exec .incadv s = .next (answer
        ((s.updPkg a.pkg (fun k => { k with adopted := tset k.adopted (a, m.asid) inc })).killAgent a m.asid inc preserve))) ∧
      (∀ c, s.agentInc a m.asid ≠ some inc → a = .cp c → exec .incadv s = .next (answer
        (((s.updPkg c (fun k => { k with adopted := tset k.adopted (a, m.asid) inc })).killIn c m.asid).updPkg c (fun k => { k with
          reclaim := tset k.reclaim m.asid { k.recl m.asid with pending := true, inc := inc } }))))) ∧
    (∀ x who, s.cur = .message m → m.dst.pkg = p → m.asid = asid → tget (s.pkg p).kills asid = some x →
      (m.body = .incack x.inc who → exec .incack s = .next (s.updPkg p (fun k => { k with
        kills := tset k.kills asid { x with acks := addOnce x.acks who, quiet := s.now } }))) ∧
      (m.body = .flushReport x.inc who → exec .flushCompleteReport s = .next (s.updPkg p (fun k => { k with
        kills := tset k.kills asid { x with reports := addOnce x.reports who, quiet := s.now } })))) ∧
    (∀ x, tget (s.pkg p).kills asid = some x → x.lastAdv + 16384 * Config.tickCp ≤ s.now →
      exec (.incadvRepeat p asid) s = .next (((asked s x.pkgs).filter (fun a => !(x.acks.contains a && x.reports.contains a))).foldl
        (fun s w => s.send (.cp p) w asid x.inc noKey 0 (.incadv x.inc x.preserve))
        (s.updPkg p (fun k => { k with kills := tset k.kills asid { x with lastAdv := s.now } })))) ∧
    (∀ x, tget (s.pkg p).kills asid = some x → (∀ a ∈ asked s x.pkgs, a ∈ x.acks ∧ a ∈ x.reports) → x.quiet + Config.lifetime ≤ s.now → x.report = 0 →
      exec (.killComplete p asid) s = .next (((List.range 16).filter (fun i => bit x.pkgs i && thas s.pkgs i)).foldl
        (fun s i => s.updPkg i (fun k => { k with reclaim := tset k.reclaim asid { k.recl asid with cnt := (k.recl asid).cnt + 1, pending := false, inc := x.inc } }))
        (s.updPkg p (fun k => { k with kills := tdel k.kills asid })))) ∧
    (∀ n key inc preserve, s.killAgent (.core p n) asid inc preserve = s.killAgent (.core p n) asid inc false ∧
      (key.asid = asid → tget ((s.killAgent (.core p n) asid inc preserve).pkg p |>.core n).l1 key = none))

/-- KILL_CONTEXT and RECLAIM_FENCE from the packet to the end of the sequence (R49, R231 to R236). -/
def Obligations.KillSequenceRuns : Prop := Claim.KillPackets ∧ Claim.KillStopsContext ∧ Claim.KillSequence

/-- A packet that was held acts again when what it waits for may have come (R45, R49, R52, R55, R235): the same operation that ran
when it was read, on the packet that now stands at the read pointer; so a WAIT whose counter meets its condition is consumed. -/
def Obligations.HeldPackets : Prop :=
  ∀ (s : State) (p q units : Nat) (x : Queue) (c : Ctx) (h : QHold) (i : Instr) (d : PktDef), (s.pkg p).queue q = x → x.hold = some h → x.state = 2 →
    (s.pkg p).plat.d3hot = false → tget (s.pkg p).ctxs (bits x.ctl 11 2) = some c → c.error = false → c.killed = false →
    s.ringPacket p q = .run i units → pktOf i = some d →
    let again := Host.Outcome.next (packetWith p q units i d.inGraph d.drains d.body s)
    (h = .wait → exec (.waitMet p q) s = again) ∧ (∀ a n, h = .fence a n → exec (.reclaimFenceMet p q) s = again) ∧
    (h = .admission → exec (.admissionResumes p q) s = again) ∧ (h = .drain → exec (.packetDrainMet p q) s = again) ∧
    (∀ ch, h = .chanFree ch → exec (.channelFreeComplete p q) s = again) ∧
    (∀ s', s'.cur = .packet p q units → exec i s' = .next (packetWith p q units i d.inGraph d.drains d.body s')) ∧
    (∀ nodrain tag cond counter addr val, i = .wait nodrain tag 0 cond counter 0xFF addr val → h = .wait → x.skip = none → x.graph = none →
      thas s.pkgs p = true →
      let v := if counter = 0 then x.lcnt else if counter = 1 then x.gcnt else if counter = 2 then x.pcnt else x.jcnt
      condHolds cond v.toNat val.toNat = true → exec (.waitMet p q) s = .next (passed s p q units id))

/-- The function's window answers and holds the queue. -/
def Sys2Proof.Claim.mayWrite (s : State) (p fn q : Nat) (x : Queue) : Prop :=
  thas s.pkgs p = true ∧ fn < 16 ∧ (s.pkg p).plat.ready = true ∧ (s.pkg p).plat.d3hot = false ∧ q < Config.queues ∧ (s.pkg p).queue q = x ∧ x.own = fn

/-- Reading starts, or resumes at QRP (R45): one that a LOOP holds begins that LOOP again, outside every skip and graph; a packet
that is held waits on. -/
def Sys2Proof.Claim.resumes (x : Queue) : Queue :=
  if x.hold.isSome ∨ x.rd = x.rp then x
  else { x with rd := x.rp, skip := none, graph := none, got := [], parts := [],
                nest := x.nest.takeWhile (fun n => match n with | .ifBlk _ => true | .loopBlk _ _ _ => false) }

/-- The queue registers (R44 to R46): EN from 0 to 1 checks the ring and starts or resumes reading at QRP, a stopped queue with SKIP one packet further
on; SIZE out of range, a misaligned ring or an absent context stops the queue with error 0x03, a killed one with 0x06; while EN is
1 only EN and SKIP change; a write of QBASEL names a new ring; a QWP beyond the ring stops the queue with error 0x04.
What a write meets on a running queue is the model's reading (log 46). -/
def Sys2Proof.Claim.QueueRegisters : Prop :=
  ∀ (s : State) (p fn q : Nat) (x : Queue) (v : Word), mayWrite s p fn q x →
    let set := fun (f : Queue → Queue) => s.updQueue p q f
    let ctl := v &&& 0x1FFFF
    let size := bits ctl 16 12
    let good := 12 ≤ size ∧ size ≤ 24 ∧ vaOf (x.baseh ++ x.basel) % 2 ^ size = 0
    let live := (x.ctl &&& ~~~ 3) ||| (v &&& 3)
    (bit v 0 = true → bit x.ctl 0 = false → ¬ (x.state = 3 ∧ bit v 1 = true) →
      (∀ c, good → tget (s.pkg p).ctxs (bits ctl 11 2) = some c → c.killed = false →
        exec (.qctlEnable p fn q v) s = .next (set (fun x => { resumes x with ctl := ctl, state := if x.hold = none ∧ c.error = false then 1 else 2 }))) ∧
      (∀ c, good → tget (s.pkg p).ctxs (bits ctl 11 2) = some c → c.killed = true →
        exec (.qctlEnable p fn q v) s = .next (set (fun x => { resumes x with ctl := ctl, state := 3, err := 6, hold := none, got := [], parts := [] }))) ∧
      (¬ good ∨ tget (s.pkg p).ctxs (bits ctl 11 2) = none →
        exec (.qctlEnable p fn q v) s = .next (set (fun x => { resumes x with ctl := ctl, state := 3, err := 3, hold := none, got := [], parts := [] })))) ∧
    (bit v 0 = true → bit x.ctl 0 = true → exec (.qctlEnable p fn q v) s = .next (set (fun x => { x with ctl := live }))) ∧
    (∀ c, bit v 0 = true → bit x.ctl 0 = false → x.state = 3 → bit v 1 = true → good → tget (s.pkg p).ctxs (bits ctl 11 2) = some c →
      c.killed = false → c.error = false → x.hold = none →
      (x.err = 3 ∨ x.err = 4 ∨ x.err = 6 → exec (.qctlSkip p fn q v) s = .next (set (fun x => { resumes x with ctl := ctl, state := 1 }))) ∧
      (x.err ≠ 3 → x.err ≠ 4 → x.err ≠ 6 → ∀ hd, (set (fun x => { x with ctl := ctl })).ringRead p q (16 * (x.rp.toNat % 2 ^ (size - 4))) 16 = some hd →
        let len := (wordOf hd).toNat / 2 ^ 16
        let n := if 1 ≤ len ∧ x.rp.toNat % 2 ^ (size - 4) + len ≤ 2 ^ (size - 4) then len else 1
        exec (.qctlSkip p fn q v) s = .next (set (fun x => { resumes x with
          ctl := ctl, state := 1, rd := x.rp + BitVec.ofNat 32 n, rp := x.rp + BitVec.ofNat 32 n })))) ∧
    (bit v 0 = false →
      (bit x.ctl 0 = true → exec (.qctlDisable p fn q v) s = .next (set (fun x => { x with
        ctl := live, state := if x.state = 3 then 3 else if x.hold = none then 0 else 2 }))) ∧
      (bit x.ctl 0 = false → exec (.qctlDisable p fn q v) s = .next (set (fun x => { x with ctl := ctl })))) ∧
    (bit x.ctl 0 = false → exec (.qbaselWrite p fn q v) s = .next (set (fun x => { x with
      basel := v, wp := 0, rp := 0, rd := 0, nest := [], graph := none, skip := none, hold := none, got := [], parts := [], state := if x.state = 3 then 3 else 0 }))) ∧
    (bit x.ctl 0 = true → exec (.qbaselWrite p fn q v) s = .next s) ∧
    (12 ≤ bits x.ctl 16 12 → bits x.ctl 16 12 ≤ 24 →
      ((v - x.rp).toNat ≤ 2 ^ (bits x.ctl 16 12 - 4) → exec (.qwpWrite p fn q v) s = .next (set (fun x => { x with wp := v }))) ∧
      (2 ^ (bits x.ctl 16 12 - 4) < (v - x.rp).toNat →
        exec (.qwpWrite p fn q v) s = .next (set (fun x => { x with wp := v, state := 3, err := 4, hold := none, got := [], parts := [] }))))

/-! ## Contexts and the host window -/

/-- The function's window answers. -/
def Sys2Proof.Claim.window (s : State) (p fn : Nat) : Prop :=
  thas s.pkgs p = true ∧ fn < 16 ∧ (s.pkg p).plat.ready = true ∧ (s.pkg p).plat.d3hot = false

/-- A command of CTXCMD has ended with a status. -/
def Sys2Proof.Claim.cmdDone (s : State) (p fn : Nat) (v : Word) (status : BitVec 8) : State :=
  s.updPkg p (fun k => k.updFn fn (fun f => { f with ctxcmd := v, busy := false, status := status }))

/-- Creating and destroying contexts (R231, R243, R289, R290): a create reads its descriptor and both tables once, and the context
starts at the incarnation that the ASID's last reclaim left, with the values that the descriptor names; the status says which check
failed. A destroy needs a context of the function that was killed and reclaimed.
The order of the statuses is the model's (log 47), and so are reading the tables at the create (log 8) and the status of a create
whose descriptor or tables are read poisoned (log 112). -/
def Sys2Proof.Claim.ContextCommands : Prop :=
  ∀ (s : State) (p fn : Nat) (v : Word), window s p fn → ((s.pkg p).fn fn).busy = false →
    let k := s.pkg p
    let asid := bits v 11 2
    let f := k.fn fn
    let desc := f.ctxdpl.toNat + 2 ^ 32 * f.ctxdph.toNat
    let rd := s.readPhys p desc 256
    let s0 := rd.2.2
    let d := CtxDesc.ofBytes rd.1
    let tb := s0.readPhys p d.bounds 4096
    let tp := tb.2.2.readPhys p d.places 1024
    let clean := rd.2.1 = false ∧ tb.2.1 = false ∧ tp.2.1 = false
    let sound := desc % 256 = 0 ∧ areaOk s.part desc 256 = true ∧ d.ok s.part (s.pkgs.map (fun e => e.1)) p (k.coresInService s.part).length = true
    let free := (∀ c, tget k.ctxs asid = some c → c.killed = true) ∧ (k.recl asid).pending = false
    let fresh := fun (y : Pkg) => { y with adopted := y.adopted.filter (fun e => e.1.2 != asid) }
    (bits v 1 0 = 0 →
      (free → (k.ctxs.filter (fun e => e.1 != asid)).length < Config.maxContexts → sound → (d.flags = 1 → Config.hasCrypto s.part = true) → clean →
        let c : Ctx := {
          fn := fn, inc := (k.recl asid).inc, bounds := readBounds tb.1, places := readPlaces tp.1, root := d.root,
          schedKiB := d.schedKiB, save := d.save, pool := d.pool, poolKiB := if d.pool = 0 then 0 else d.poolKiB, trapPc := d.trapPc,
          trapEn := d.trapEn &&& 0x00017F3E, menc := d.flags == 1, pkgs := d.pkgs, scopes := [], weight := 4096, dThr := 230, tThr := 64, error := false,
          killed := false, haltedSince := none, sched := [], parkedKiB := 0, lastService := s.now, bp := [], stops := [] }
        exec (.contextCreate p fn v) s = .next (cmdDone (tp.2.2.updPkg p (fun y => { fresh y with
          ctxs := tset y.ctxs asid c, reclaim := tset y.reclaim asid { y.recl asid with owner := fn } })) p fn v 0)) ∧
      (¬ free → exec (.contextCreate p fn v) s = .next (cmdDone s0 p fn v 0x08)) ∧
      (free → Config.maxContexts ≤ (k.ctxs.filter (fun e => e.1 != asid)).length → exec (.contextCreate p fn v) s = .next (cmdDone s0 p fn v 0x09)) ∧
      (free → (k.ctxs.filter (fun e => e.1 != asid)).length < Config.maxContexts → ¬ sound → exec (.contextCreate p fn v) s = .next (cmdDone s0 p fn v 0x0A)) ∧
      (free → (k.ctxs.filter (fun e => e.1 != asid)).length < Config.maxContexts → sound → (d.flags = 1 → Config.hasCrypto s.part = true) → ¬ clean →
        exec (.contextCreate p fn v) s = .next (cmdDone tp.2.2 p fn v 0x0A)) ∧
      (free → (k.ctxs.filter (fun e => e.1 != asid)).length < Config.maxContexts → sound → d.flags = 1 → Config.hasCrypto s.part = false →
        exec (.contextCreate p fn v) s = .next (cmdDone s0 p fn v 0x04))) ∧
    (bits v 1 0 = 1 →
      (∀ c, tget k.ctxs asid = some c → c.fn = fn → c.killed = true → (k.recl asid).pending = false →
        exec (.contextDestroy p fn v) s = .next (cmdDone (s.updPkg p (fun y => { fresh y with ctxs := tdel y.ctxs asid })) p fn v 0)) ∧
      (∀ c, tget k.ctxs asid = some c → c.fn = fn → (c.killed = false ∨ (k.recl asid).pending = true) →
        exec (.contextDestroy p fn v) s = .next (cmdDone s p fn v 0x08)) ∧
      ((∀ c, tget k.ctxs asid = some c → c.fn ≠ fn) → exec (.contextDestroy p fn v) s = .next (cmdDone s p fn v 0x0B))) ∧
    (bits v 1 0 = 3 → exec (.ctxcmdReserved p fn v) s = .next (cmdDone s p fn v 0x0A)) ∧
    (bits v 1 0 = 2 →
      (∀ c, tget k.ctxs asid = some c → c.fn = fn → c.killed = false →
        exec (.rewriteTrapWords p fn v) s = .next (s.updPkg p (fun k => k.updFn fn (fun f => { f with ctxcmd := v, busy := true })))) ∧
      ((∀ c, tget k.ctxs asid = some c → c.killed = true ∨ c.fn ≠ fn) → exec (.rewriteTrapWords p fn v) s = .next (cmdDone s p fn v 0x0B)))

/-- The trap words are rewritten (R243, R289) once no group of the context is in its handler; an invalidation (R159, R291) drops the
translations of its page in every controller, of a context of the function alone.
That a write is ignored while an invalidation runs is the model's reading (log 48). -/
def Sys2Proof.Claim.WindowCommandsComplete : Prop :=
  ∀ (s : State) (p fn : Nat),
    let k := s.pkg p
    let f := k.fn fn
    (∀ c, f.busy = true → bits f.ctxcmd 1 0 = 2 → tget k.ctxs (bits f.ctxcmd 11 2) = some c → c.fn = fn → c.killed = false →
      (∀ g ∈ k.groupsOfCtx (bits f.ctxcmd 11 2), ∀ x, tget k.groups g = some x → x.handler = none) →
      let desc := f.ctxdpl.toNat + 2 ^ 32 * f.ctxdph.toNat
      let rd := s.readPhys p (desc + 64) 12
      let bs := rd.1
      let entry := BitVec.ofNat 64 (leNat (bs.take 8))
      let en := wordOf (bs.drop 8)
      let legal := rd.2.1 = false ∧ areaOk s.part (desc + 64) 12 = true ∧ (entry = 0 ∨ entry.toNat % 4 = 0) ∧ en &&& 0xFFFE0001 = 0
      (legal → exec (.trapWordsApplied p fn) s = .next (cmdDone (rd.2.2.updCtx p (bits f.ctxcmd 11 2) (fun c => { c with
        trapPc := entry, trapEn := en &&& 0x00017F3E })) p fn f.ctxcmd 0)) ∧
      (¬ legal → exec (.trapWordsApplied p fn) s = .next (cmdDone rd.2.2 p fn f.ctxcmd 0x0A))) ∧
    (∀ v, window s p fn → f.tlbBusy = false →
      exec (.tlbInvalidate p fn v) s = .next (s.updPkg p (fun k => k.updFn fn (fun f => { f with tlbivh := v, tlbBusy := true })))) ∧
    (f.tlbBusy = true →
      let asid := bits f.tlbia 9 0
      let va := (f.tlbivl.toNat + 2 ^ 32 * f.tlbivh.toNat) % 2 ^ 40 * 65536
      let cleared := fun (k : Pkg) => k.updFn fn (fun f => { f with tlbBusy := false })
      (k.ownerFn asid ≠ fn → exec (.tlbInvalidateComplete p fn) s = .next (s.updPkg p cleared)) ∧
      (k.ownerFn asid = fn → exec (.tlbInvalidateComplete p fn) s = .next ((s.updPkg p (fun k => { k with
        ctrls := k.ctrls.map (fun e => (e.1, { e.2 with tlb := e.2.tlb.filter (fun x => !(x.asid == asid && decide (x.vbase ≤ va) && decide (va < x.vbase + x.size))) })) })).updPkg p cleared)))

/-- The commands that a function gives through its window, and their completion (R159, R231, R243, R289 to R291). -/
def Obligations.WindowCommands : Prop := Claim.ContextCommands ∧ Claim.WindowCommandsComplete

/-! ## Fault and error queues, hang records and stall samples -/

/-- What a report queue and the records that wait for room become when a read pops the head (R291, R431). -/
def Sys2Proof.Claim.popped {α : Type} : List α → List α → List α × List α
  | [], ws => ([], ws)
  | _ :: xs, [] => (xs, [])
  | _ :: xs, w :: ws => (xs ++ [w], ws)

/-- The report queues (R161, R163, R291, R431): a read of the last word pops the head record, and one that waited for room
enters; a page that is resolved lets the accesses in the operand log go on (where the group is not resident, they stand ready
for its restore), a page that cannot be resolved costs the access and gives its thread cause 0x06.
The replay at once of a resident group's accesses is the model's reading (log 53). -/
def Sys2Proof.Claim.FaultQueues : Prop :=
  ∀ (s : State) (p fn : Nat), window s p fn →
    let k := s.pkg p
    let f := k.fn fn
    exec (.faultRecordPop p fn) s = .next (s.updFn p fn (fun f => { f with flt := (popped f.flt f.fltWait).1, fltWait := (popped f.flt f.fltWait).2 })) ∧
    exec (.errorRecordPop p fn) s = .next (s.updFn p fn (fun f => { f with errs := (popped f.errs f.errWait).1, errWait := (popped f.errs f.errWait).2 })) ∧
    (fn = 0 → exec (.retiredFramePop p) s = .next (s.updPkg p (fun k => { k with plat := { k.plat with rfq := k.plat.rfq.tail } }))) ∧
    (∀ v asid page o a, asid = bits f.fltres 10 1 → page = (f.fltrpl.toNat + 2 ^ 32 * v.toNat) % 2 ^ 40 →
      (∃ c, tget k.ctxs asid = some c ∧ c.fn = fn) → k.olog = [o] → o.asid = asid → o.waiting = true → o.accs = [a] → a.replayed = false → a.va / 65536 = page →
      a.op ≠ .fetch → o.gid ≤ noGroup → k.cpWrites = [] → k.chan.deps = [] → (∀ e ∈ k.queues, e.2.hold = none) → (∀ e ∈ k.chan.snd, e.2.jwait = none) →
      (bit f.fltres 0 = true → (∀ g b, tget k.groups o.gid = some g → tget k.blocks g.blk = some b → b.state = .saved ∨ b.state = .parked) →
        exec (.faultResolved p fn v) s = .next (s.updPkg p (fun k => { k with olog := [{ o with accs := [{ a with replayed := true }], waiting := false }] }))) ∧
      (∀ l, bit f.fltres 0 = false → s.loc p a.gid = some l → l.grp.alive = true → (∀ e ∈ k.btes, ∀ x ∈ e.2, x.unread = false) →
        exec (.faultUnresolvable p fn v) s = .next ((s.updPkg p (fun k => { k with olog := [] })).updGroup p a.gid (fun g =>
          { g.clearPend a.id with deferred := g.deferred ++ [{ lanes := allLanes, cause := 0x06, tpc := a.pc, taddr := a.ptr, lane := a.lane, whole := true }] }))))

/-- The number of a kind of wait in a hang record (R281, R431). -/
def Sys2Proof.Claim.waitNo : WaitKind → Option Nat
  | .bar => some 0 | .fe => some 1 | .qwt => some 2 | .mwt => some 3 | .ksgn => some 4 | .ckpt => some 5 | .bxw => some 6
  | .clin => some 7 | .table => some 9 | _ => none

/-- Hang watchdogs and stall samples (R281, R284): a wait that outlasts WDCTL.LIM writes one record, once; every M periods of 64
clocks a stalled group of a quadrant writes a profiling record with its name, PC, reason and the PC it blames. -/
def Sys2Proof.Claim.HangsAndStalls : Prop :=
  ∀ (s : State) (p g : Nat) (l : Loc), s.loc p g = some l → l.grp.halted = false → (∀ e ∈ (s.pkg p).groups, e.2.halted = false) →
    let k := s.pkg p
    let lim := bits k.plat.wdctl 15 0 * 65536
    (∀ h n, l.grp.holds = [h] → waitNo h.kind = some n → lim ≠ 0 → h.wdog + lim ≤ k.arith →
      (h.hung = false → exec (.hangRecord p g) s = .next
        ((s.updPkg p (fun k => k.report l.ctx.fn {
          w0 := BitVec.ofNat 32 (5 + 2 ^ 8 * l.asid + 2 ^ 31), w1 := BitVec.ofNat 32 (2 ^ 20 * n), va := 0, pc := h.addr,
          name := s.threadName p g (Mask.lowest h.lanes) })).updGroup p g (fun x => { x with holds := [{ h with hung := true }] }))) ∧
      (h.hung = true → exec (.hangRecord p g) s = .next s)) ∧
    (∀ quad m lin, k.groups = [(g, l.grp)] → l.grp.core = quad / 4 → l.grp.slot / 8 = quad % 4 → l.grp.alive = true → l.blk.state = .resident →
      m = bits k.plat.smpctl 31 16 → m ≠ 0 → tgetD (k.core (quad / 4)).stalls quad 0 + 64 * m ≤ k.arith →
      ∀ h reason blame, l.grp.holds = [h] → h.addr = l.grp.select.2.1 →
      (h.kind = .pending ∧ reason = 0 ∧ ((∃ r rest e, h.data = r :: rest ∧ l.grp.pend.find? (fun e => e.reg == r) = some e ∧ blame = e.pc) ∨
          h.data = [] ∧ blame = ((l.grp.pend.head?).map (fun e => e.pc)).getD h.addr) ∨ h.kind = .bar ∧ reason = 1 ∧ blame = h.addr ∨
        h.kind = .table ∧ reason = 2 ∧ blame = h.addr ∧ k.olog = []) →
      (k.plat.prwp.toNat + 32 + 2 ^ 32 - k.plat.prrp.toNat) % 2 ^ 32 ≤ 2 ^ k.plat.prsize.toNat →
      physOf s.part (k.plat.prbase.toNat + k.plat.prwp.toNat % 2 ^ k.plat.prsize.toNat) = .frame lin →
      let nm := s.threadName p g (Mask.lowest l.grp.select.2.2)
      ∃ t, exec (.stallSample p quad) s = .next t ∧
        t.mem = writeBytes s.mem (cellOf p lin) (leBytes 4 nm.n0.toNat ++ leBytes 4 nm.n1.toNat ++ leBytes 4 nm.n2.toNat ++ leBytes 7 h.addr.toNat ++
          leBytes 1 reason ++ leBytes 7 blame.toNat ++ leBytes 5 0) ∧
        (t.pkg p).plat = { k.plat with prwp := k.plat.prwp + 32 } ∧ tget ((t.pkg p).core (quad / 4)).stalls quad = some k.arith ∧ (t.pkg p).groups = k.groups)

/-- The report queues, hang watchdogs and stall samples (R161, R163, R281, R284, R291, R431). -/
def Obligations.FaultsAndHangs : Prop := Claim.FaultQueues ∧ Claim.HangsAndStalls

/-! ## The debugger -/

/-- A debugger is attached, by the function's window, to the context asid. -/
structure Sys2Proof.Claim.Attached (s : State) (p fn asid : Nat) (c : Ctx) : Prop where
  win : window s p fn
  att : bit ((s.pkg p).fn fn).dbgctl 10 = true ∧ bits ((s.pkg p).fn fn).dbgctl 9 0 = asid
  ctx : tget (s.pkg p).ctxs asid = some c ∧ c.fn = fn

/-- DBGTGT names lane n of the group g: the only group of its block number, launch id and place. -/
def Sys2Proof.Claim.Target (s : State) (p fn asid g n : Nat) (x : Group) (b : Block) : Prop :=
  let t := ((s.pkg p).fn fn).dbgtgt
  (s.pkg p).groups = [(g, x)] ∧ tget (s.pkg p).blocks x.blk = some b ∧ (∃ m, tget (s.pkg p).nodes b.node = some m ∧ m.asid = asid) ∧
    BitVec.ofNat 32 b.lid = t.n0 ∧ b.idx = t.n1.toNat % 2 ^ 24 ∧ bits t.n2 9 0 = 32 * x.gidx + n ∧ n < 32 ∧ bits t.n2 13 10 = p

/-- A command of DBGCMD ends with RES. -/
def Sys2Proof.Claim.dbgEnds (s : State) (p fn : Nat) (v : Word) (res : Nat) : State :=
  s.updFn p fn (fun f => { f with dbgcmd := v &&& 0x3F, dbgBusy := false, dbgRes := res })

/-- The commands of DBGCMD (R272, R273, R277 to R279): a halt stops its group with cause 0x14 and a stop record, a resume starts it
again past a breakpoint, a step lets one issue through and is busy until then, a cancel ends a step with RES 5; an absent thread
answers 1, a thread that is not halted 2, a reserved command 3, and a command with no debugger attached 4.
What a command meets while another is busy is the model's reading (log 36). -/
def Sys2Proof.Claim.DebugCommands : Prop :=
  ∀ (s : State) (p fn asid : Nat) (c : Ctx) (v : Word), Attached s p fn asid c →
    let k := s.pkg p
    let f := k.fn fn
    (f.dbgBusy = false →
      (∀ g n x b, Target s p fn asid g n x b →
        (bits v 3 0 = 1 → bits v 5 4 = 0 → x.alive = true → x.halted = false → c.stops.length < Config.stopQueue → c.stops ≠ [] →
          exec (.debugHalt p fn v) s = .next (dbgEnds ((s.updCtx p asid (fun c => { c with stops := c.stops ++ [{
            name := s.threadName p g (Mask.lowest x.select.2.2), cause := 0x14, pc := x.select.2.1, lanes := x.select.2.2 }] })).updGroup p g
              (fun x => { x with halted := true, haltedAt := k.arith, step := none })) p fn v 0)) ∧
        (bits v 3 0 = 2 → bits v 5 4 = 0 → x.halted = true → x.holds = [] →
          exec (.debugResume p fn v) s = .next (dbgEnds (s.updGroup p g (fun x => { x with
            halted := false, haltedAt := k.arith, skipBp := true, step := none, fair := { x.fair with cnt := 0 }, readySince := s.turns })) p fn v 0)) ∧
        (∀ st, st = Step.thread n ∧ bits v 3 0 = 3 ∨ st = Step.group ∧ bits v 3 0 = 4 →
          let run := if st = .group then exec (.stepGroup p fn v) s else exec (.stepThread p fn v) s
          (x.halted = true → (x.lane n).live = true → run = .next ((s.updGroup p g (fun x => { x with step := some st, skipBp := true, retries := 0 })).updFn p fn
            (fun f => { f with dbgcmd := v &&& 0x3F, dbgBusy := true, dbgRes := 0 }))) ∧
          (x.halted = false → run = .next (dbgEnds s p fn v 2)))) ∧
      (k.groups = [] → (bits v 3 0 = 1 → bits v 5 4 ≠ 3 → exec (.debugHalt p fn v) s = .next (dbgEnds s p fn v 1)) ∧
        (bits v 3 0 = 3 → exec (.stepThread p fn v) s = .next (dbgEnds s p fn v 1))) ∧
      (bits v 3 0 = 5 → exec (.cancelStep p fn v) s = .next (dbgEnds s p fn v 0))) ∧
    (f.dbgBusy = true → bits v 3 0 = 5 → ∃ t, exec (.cancelStep p fn v) s = .next t ∧
      (t.pkg p).fn fn = { f with dbgcmd := v &&& 0x3F, dbgBusy := false, dbgRes := 5 } ∧ t.mem = s.mem ∧
      ∀ g x, tget k.groups g = some x → ∃ y, tget (t.pkg p).groups g = some y ∧
        y = if k.asidOfGroup g = some asid then { x with step := none } else x) ∧
    (bits v 3 0 = 0 ∨ 5 < bits v 3 0 → exec (.dbgcmdReserved p fn v) s = .next (s.updFn p fn (fun f => { f with dbgcmd := v &&& 0x3F, dbgRes := 3 }))) ∧
    (∀ s', s' = s.updFn p fn (fun f => { f with dbgctl := f.dbgctl &&& 0x3FF }) →
      exec (.dbgcmdReserved p fn v) s' = .next (s'.updFn p fn (fun f => { f with dbgcmd := v &&& 0x3F, dbgRes := 4 }))) ∧
    exec (.stopRecordPop p fn) s = .next (s.updCtx p asid (fun c => { c with stops := c.stops.tail })) ∧
    (bit v 10 = false → c.haltedSince = none → k.halted = false → ∃ t, exec (.debugDetach p fn v) s = .next t ∧ t.mem = s.mem ∧
      (t.pkg p).fn fn = { f with dbgctl := (f.dbgctl &&& 0x3FF) ||| (v &&& 0x1C00), dbgBusy := false, dbgRes := if f.dbgBusy then 5 else f.dbgRes } ∧
      ∀ g x, tget k.groups g = some x → ∃ y, tget (t.pkg p).groups g = some y ∧ y.lanes = x.lanes ∧
        y.halted = (if k.asidOfGroup g = some asid then false else x.halted))

/-- DBGDATA (R280): of a halted thread, the registers, predicates, PC, flags and handler words that DBGSEL selects are read and,
but for the last, written; a thread that is not halted reads 0 and answers RES 2.
The indices of items with several words are the model's reading (log 35). -/
def Sys2Proof.Claim.HaltedState : Prop :=
  ∀ (s : State) (p fn asid g n : Nat) (c : Ctx) (x : Group) (b : Block) (m : Node) (cl : Cluster) (item idx : Nat),
    Attached s p fn asid c → Target s p fn asid g n x b → tget (s.pkg p).nodes b.node = some m → tget (s.pkg p).clusters b.cluster = some cl →
    let f := (s.pkg p).fn fn
    item = bits f.dbgsel 23 16 → idx = bits f.dbgsel 15 0 →
    let read := fun (w : Word) => exec (.haltedStateRead p fn) s = .next (s.updFn p fn (fun f => { f with dbgdata := w }))
    let write := fun (v : Word) (new : Lane → Lane) => exec (.haltedStateWrite p fn v) s = .next (s.updGroup p g (fun y => y.onLanes (laneBit n) (fun _ l => new l)))
    (x.halted = false → exec (.haltedStateRead p fn) s = .next (s.updFn p fn (fun f => { f with dbgdata := 0, dbgRes := 2 })) ∧
      ∀ v, exec (.haltedStateWrite p fn v) s = .next (s.updFn p fn (fun f => { f with dbgRes := 2 }))) ∧
    (x.halted = true →
      (item = 1 → idx < m.desc.regs → read (x.v n idx) ∧ ∀ v, write v (fun l => l.setV idx v)) ∧
      (item = 1 → m.desc.regs ≤ idx → read 0 ∧ ∀ v, exec (.haltedStateWrite p fn v) s = .next s) ∧
      (item = 2 → read (BitVec.ofNat 32 ((x.lane n).p.toNat + 128)) ∧ ∀ v, write v (fun l => { l with p := v.extractLsb' 0 7 })) ∧
      (item = 3 → idx = 0 → read (BitVec.ofNat 32 (x.lane n).pc.toNat) ∧
        ∀ v, v.toNat % 4 = 0 → write v (fun l => { l with pc := BitVec.ofNat 56 (l.pc.toNat / 2 ^ 32 * 2 ^ 32 + v.toNat) })) ∧
      (item = 3 → idx = 1 → read (BitVec.ofNat 32 ((x.lane n).pc.toNat / 2 ^ 32)) ∧
        ∀ v, write v (fun l => { l with pc := BitVec.ofNat 56 (v.toNat % 2 ^ 24 * 2 ^ 32 + l.pc.toNat % 2 ^ 32) })) ∧
      (item = 4 → read (BitVec.ofNat 32 (x.lane n).ff.toNat) ∧ ∀ v, write v (fun l => { l with ff := v.extractLsb' 0 5 })) ∧
      (∀ h, item = 0x0A → x.handler = some h →
        (idx = 1 → read (BitVec.ofNat 32 (h.tcause + 2 ^ 31))) ∧ (idx = 2 → read (BitVec.ofNat 32 (h.tpc.toNat % 2 ^ 32))) ∧
        (idx = 4 → read (BitVec.ofNat 32 (h.taddr.toNat % 2 ^ 32))) ∧ (idx = 5 → read (BitVec.ofNat 32 (h.taddr.toNat / 2 ^ 32)))))

/-- The debug commands and the halt of threads (R271 to R280). -/
def Obligations.DebuggerAtWork : Prop := Claim.DebugCommands ∧ Claim.HaltedState

/-! ## Window registers and the platform -/

/-- Writes to the window (R22, R45, R267, R272, R276, R285 to R288, R291): a register takes the bits that it implements, one of which
the owner alone may write, and every other write of the range is ignored; a write that is not 4 bytes at a multiple of 4 is an
unsupported request. -/
def Sys2Proof.Claim.WindowWrites : Prop :=
  ∀ (s : State) (p fn : Nat) (v : Word), window s p fn →
    let k := s.pkg p
    let write := fun (off bytes : Nat) (t : State) => exec (.registerWrite p fn off bytes v) s = .next t
    let fnw := fun (off : Nat) (f : Fn → Fn) => write off 4 (s.updFn p fn f)
    let plat := fun (off : Nat) (f : Plat → Plat) => write off 4 (if fn = 0 then s.updPkg p (fun k => { k with plat := f k.plat }) else s)
    (∀ off bytes, off % 4 ≠ 0 ∨ bytes ≠ 4 → write off bytes (s.updPkg p (fun k => { k with plat := { k.plat with unsupported := k.plat.unsupported + 1 } }))) ∧
    write 0 4 s ∧ write 0x204 4 s ∧ write 0x30C 4 s ∧ write 0x20000 4 s ∧
    fnw 0x304 (fun f => { f with ctxdpl := v }) ∧ fnw 0x308 (fun f => { f with ctxdph := v }) ∧ fnw 0x310 (fun f => { f with rclsel := v &&& 0x3FF }) ∧
    ((k.fn fn).tlbBusy = false → fnw 0x400 (fun f => { f with tlbia := v &&& 0x3FF }) ∧ fnw 0x404 (fun f => { f with tlbivl := v })) ∧
    fnw 0x430 (fun f => { f with fltres := v &&& 0x7FF }) ∧ fnw 0x434 (fun f => { f with fltrpl := v }) ∧
    fnw 0x8008 (fun f => { f with dbgtgt := { f.dbgtgt with n0 := v } }) ∧ fnw 0x800C (fun f => { f with dbgtgt := { f.dbgtgt with n1 := v &&& 0xFFFFFF } }) ∧
    fnw 0x8010 (fun f => { f with dbgtgt := { f.dbgtgt with n2 := v &&& 0x3FFF } }) ∧ fnw 0x8030 (fun f => { f with dbgsel := v }) ∧
    (bit (k.fn fn).dbgctl 10 = false → fnw 0x8000 (fun f => { f with dbgctl := v &&& 0x1FFF })) ∧
    plat 0x200 (fun x => { x with ev := x.ev &&& ~~~ v.extractLsb' 1 5 }) ∧ plat 0x214 (fun x => { x with scrub := max 1 (min 168 (bits v 7 0)) }) ∧
    plat 0x218 (fun x => { x with wdctl := v &&& 0xFFFF }) ∧ plat 0x238 (fun x => { x with smpctl := v }) ∧ plat 0x230 (fun x => { x with prrp := v }) ∧
    plat 0x24C (fun x => { x with pwrlim := max 1000 (min 2200 (bits v 11 0)) }) ∧
    (∀ q < Config.queues, write (0x1008 + 64 * q) 4 (if (k.queue q).own = fn ∧ bit (k.queue q).ctl 0 = false then s.updQueue p q (fun x => { x with baseh := v })
      else if (k.queue q).own = fn then s.updQueue p q id else s)) ∧
    (∀ c, c < Config.controllers s.part → fn = 0 → exec (.trselWrite p c v) s = .next (s.updCtrl p c (fun t => { t with
      trsel := bits v 7 0, latched := (tget t.trace (bits v 7 0)).getD { w0 := 0, w1 := 0, w2 := 0, w3 := 0 } })))

/-- Writes to the registers of a window (R22, R44 to R46, R267, R272, R276, R285 to R291). -/
def Obligations.WindowRegisters : Prop := Claim.QueueRegisters ∧ Claim.WindowWrites

/-- Nothing runs in a package: no context, queue, node, block, group or waiting access. -/
def Sys2Proof.Claim.Blank (k : Pkg) : Prop :=
  k.ctxs = [] ∧ k.queues = [] ∧ k.nodes = [] ∧ k.blocks = [] ∧ k.groups = [] ∧ k.olog = [] ∧ k.pends = []

/-- Power, boot and measurement (R17, R18, R292, R293, R295, R296): a boot whose measurements agree ends ready at stage 4 with memory
zeroed, without the dies that fail or have failed before, one whose firmware fails ends with ERR; a die at 110 degrees stops its package; a throttle
step moves the clock by 50 MHz; D3hot holds MSI-X messages, which D0 sends; GET_MEASUREMENTS answers its block.
READY after a trip is the model's reading (log 20), the digests are free values (log 10), and what a boot clears is log 71. -/
def Obligations.PlatformEvents : Prop :=
  ∀ (s : State) (p : Nat), thas s.pkgs p = true →
    (∀ o, let passes := fun (d : Nat) => bit o.dieOk d && !bit (s.pkg p).plat.faild d
      ∃ t, exec (.powerOn p o) s = .next t ∧ t.now = s.now ∧ t.part = s.part ∧ (∀ m ∈ t.fabric, m.dst.pkg ≠ p) ∧
      (∀ a < 2 ^ 56, readByte t.mem (p * 2 ^ 56 + a) = 0) ∧ (Memory.wf s.mem = true → ∀ a, a / 2 ^ 56 ≠ p → readByte t.mem a = readByte s.mem a) ∧
      Blank (t.pkg p) ∧
      (o.firmwareOk = true → passes 0 = true → (t.pkg p).plat.ready = true ∧ (t.pkg p).plat.stage = 4 ∧ (t.pkg p).plat.err = false ∧
        ∀ d < 4, bit (t.pkg p).plat.faild d = (decide (d < Config.computeDies s.part) && !passes d)) ∧
      (o.firmwareOk = false ∨ passes 0 = false → (t.pkg p).plat.ready = false ∧ (t.pkg p).plat.err = true)) ∧
    (∀ die, die < Config.computeDies s.part →
      (110 ≤ bits (s.pkg p).plat.teltmp (8 * die + 7) (8 * die) → ∃ t, exec (.thermalTrip p die) s = .next t ∧ t.mem = s.mem ∧ Blank (t.pkg p) ∧
        (t.pkg p).plat.err = true ∧ (t.pkg p).plat.ready = false ∧ (t.pkg p).plat.stage = (s.pkg p).plat.stage) ∧
      (bits (s.pkg p).plat.teltmp (8 * die + 7) (8 * die) < 110 → exec (.thermalTrip p die) s = .next s)) ∧
    (∀ power thermal : Bool, (power = true ∨ thermal = true → exec (.throttleStep p true power thermal) s = .next (s.updPkg p (fun k =>
        { k with plat := { k.plat with step := min 15 (k.plat.step + 1), pwr := power, thm := thermal } }))) ∧
      exec (.throttleStep p false power thermal) s = .next (s.updPkg p (fun k =>
        { k with plat := { k.plat with step := k.plat.step - 1, pwr := power, thm := thermal } }))) ∧
    exec (.d3hotEntry p) s = .next (s.updPkg p (fun k => { k with plat := { k.plat with d3hot := true } })) ∧
    exec (.d0Return p) s = .next (s.updPkg p (fun k => { k with plat := { k.plat with
      d3hot := false, msix := k.plat.msix ++ k.plat.msixHeld, msixHeld := [] } })) ∧
    (∀ idx ∈ [1, 2, 6, 7], exec (.getMeasurements p idx) s = .next (s.updPkg p (fun k => { k with plat := { k.plat with
      answer := some { idx := idx, digest := Config.digest (16 + 16 * p + idx) (if idx = 7 then k.plat.retLog.length else 0),
                       log := if idx = 7 then k.plat.retLog else [] } } })))

/-! ## Links -/

/-- The link of port n leads to port n' of another package, and both ends exist. -/
def Sys2Proof.Claim.Linked (s : State) (p n q n' : Nat) (a b : Port) : Prop :=
  p ≠ q ∧ tget (s.pkg p).ports n = some a ∧ tget (s.pkg q).ports n' = some b ∧ a.peer = q ∧ a.peerPort = n' ∧ b.peer = p ∧ b.peerPort = n

/-- The port after the link to the port u has gone down (R212): its flits are lost, and a marker among them counts as received at
both ends. -/
def Sys2Proof.Claim.gone (u t : Port) : Port :=
  let marks := fun (x : Port) => x.replay.any (fun f => f.marker)
  let t' := if marks t then { t with oldSlot := false, switching := t.kreq, nxv := t.nxv || t.kreq, kreq := false } else t
  { t' with up := false, replay := [], unsent := 0, txSeq := 0, rxSeq := 0, fails := 0, wantReplay := false, credits := 0, part := 0,
            rxSlot := t.rxSlot != marks u }

/-- Flits and links (R20, R184, R211 to R215): a flit that arrives whole is accepted, acknowledged and its packets go on; one that
fails its test asks for a replay, which the sender starts at the failed flit; after eight failures it is dropped and the link
retrains; training makes both ends usable again unless their parts differ, and its third failure retires the port. 2^31 flits load a new
key of the direction, at 0xFFFF_FFFF data stops and its packets detour, and a packet too long in its queue is discarded.
The acknowledgement in the step of the delivery is the model's choice (log 19), and so are the bytes of a packet (log 16) and the wiring of ports (log 18). -/
def Obligations.LinkEvents : Prop :=
  ∀ (s : State) (p n q n' : Nat) (a b : Port), Linked s p n q n' a b →
    (∀ m bad auth, a.up = true → b.unsent = 0 → b.replay = [] → b.egress = [m] → b.part = 0 → m.bytes ≤ 228 → (b.switching = false ∨ b.nxv = false) →
      (b.enc = false ∨ b.lkcnt < 0xFFFFFFFF) → m.dst.pkg = p → a.rxSeq = b.txSeq → a.wantReplay = false →
      (bad = false → (a.enc = true → auth = false) → ∃ t a' b', exec (.flit p n bad auth) s = .next t ∧ t.mem = s.mem ∧
        t.fabric = s.fabric ++ [{ m with since := s.now }] ∧ tget (t.pkg p).ports n = some a' ∧ tget (t.pkg q).ports n' = some b' ∧
        a' = { a with rxSeq := (a.rxSeq + 1) % 2 ^ 24, fails := 0, credits := a.credits + 1 } ∧
        b' = { b with egress := [], credits := 0, txSeq := (b.txSeq + 1) % 2 ^ 24, lkcnt := if b.enc then min (b.lkcnt + 1) 0xFFFFFFFF else b.lkcnt, ivCount := b.ivCount + 1 }) ∧
      (bad = true ∨ a.enc = true ∧ auth = true → ∃ t a' b' f, exec (.flit p n bad auth) s = .next t ∧ t.fabric = s.fabric ∧
        tget (t.pkg p).ports n = some a' ∧ tget (t.pkg q).ports n' = some b' ∧ b'.egress = [] ∧ b'.replay = [f] ∧ f.pkts = [{ msg := m, bytes := m.bytes, last := true }] ∧ f.seq = a.rxSeq ∧
        a'.fails = a.fails + 1 ∧ a'.wantReplay = true ∧ a'.rxSeq = a.rxSeq ∧
        a'.auth = if a.enc = true ∧ auth = true ∧ bad = false ∧ a.auth < 0xFFFFFFFF then a.auth + 1 else a.auth)) ∧
    (a.up = true → b.wantReplay = true → a.unsent < a.replay.length → a.repl < 0xFFFFFFFF → exec (.replayRequest p n) s = .next (s.updPort p n (fun t => { t with
      replay := t.replay.map (fun f => { f with replay := true }), unsent := t.replay.length, repl := t.repl + 1 }))) ∧
    (∀ f rest, a.up = true → 8 ≤ b.fails → a.replay = f :: rest → f.marker = false → (∀ x, f.pkts.getLast? = some x → x.last = true) → a.drop < 0xFFFFFFFF →
      exec (.flitDrop p n) s = .next ((s.updPort p n (fun t => { t with
        up := false, drop := t.drop + 1, replay := rest.map (fun f => { f with replay := true }), unsent := rest.length })).updPort q n' (fun u => { u with
          up := false, fails := 0, wantReplay := false, rxSeq := (u.rxSeq + 1) % 2 ^ 24 }))) ∧
    (a.up = true → a.egress = [] → b.egress = [] → exec (.linkDown p n) s = .next ((s.updPort p n (gone b)).updPort q n' (gone a))) ∧
    (a.up = false → a.inReset = false → a.retired = false → (s.pkg p).plat.ready = true →
      (b.inReset = false → b.retired = false → (s.pkg q).plat.ready = true →
        let both := fun (f : Port → Port) => exec (.linkRetrain p n true) s = .next ((s.updPort p n f).updPort q n' f)
        ((s.pkg p).part = (s.pkg q).part → both (fun t => { t with up := true, mism := false, enc := Config.hasCrypto s.part })) ∧
        ((s.pkg p).part ≠ (s.pkg q).part → both (fun t => { t with mism := true }))) ∧
      (a.train < 2 → exec (.linkRetrain p n false) s = .next (s.updPort p n (fun t => { t with train := t.train + 1 }))) ∧
      (a.train = 2 → a.egress = [] → exec (.linkRetrain p n false) s = .next ((s.updPort p n (fun t =>
          { gone { b with replay := [] } t with train := 3, retired := true })).updPkg p
        (fun k => ({ k with plat := { k.plat with rreq := true, ev := k.plat.ev ||| 0x10, last := 5, unit := BitVec.ofNat 16 n, retLog := k.plat.retLog ++ [(5, n)] } }).msix 0 0)))) ∧
    (a.enc = true → 2 ^ 31 ≤ a.lkcnt → a.nxv = false → a.kreq = false → exec (.keyEvent p n) s = .next (s.updPort p n (fun t =>
      if a.switching = true then { t with kev := true, kreq := true } else { t with kev := true, nxv := true, switching := true }))) ∧
    (∀ m n2 a2, a.enc = true → 0xFFFFFFFF ≤ a.lkcnt → a.egress = [m] → a.part = 0 → 1 ≤ m.hops → m.dst.pkg = q → n2 ≠ n → tget (s.pkg p).ports n2 = some a2 → a2.peer = q →
      a2.inReset = false → a2.retired = false → a2.up = true → a2.enc = false → a2.egress = [] → n2 < Config.ports s.part →
      (∀ x y, x ≠ n2 → tget (s.pkg p).ports x = some y → y.peer = q → y.up = false ∨ x = n) →
      exec (.keyStop p n) s = .next ((s.updPort p n (fun t => { t with egress := [] })).updPort p n2 (fun t => { t with egress := [m] }))) ∧
    (∀ i m, a.egress[i]? = some m → (i = 0 → a.part = 0) → exec (.queueDiscard (.egress p n i)) s =
      .next (if m.since + 65536 * Config.tickPort < s.now then s.updPort p n (fun t => { t with egress := t.egress.eraseIdx i }) else s)) ∧
    (∀ i m, s.fabric[i]? = some m → exec (.queueDiscard (.fabric i)) s =
      .next (if m.since + 65536 * Config.tickCp < s.now then { s with fabric := s.fabric.eraseIdx i } else s))

/-! ## Coherence -/

/-- Nothing at die d of package p waits for a sector: no request, and no access. -/
def Sys2Proof.Claim.Quiet (s : State) (p d : Nat) (key : SectorKey) : Prop :=
  tget ((s.pkg p).die d).reqs key = none ∧ ∀ q ∈ (s.pkg p).pends, ¬ (q.die = d ∧ q.key = key ∧ q.txn = none)

/-- The L2 slice and the home of a sector, as agents. -/
def Sys2Proof.Claim.slice (p d : Nat) (key : SectorKey) : Agent := .slice p (32 * d + keySlice key)
def Sys2Proof.Claim.homeAt (key : SectorKey) (pa : Nat) : Agent := .ctrl key.home (ctrlOf pa)
/-- The requester that die d of package p is for a sector. -/
def Sys2Proof.Claim.mine (p d : Nat) (key : SectorKey) : Requester := .die p d (keySlice key)

/-- A message at a slice of die d: delivered, not stale, whole. -/
def Sys2Proof.Claim.AtSlice (s : State) (m : Msg) (p d : Nat) : Prop :=
  Arrives s m ∧ thas s.pkgs p = true ∧ s.strikes = [] ∧ ∃ n, m.dst = .slice p n ∧ n / 32 = d

/-- All of a die's tokens of a sector leave it in one TOK, with its data where the owner token goes with them (R168, R174). -/
def Sys2Proof.Claim.gives (s : State) (p d : Nat) (key : SectorKey) (e : L2Sec) (to_ : Agent) : State :=
  (s.updDie p d (fun x => { x with l2 := tdel x.l2 key })).send (slice p d key) to_ key.asid (s.ctxInc p key.asid) key e.pa
    (.tok e.cnt e.own (e.own && e.dirty) e.ser (if e.own && e.dv then some e.data else none) e.psn e.wr)

/-- Tokens and requests at an L2 slice (R168, R169, R173, R174, R177, R180, R181, R186, R236): tokens of the current serial join the
entry, others are discarded and counted, a stale TOK is redirected to its home; a GETS takes one token with the owner's data, a
GETX and an eviction all of them. A PACT for another is kept as a lease and one for the die itself names its request, or is given
back; a lease ends 8,192 cycles after its last refresh. A recall drops the tokens and returns the owner's data, once. A slice that is full is not
the case stated: it evicts first (log 97).
That an older PACT is ignored, the giving back, and the source of a redirected TOK are the model's readings (log 50). -/
def Sys2Proof.Claim.SliceMessages : Prop :=
  ∀ (s : State) (m : Msg) (p d : Nat), AtSlice s m p d →
    let key := m.key
    let x := (s.pkg p).die d
    let set := fun (f : Die → Die) => s.updDie p d f
    (∀ cnt own dirty ser data psn wr, m.body = .tok cnt own dirty ser data psn wr → 1 ≤ cnt → Quiet s p d key → tget x.recalls key = none → tget x.leases key = none →
      (tget x.l2 key = none → (x.l2.filter (fun e => keySlice e.1 == keySlice key)).length < 65536 → exec .tok s = .next (set (fun x => { x with l2 := tset x.l2 key { cnt := cnt, own := own, ser := ser, dv := data.isSome, dirty := own && dirty, wr := wr, psn := psn && data.isSome, pa := m.pa, data := data.getD 0 } }))) ∧
      (∀ e, tget x.l2 key = some e → e.ser = ser → exec .tok s = .next (set (fun x => { x with l2 := tset x.l2 key { e with cnt := e.cnt + cnt, own := e.own || own, dirty := if own then dirty else e.dirty, dv := e.dv || data.isSome, data := if own || !e.dv then data.getD e.data else e.data, psn := e.psn || (psn && data.isSome), wr := e.wr || wr } }))) ∧
      (∀ e, tget x.l2 key = some e → e.ser ≠ ser → exec .tok s = .next (s.bump key.home (unitCtrl (ctrlOf m.pa)) wSdisc))) ∧
    (∀ e req num, tget x.l2 key = some e → tget x.recalls key = none → tget x.leases key = none → req ≠ mine p d key →
      let to_ := match req with | .die q d' _ => slice q d' key | .home => homeAt key m.pa
      (m.body = .gets req num → e.own = true → e.dv = true → 2 ≤ e.cnt → exec .gets s = .next ((set (fun x => { x with l2 := tset x.l2 key { e with cnt := e.cnt - 1 } })).send (slice p d key) to_ key.asid (s.ctxInc p key.asid) key e.pa (.tok 1 false false e.ser (some e.data) e.psn e.wr))) ∧
      (m.body = .getx req num → exec .getx s = .next (gives s p d key e to_))) ∧
    (∀ req write act, m.body = .pact req write act → (∀ l, tget x.leases key = some l → l.act ≤ act) →
      (req ≠ mine p d key → tget x.l2 key = none → exec .pact s = .next (set (fun x => { x with leases := tset x.leases key { act := act, req := req, write := write, since := (s.pkg p).arith, inc := m.inc } }))) ∧
      (req = mine p d key → tget x.reqs key = none → exec .pact s =
        .next ((set (fun x => { x with leases := tdel x.leases key })).send (slice p d key) m.src m.asid m.inc key m.pa (.pdeact req act))) ∧
      (∀ r, req = mine p d key → tget x.reqs key = some r → (write = true ∨ r.write = false) → tget x.l2 key = none → exec .pact s =
        .next ((set (fun x => { x with leases := tdel x.leases key, reqs := tset x.reqs key { r with act := some act } })).send (slice p d key)
          (homeAt key r.pa) key.asid r.inc key r.pa (.preq (mine p d key) r.write) r.scope))) ∧
    (∀ ser wipe, m.body = .recall ser wipe →
      let reply := fun (s : State) data psn => s.send (slice p d key) m.src m.asid m.inc key m.pa (.rrep p d ser wipe data psn) m.scope
      (tget x.recalls key = none → (wipe = true ∨ (x.recalls.filter (fun e => !e.2.wipe && keySlice e.1 == keySlice key)).length < Config.recallEntries) →
        let dropped := set (fun x => { x with l2 := tdel x.l2 key, recalls := tset x.recalls key { ser := ser, wipe := wipe, since := s.now } })
        (∀ e, tget x.l2 key = some e → e.own = true → e.dv = true → exec .recall s = .next (reply dropped (some e.data) e.psn)) ∧
        ((∀ e, tget x.l2 key = some e → e.own = false ∨ e.dv = false) → exec .recall s = .next (reply dropped none false))) ∧
      (∀ r, tget x.recalls key = some r → r.wipe = wipe → r.ser = ser → exec .recall s = .next (reply s none false)))

/-- What a die does of its own accord (R169, R176, R177, R181, R266): an eviction sends all tokens home; a request goes from the predicted
set to every die L2 after 2,048 cycles, to its home as a persistent one after 8,192 more, and again every 32,768; leases and recall
entries end with their time. A stale token goes to its home as it is, where its check code holds.
A request is stated where its page is still at the frame that it names (log 103). The source of a redirected TOK is the model's reading (log 50). -/
def Sys2Proof.Claim.SliceTimers : Prop :=
  ∀ (s : State) (p d : Nat) (key : SectorKey), thas s.pkgs p = true → s.strikes = [] →
    let x := (s.pkg p).die d
    let now := (s.pkg p).arith
    let set := fun (f : Die → Die) => s.updDie p d f
    (∀ e, tget x.l2 key = some e → tget x.leases key = none → exec (.eviction p d key) s = .next (gives s p d key e (homeAt key e.pa))) ∧
    (∀ r, tget x.reqs key = some r → r.act = none → (∀ q ∈ (s.pkg p).waitingAt d key, s.retarget p q = s) →
      (∃ h lin wr nc, (s.translate p key.asid (keyVa key) false).1 = .frame h lin wr nc ∧ lin / 64 * 64 = r.pa) →
      let moved := fun (n : Nat) => set (fun x => { x with reqs := tset x.reqs key { r with step := n, since := now } })
      let ask := fun (s : State) (a : Agent) => s.send (slice p d key) a key.asid r.inc key r.pa
        (if r.write then .getx (mine p d key) r.num else .gets (mine p d key) r.num) r.scope
      let persist := fun (s : State) => s.send (slice p d key) (homeAt key r.pa) key.asid r.inc key r.pa (.preq (mine p d key) r.write) r.scope
      (r.step = 1 → r.since + 2048 ≤ now → exec (.getsTimeout p d key) s = .next
        (((s.domainDies p key.asid).filter (fun t => t != (p, d))).foldl (fun s t => ask s (slice t.1 t.2 key)) (ask (moved 2) (homeAt key r.pa)))) ∧
      (r.step = 2 → r.since + 8192 ≤ now → exec (.broadcastTimeout p d key) s = .next (persist (moved 3))) ∧
      (r.step = 3 → r.since + 32768 ≤ now → exec (.preqRepeat p d key) s = .next (persist (moved 3)))) ∧
    (∀ l, Quiet s p d key → tget x.leases key = some l → l.since + 8192 ≤ now →
      exec (.leaseExpiry p d key) s = .next (set (fun x => { x with leases := tdel x.leases key }))) ∧
    (∀ r, Quiet s p d key → tget x.recalls key = some r → r.since + 2 * Config.lifetime ≤ s.now →
      exec (.recallTableExpiry p d key) s = .next (set (fun x => { x with recalls := tdel x.recalls key }))) ∧
    (∀ m n cnt own dirty ser data psn wr, s.cur = .message m → m.dst = .slice p n → m.body = .tok cnt own dirty ser data psn wr → s.stale m = true → m.checkOk = true →
      exec .tok s = .next ((s.bump p (unitSlice n) wCrdir).route p { m with src := .none, dst := homeAt m.key m.pa, hops := 0 }))

/-- Token messages and timers at a die slice (R168 to R181, R186, R236, R266). -/
def Obligations.SliceCoherence : Prop := Claim.SliceMessages ∧ Claim.SliceTimers

/-- The home of a sector: package p, controller c, with no error stored there and no trace running. -/
structure Sys2Proof.Claim.Home (s : State) (p c : Nat) (key : SectorKey) (pa : Nat) : Prop where
  there : thas s.pkgs p = true
  at_ : key.home = p ∧ c = ctrlOf pa
  sound : s.strikes = [] ∧ s.dramErrs = []
  trace : bit (s.pkg p).plat.trctl 0 = false

/-- A message at the home of its sector: delivered, not stale, whole. -/
def Sys2Proof.Claim.AtHome (s : State) (m : Msg) (p c : Nat) : Prop := Arrives s m ∧ m.dst = .ctrl p c ∧ Home s p c m.key m.pa

/-- The home state of a sector is written; while tokens of it are out, the name that they are out under stands with it (R169). -/
def Sys2Proof.Claim.putHome (s : State) (p : Nat) (key : SectorKey) (pa : Nat) (h : HomeSec) : State :=
  s.updPkg p (fun k => k.setHome pa { h with name := if h.mts = 1 then { home := 0, asid := 0, sec := 0 } else key })
/-- The page of a sector is at the frame of an address, as its home translates it with nothing to walk for (R157). -/
def Sys2Proof.Claim.Mapped (s : State) (asid : Nat) (key : SectorKey) (pa : Nat) (uncached : Bool) : Prop :=
  ∃ h lin wr, s.translate key.home asid (keyVa key) false = (.frame h lin wr uncached, s) ∧ lin / 64 = pa / 64

/-- The die L2s that an activation or a recall of a sector speaks to, and what is said to each of them. -/
def Sys2Proof.Claim.toDies (s : State) (key : SectorKey) (pa inc scope : Nat) (ds : List (Nat × Nat)) (b : Body) : State :=
  ds.foldl (fun s t => s.send (homeAt key pa) (slice t.1 t.2 key) key.asid inc key pa b scope) s

/-- Messages at a home (R170, R171, R173, R174, R177, R178, R180): tokens of the current serial are counted, and all 64 make the
state 01; a GETS at a home with all of them takes one and leaves the owner token, a GETX takes them all. A persistent request is
activated where no other is, and else queued; PDEACT ends the activation; a reply to a recall is noted, and the last one begins the
lifetime bound. A request is stated where its page is still at the frame that it names (log 103). -/
def Sys2Proof.Claim.HomeMessages : Prop :=
  ∀ (s : State) (m : Msg) (p c : Nat), AtHome s m p c →
    let key := m.key
    let t := (s.pkg p).ctrl c
    let h := (s.pkg p).homeSec m.pa
    let upd := fun (f : Ctrl → Ctrl) => s.updCtrl p c f
    let put := fun (s : State) (h : HomeSec) => putHome s p key m.pa h
    let mapped := ∃ nc, Mapped s key.asid key m.pa nc
    (t.psecs = [] → t.recrs = [] →
      (∀ cnt own dirty ser data psn wr, m.body = .tok cnt own dirty ser data psn wr → m.src ≠ .none →
        (h.ser ≠ ser → exec .tok s = .next (s.bump p (unitCtrl c) wSdisc)) ∧
        (h.ser = ser → own = false → h.count + cnt = 64 → exec .tok s = .next (put s { h with mts := 1, cnt := 64 })) ∧
        (h.ser = ser → own = false → h.count + cnt ≠ 64 → (h.mts ≠ 0 ∨ s.partialUsed p c < Config.pttEntries) →
          exec .tok s = .next (put s { h with mts := if h.mts = 1 ∨ h.mts = 3 then 3 else 2, cnt := h.count + cnt })) ∧
        (∀ x, h.ser = ser → own = true → dirty = true → data = some x → 1 ≤ cnt → h.count + cnt = 64 →
          exec .tok s = .next (put (s.homeWrite p m.pa (keyTag (s.pkg p) key.asid) x) { h with mts := 1, psn := psn, cnt := 64 }))) ∧
      (∀ req num, let to_ := match req with | .die q d _ => slice q d key | .home => homeAt key m.pa
        let copy := homeData s p m.pa (keyTag (s.pkg p) key.asid)
        let poison := h.psn || (s.pkg p).isWithdrawn m.pa
        (m.body = .gets req num → mapped → h.mts = 1 → s.partialUsed p c < Config.pttEntries →
          exec .gets s = .next ((put s { h with mts := 3, cnt := 63 }).send (homeAt key m.pa) to_ key.asid (s.ctxInc p key.asid) key m.pa
            (.tok 1 false false h.ser (some copy) poison (s.homeWr key)) m.scope)) ∧
        (m.body = .getx req num → mapped → h.mts ≠ 0 →
          exec .getx s = .next ((put s { h with mts := 0, cnt := 0 }).send (homeAt key m.pa) to_ key.asid (s.ctxInc p key.asid) key m.pa
            (.tok h.count h.owner false h.ser (if h.owner then some copy else none) poison (s.homeWr key)) m.scope))) ∧
      (∀ q d sl write, m.body = .preq (.die q d sl) write → mapped → h.mts = 0 →
        let r : PReq := { req := .die q d sl, write := write, inc := m.inc, scope := m.scope }
        let x : PSec := { key := key, pa := m.pa, active := some r, act := t.acts + 1, started := s.memClk, lastPact := s.memClk, lastRefresh := s.memClk,
                          round := [], queue := [], consol := false, own := 0, ownOwner := false }
        exec .preq s = .next (toDies ((upd (fun t => { t with psecs := [x], acts := t.acts + 1 })).bump p (unitCtrl c) wPact) key m.pa m.inc m.scope
          (s.domainDies p key.asid) (.pact (.die q d sl) write (t.acts + 1))))) ∧
    (∀ x a, t.psecs = [x] → x.key = key → x.active = some a →
      (∀ q d sl write, m.body = .preq (.die q d sl) write → mapped → a.req ≠ .die q d sl → (∀ y ∈ x.round ++ x.queue, y.req ≠ .die q d sl) →
        x.round.length + x.queue.length < Config.preqQueued →
        exec .preq s = .next (upd (fun t => { t with psecs := [{ x with queue := x.queue ++ [{ req := .die q d sl, write := write, inc := m.inc, scope := m.scope }] }] }))) ∧
      (∀ write, m.body = .preq a.req write → mapped → exec .preq s = .next (upd (fun t => { t with psecs := [{ x with lastRefresh := s.memClk }] }))) ∧
      (m.body = .pdeact a.req x.act → x.round = [] → x.queue = [] → exec .pdeact s = .next (upd (fun t => { t with psecs := [] })))) ∧
    (∀ r q d data psn, t.recrs = [r] → r.key = key → r.pa = m.pa → r.wipe = false → r.stage = 1 → m.body = .rrep q d r.ser false data psn →
      let r1 := { r with replied := addOnce r.replied (q, d), newest := if data.isSome then data else r.newest, psn := if data.isSome then psn else r.psn }
      let all := ∀ e ∈ (if key.asid = 0 then [] else s.domainDies p key.asid), e ∈ r1.replied
      (all → exec .rrep s = .next (upd (fun t => { t with recrs := [{ r1 with stage := 2, started := s.now }] }))) ∧
      (¬ all → exec .rrep s = .next (upd (fun t => { t with recrs := [r1] }))))

/-- The timers of a home (R171, R177, R180, R182, R183, R266): an activation is repeated every 2,048 cycles and ends 8,192 after its last
refresh; in force for 524,288 it starts a recreation under the next serial; recalls repeat every 16,384; one lifetime bound after
the last reply the sector has 64 new tokens, with the owner's data, memory's copy where the owner token was there, or poison and a
report; a wipe recreation leaves a fresh codeword with serial 0, and the requests that it held come again. A token held in the absorb
buffer enters when there is room. The poison of a wiped page and the repeat of a wipe are the model's readings (log 58). -/
def Sys2Proof.Claim.HomeTimers : Prop :=
  ∀ (s : State) (p c pa : Nat) (key : SectorKey), Home s p c key pa → key.asid ≠ 0 →
    let t := (s.pkg p).ctrl c
    let h := (s.pkg p).homeSec pa
    let upd := fun (f : Ctrl → Ctrl) => s.updCtrl p c f
    let put := fun (s : State) (h : HomeSec) => putHome s p key pa h
    let ds := s.domainDies p key.asid
    (∀ x a, t.psecs = [x] → x.key = key → x.pa = pa → x.active = some a →
      (x.lastPact + 2048 ≤ s.memClk → exec (.pactRepeat p c key) s = .next (toDies (upd (fun t => { t with psecs := [{ x with lastPact := s.memClk }] }))
        key pa a.inc a.scope ds (.pact a.req a.write x.act))) ∧
      (a.req ≠ .home → x.lastRefresh + 8192 ≤ s.memClk → x.round = [] → x.queue = [] →
        exec (.activationTimeout p c key) s = .next (upd (fun t => { t with psecs := [] }))) ∧
      (x.started + 524288 ≤ s.memClk → t.recrs = [] → tget t.lastRecr (pa / 64) = none →
        let r : Recr := { key := key, pa := pa, wipe := false, ser := h.ser + 1, held := h.owner || x.ownOwner, stage := 1, started := s.now,
                          lastRecall := s.memClk, replied := [], newest := none, psn := false, inc := s.ctxInc p key.asid }
        exec (.recreationStart p c key) s = .next (toDies ((put s { h with mts := 0, ser := h.ser + 1, cnt := 0 }).updCtrl p c (fun t => { t with
          psecs := [{ x with own := 0, ownOwner := false }], recrs := [r] })) key pa r.inc 0 ds (.recall (h.ser + 1) false)))) ∧
    (∀ r, t.recrs = [r] → r.key = key → r.pa = pa →
      (r.stage = 1 → r.lastRecall + 16384 ≤ s.memClk → exec (.recallRepeat p c key) s = .next (toDies (upd (fun t => { t with
        recrs := [{ r with lastRecall := s.memClk }] })) key pa r.inc 0 (ds.filter (fun e => !(r.replied.contains e))) (.recall r.ser r.wipe))) ∧
      (t.psecs = [] →
        let ended := fun (s : State) => (s.updCtrl p c (fun t => { t with recrs := [], lastRecr := tset t.lastRecr (pa / 64) s.now })).bump p (unitCtrl c) wRecr
        let report := fun (s : State) => s.updPkg p (fun k => k.report (k.ownerFn key.asid) {
          w0 := BitVec.ofNat 32 (4 + 2 ^ 8 * key.asid + 2 ^ 31), w1 := 0, va := keyVa key, pc := 0, name := { n0 := 0, n1 := 0, n2 := 0 } })
        (r.wipe = false → r.stage = 2 → r.started + Config.lifetime ≤ s.now →
          (∀ d, r.newest = some d → exec (.recreationComplete p c key) s = .next (ended (put (s.homeWrite p pa (keyTag (s.pkg p) key.asid) d)
            { h with mts := 1, psn := r.psn, cnt := 64 }))) ∧
          (r.newest = none → r.held = true → exec (.recreationComplete p c key) s = .next (ended (put s { h with mts := 1, cnt := 64 }))) ∧
          (r.newest = none → r.held = false → exec (.recreationComplete p c key) s =
            .next (ended (report ((put s { h with mts := 1, psn := true, cnt := 64 }).bump p (unitCtrl c) wPois))))) ∧
        (r.wipe = true → (∀ e ∈ ds, e ∈ r.replied) → r.started + 3 * Config.lifetime ≤ s.now → (∀ m ∈ t.wipeReqs, m.pa / 64 = pa / 64) →
          let over_ := fun (s : State) => (s.updCtrl p c (fun t => { t with recrs := [], wipeReqs := [] }))
          let again := fun (s : State) => { s with fabric := s.fabric ++ t.wipeReqs.map (fun m => { m with since := s.now }) }
          (∀ d, r.newest = some d → exec (.wipeRecreationTimeout p c key) s = .next (again (over_ (put (s.homeWrite p pa (keyTag (s.pkg p) key.asid) d)
            { mts := 1, ser := 0, psn := false, cnt := 64 })))) ∧
          (r.newest = none → exec (.wipeRecreationTimeout p c key) s =
            .next (again (over_ (report (put s { mts := 1, ser := 0, psn := true, cnt := 64 })))))))) ∧
    (∀ m w ms cnt dirty ser psn wr, t.absorb = { msg := m, write := w } :: ms → m.key = key → m.pa = pa → m.body = .tok cnt false dirty ser none psn wr → h.ser = ser → t.psecs = [] → t.recrs = [] →
      h.count + cnt ≠ 64 → (h.mts ≠ 0 ∨ s.partialUsed p c < Config.pttEntries) →
      exec (.absorbBufferDrain p c) s = .next (put (upd (fun t => { t with absorb := ms })) { h with mts := if h.mts = 1 ∨ h.mts = 3 then 3 else 2, cnt := h.count + cnt })) ∧
    ((s.pkg p).plat.scrubAct = true → c < Config.controllers s.part → t.scrubAt + (s.pkg p).plat.scrub * 3600 * 750000000 ≤ s.memClk →
      exec (.scrubPass p c) s = .next ((upd (fun t => { t with scrubAt := s.memClk })).updPkg p (fun k => { k with
        rowErrs := k.rowErrs.filter (fun e => e.1.2 != c), plat := { k.plat with passes := if c = 0 then (k.plat.passes + 1) % 65536 else k.plat.passes } })))

/-- Token messages and timers at a home controller (R170 to R183, R266, R267). -/
def Obligations.HomeCoherence : Prop := Claim.HomeMessages ∧ Claim.HomeTimers

/-- Uncached accesses and far atomics at their home (R2, R23, R160, R185, R202, R204, R216, R217, R236, R269): a read of an uncached page
answers the bytes of memory's copy; a write, an atomic, and a read of a cacheable page of another package are performed once, after a
persistent request of the home's own that finds all 64 tokens there; on host memory they are performed at once, but for an AtomicOp
that the root port lacks. The answer of a write and of an atomic is kept for two lifetime bounds, so that the same transaction again
gets the same one, and a poisoned sector gives an atomic with a reply poison and stays as it is.
That the request of the home's own that finds the tokens there is served in the one step is the model's reading (log 6). -/
def Sys2Proof.Claim.UncachedAtHome : Prop :=
  ∀ (s : State) (m : Msg) (p c : Nat), Arrives s m → m.dst = .ctrl p c → thas s.pkgs p = true → s.strikes = [] → bit (s.pkg p).plat.trctl 0 = false →
    let key := m.key
    let t := (s.pkg p).ctrl c
    let h := (s.pkg p).homeSec m.pa
    let tag := keyTag (s.pkg p) key.asid
    let poison := h.psn || (s.pkg p).isWithdrawn m.pa
    let reply := fun (s : State) (txn : Nat) (bs : List Byte) (st : Nat) => s.send m.dst m.src m.asid m.inc key m.pa (.uncachedReply txn bs st)
    let kept := fun (s : State) (core txn : Nat) (bs : List Byte) (st : Nat) => reply (s.updCtrl p c (fun t => { t with replies := t.replies ++ [{
      pkg := m.src.pkg, core := core, txn := txn, result := bs, st := st, since := s.now }] })) txn bs st
    let gathered := putHome (toDies ((s.updCtrl p c (fun t => { t with acts := t.acts + 1 })).bump p (unitCtrl c) wPact) key m.pa m.inc m.scope
      (s.domainDies p key.asid) (.pact .home true (t.acts + 1))) p key m.pa { h with cnt := 64 }
    let ready := Home s p c key m.pa ∧ t.psecs = [] ∧ t.recrs = [] ∧ t.replies = [] ∧ t.waits = [] ∧ h.mts = 1
    (∀ core txn va n, m.body = .uncachedRead core txn va n →
      (∀ a, physOf s.part m.pa = .host a → exec .uncachedRead s = .next (reply s txn (readBytes s.mem (hostCell a) n) 0)) ∧
      (∀ lin, physOf s.part m.pa = .frame lin → Home s p c key m.pa → t.recrs = [] → Mapped s m.asid key m.pa true → exec .uncachedRead s =
        .next (reply s txn (leBytes n (secGet (homeData s p m.pa tag) (va % 64) n)) (if poison then 1 else 0))) ∧
      (∀ lin, physOf s.part m.pa = .frame lin → ready → Mapped s m.asid key m.pa false → exec .uncachedRead s =
        .next (reply gathered txn (if poison then [] else leBytes n (secGet (homeData s p m.pa tag) (va % 64) n)) (if poison then 1 else 0)))) ∧
    (∀ core txn va bs, m.body = .uncachedWrite core txn va bs →
      (∀ a, physOf s.part m.pa = .host a → t.replies = [] → t.waits = [] → exec .uncachedWrite s = .next (kept (s.hostWrite a bs) core txn [] 0)) ∧
      (∀ lin, physOf s.part m.pa = .frame lin → ready → (∃ nc, Mapped s key.asid key m.pa nc) → bs.length < 64 →
        exec .uncachedWrite s = .next (kept (gathered.homeWrite p m.pa tag (secPut (homeData s p m.pa tag) (va % 64) bs.length (leNat bs))) core txn [] 0))) ∧
    (∀ core txn va op w64 ops back, m.body = .farAtomic core txn va op w64 ops back →
      let n := if w64 then 8 else 4
      (∀ a, physOf s.part m.pa = .host a → t.replies = [] → t.waits = [] →
        let old := readBytes s.mem (hostCell a) n
        let offered := (op = .add ∨ op = .exch ∨ op = .cas) → (s.pkg p).plat.rootAtomics = true
        (offered → exec .farAtomic s = .next (kept (s.hostWrite a (leBytes n (rmw op (8 * n) (leNat old) ops).1)) core txn (if back then old else []) 0)) ∧
        (¬ offered → exec .farAtomic s = .next (kept s core txn [] 2))) ∧
      (∀ lin, physOf s.part m.pa = .frame lin → ready → (∃ nc, Mapped s key.asid key m.pa nc) →
        let old := secGet (homeData s p m.pa tag) (va % 64) n
        (back = true → poison = true → exec .farAtomic s = .next (kept gathered core txn [] 1)) ∧
        (back = false ∨ poison = false → exec .farAtomic s = .next (kept (gathered.homeWrite p m.pa tag (secPut (homeData s p m.pa tag) (va % 64) n
          (rmw op (8 * n) old ops).1)) core txn (if back then leBytes n old else []) 0)))) ∧
    (∀ e core txn va bs, t.replies = [e] → (e.pkg, e.core, e.txn) = (m.src.pkg, core, txn) → m.body = .uncachedWrite core txn va bs →
      exec .uncachedWrite s = .next (reply s txn e.result e.st)) ∧
    (∀ e, t.replies = [e] → e.since + 2 * Config.lifetime ≤ s.now → exec (.replyCacheExpiry p c 0) s = .next (s.updCtrl p c (fun t => { t with replies := [] })))

/-- What waits at a core (R152, R204, R216 to R218): a reply completes the access that names its transaction, once, or, of an AtomicOp that
the root port lacks, reports a fault of kind malformed; without a reply the request is sent again after 16,384 cycles, and after sixteen
resends the instruction traps with cause 0x07. A sector leaves the combining buffer for the L2 that holds all its tokens; one whose check
code fails is counted and sent again after 1,024 cycles. The 17th timeout as the end is the model's reading (log 74), and so is that a
page that has moved is asked for where it is (log 103). The word of a unit block that counts a failed code is its choice (log 91). -/
def Sys2Proof.Claim.CoreTransactions : Prop :=
  ∀ (s : State) (p core : Nat), thas s.pkgs p = true →
    let k := s.pkg p
    (∀ m txn bs q, Arrives s m → m.dst = .core p core → k.pends = [q] → q.core = core → q.txn = some txn → q.fenced = none →
      let done := s.updPkg p (fun k => { k with pends := [] })
      (∀ dst half sx, m.body = .uncachedReply txn bs 0 → q.acc.op = .load dst half sx false → (∀ e ∈ k.cores, e.2.cb = []) →
        (∀ l, s.loc p q.acc.gid = some l → l.clu.ver = none ∧ l.clu.committing = none) → q.acc.acq = false → q.acc.sample = false →
        q.acc.va % 64 + q.acc.bytes ≤ 64 → bs.length = q.acc.bytes → exec .uncachedReply s = .next (done.updGroup p q.acc.gid (fun g =>
          (g.onLanes (laneBit q.acc.lane) (fun _ l => l.setLoaded (dst + half) q.acc.bytes sx (leNat bs))).clearPend q.acc.id))) ∧
      (∀ v l, m.body = .uncachedReply txn bs 0 → q.acc.op = .store v → s.loc p q.acc.gid = some l →
        exec .uncachedReply s = .next (done.l1Drop p core l.node.desc.fused q.key)) ∧
      (∀ l, m.body = .uncachedReply txn bs 2 → s.loc p q.acc.gid = some l → exec .uncachedReply s = .next (done.logFaults l true [(q.acc, .malformed)]))) ∧
    (∀ m txn bs st n, Arrives s m → m.dst = .core p n → m.body = .uncachedReply txn bs st → k.pends = [] →
      exec .uncachedReply s = .next (s.bump p (unitCore n) wCorph)) ∧
    (∀ q txn h, k.pends = [q] → q.core = core → q.txn = some txn → q.fenced = none → q.sent + 16384 ≤ k.arith →
      (∀ dst half sx uni, q.acc.op = .load dst half sx uni → q.sends < 17 → s.homeOf p q.key.asid q.acc.va = some h → s.retarget p q = s →
        exec (.uncachedResend p core txn) s = .next ((s.updPkg p (fun k => { k with pends := [{ q with sent := k.arith, sends := q.sends + 1 }] })).send (.core p core)
          (.ctrl q.key.home (4 * h.stack + q.acc.va / 512 % 4)) q.key.asid (s.ctxInc p q.key.asid) q.key q.pa (.uncachedRead core txn q.acc.va q.acc.bytes) q.acc.scope)) ∧
      (17 ≤ q.sends → exec (.uncachedResend p core txn) s = .next ((s.updPkg p (fun k => { k with pends := [] })).updGroup p q.acc.gid (fun g =>
        { g.clearPend q.acc.id with deferred := g.deferred ++ [{ lanes := allLanes, cause := 0x07, tpc := q.acc.pc, taddr := q.acc.ptr, lane := q.acc.lane, whole := true }] })))) ∧
    (∀ x e, (k.core core).cb = [x] → s.strikes = [] → k.pends = [] → (∀ t0, x.sent = some t0 → t0 + 1024 ≤ k.arith) →
      let d := core / 64
      let code := x.code (s.ctxInc p x.key.asid)
      let taken := (s.updPkg p (fun k => { k with uid := k.uid + 1 })).updCore p core (fun c => { c with cb := [] })
      let merged := taken.updDie p d (fun y => { y with l2 := tset y.l2 x.key { e with
        data := secMerge e.data x.mask x.data, dirty := e.own, psn := x.poisoned || (e.psn && x.mask != BitVec.allOnes 64) } })
      let failed := (s.updCore p core (fun c => { c with cb := [{ x with check := code, sent := some k.arith }] })).bump p (unitSlice (32 * d + keySlice x.key)) wDrop
      (x.check ≠ code → exec (.combiningBufferWrite p core x.key) s = .next failed ∧ (x.sent ≠ none → exec (.storeResend p core x.key) s = .next failed)) ∧
      (tget (k.die d).l2 x.key = some e → e.cnt = 64 → e.dv = true → e.wr = true → tget (k.die d).leases x.key = none → tget (k.die d).recalls x.key = none →
        x.check = code → exec (.combiningBufferWrite p core x.key) s = .next merged ∧ (x.sent ≠ none → exec (.storeResend p core x.key) s = .next merged)))

/-- Uncached accesses and far atomics at a home, and what waits at a core (R152, R160, R202, R204, R216 to R218, R236). -/
def Obligations.CoreMemoryTransactions : Prop := Claim.UncachedAtHome ∧ Claim.CoreTransactions

/-! ## Scheduling -/

/-- The package holds one cluster of one block, of the one node nid of context asid. -/
structure Sys2Proof.Claim.OneUnit (s : State) (p asid nid c bid : Nat) (ctx : Ctx) (n : Node) (x : Cluster) (b : Block) : Prop where
  clusters : (s.pkg p).clusters = [(c, x)] ∧ x.blocks = [bid] ∧ x.node = nid
  blocks : (s.pkg p).blocks = [(bid, b)] ∧ b.cluster = c ∧ b.node = nid
  nodes : tget (s.pkg p).nodes nid = some n ∧ n.asid = asid ∧ ∀ e ∈ (s.pkg p).nodes, e.1 ≠ nid → e.2.asid ≠ asid
  slices : (s.pkg p).slices = []
  ctx : tget (s.pkg p).ctxs asid = some ctx
  sound : s.strikes = []

/-- Nothing of a block's core is on its way: no access, no combining-buffer sector of the context, no engine
operation, no deposit of the context on its way out of the package. -/
def Sys2Proof.Claim.Idle (s : State) (p asid : Nat) (n : Node) (b : Block) : Prop :=
  (s.pkg p).pends = [] ∧ (s.pkg p).olog = [] ∧ (∀ x ∈ ((s.pkg p).core b.core).cb, x.key.asid ≠ asid) ∧ n.desc.fused = false ∧
    b.stream = [] ∧ b.held = [] ∧ (∀ e ∈ (s.pkg p).cores, e.2.eng.queue = [] ∧ e.2.eng.run = none) ∧ (∀ e ∈ (s.pkg p).btes, e.2 = []) ∧
    (s.pkg p).depositLeaves asid = false

/-- Time slices and pre-emption (R60, R64, R65): a slice that expires renews where no other context has ready work. Else its units leave: a
unit far enough along drains, one barely begun that can restart is flushed, any other is saved; a drain lasts at most 65,536 clocks,
and a save completes when everything of the unit has come to rest.
A block whose groups have all ended is no such unit: it ends (BlockAndCommitEnd). A slice that is granted early and the saving of halted
units are the model's readings (log 22, log 64). -/
def Sys2Proof.Claim.TimeSlices : Prop :=
  ∀ (s : State) (p asid nid c bid : Nat) (ctx : Ctx) (n : Node) (x : Cluster) (b : Block), OneUnit s p asid nid c bid ctx n x b →
    let k := s.pkg p
    (k.served = some asid → k.sliceAt + ctx.weight * Config.tickCp ≤ s.now →
      (k.ctxs = [(asid, ctx)] → exec (.timeSliceExpiry p) s = .next (s.updPkg p (fun k => { k with sliceAt := s.now }))) ∧
      (∀ d cd, k.nextServed (some asid) = some d → tget k.ctxs d = some cd → d ≠ asid → b.state = .resident → x.endCommit = false →
        (∀ e ∈ k.groups, e.2.halted = false) → (∃ g gr, tget k.groups g = some gr ∧ gr.blk = bid ∧ gr.alive = true) →
        let past := n.rcnt ≠ 0 ∧ ctx.dThr * (n.rsum / n.rcnt) ≤ 256 * b.r
        let young := n.desc.fault ≠ 0 ∧ (n.rcnt = 0 ∨ 256 * b.r < ctx.tThr * (n.rsum / n.rcnt))
        ∃ t, exec (.timeSliceExpiry p) s = .next t ∧ (t.pkg p).served = some d ∧ (t.pkg p).sliceAt = s.now ∧
          tget (t.pkg p).ctxs asid = some { ctx with lastService := s.now } ∧ tget (t.pkg p).ctxs d = some { cd with lastService := s.now } ∧ t.mem = s.mem ∧
          (past → (t.pkg p).blocks = [(bid, { b with state := .draining })] ∧ (t.pkg p).clusters = [(c, { x with decided := k.arith })]) ∧
          (¬ past → young → n.desc.fault = 1 → (t.pkg p).blocks = [] ∧ ∃ y, (t.pkg p).clusters = [(c, y)] ∧ y.ready = true ∧ y.blocks = []) ∧
          (¬ past → ¬ young → (t.pkg p).blocks = [(bid, { b with state := .saving })]))) ∧
    (b.state = .draining → x.decided + 65536 ≤ k.arith → exec (.drainLimit p c) s = .next (s.updPkg p (fun k => { k with blocks := [(bid, { b with state := .saving })] }))) ∧
    (b.state = .saving → x.committing = none → Idle s p asid n b → exec (.saveComplete p c) s = .next (s.updPkg p (fun k => { k with
      groups := k.groups.map (fun e => (e.1, if e.2.blk = bid then { e.2 with holds := e.2.holds.filter (fun h => h.kind != .mwt) } else e.2)),
      blocks := [(bid, { b with state := .saved, tileCore := none })], clusters := [(c, { x with ready := true })] })))

/-- Placement and start (R27, R28, R61, R66, R149): a die with nothing on it takes the first unstarted block of the served context and queues it
on its lowest core; the block starts when its core has room, with every group at the entry address, all lanes live and flags and
predicates clear.
Which private window is free is the model's order (log 55). -/
def Obligations.DispatchAndStart : Prop :=
  (∀ (s : State) (p die nid asid : Nat) (ctx : Ctx) (n : Node),
    let k := s.pkg p
    k.served = some asid → tget k.ctxs asid = some ctx → ctx.error = false → ctx.killed = false → ctx.haltedSince = none → k.plat.ready = true → k.plat.deadDies = [] →
    s.strikes = [] → k.nodes = [(nid, n)] → n.asid = asid → n.kind = .launch → n.status = none → n.cancelled = false → n.waitsFor = [] → n.edges = [] → n.started = [] →
    k.blocks = [] → k.clusters = [] → k.groups = [] → k.slices = [] → k.cores = [] → die < Config.computeDies s.part → 1 ≤ n.nx * n.ny * n.nz →
    n.desc.cluster ≤ 1 → n.desc.dieres = false → n.desc.fault ≠ 2 → 1 ≤ n.desc.groups → n.desc.groups ≤ 32 → n.desc.scratch ≤ Config.scratchBytes →
    ∃ t bid b, exec (.dispatch p die) s = .next t ∧ (t.pkg p).blocks = [(bid, b)] ∧ (b.node, b.idx, b.rank, b.core) = (nid, 0, 0, 64 * die) ∧
      b.state = .queued ∧ b.lid = n.lid ∧ b.r = 0 ∧ ((t.pkg p).core (64 * die)).queue = [bid] ∧ (t.pkg p).nodes = [(nid, { n with started := [0] })] ∧ t.mem = s.mem) ∧
  (∀ (s : State) (p asid nid c bid : Nat) (ctx : Ctx) (n : Node) (x : Cluster) (b : Block), OneUnit s p asid nid c bid ctx n x b →
    let k := s.pkg p
    ctx.error = false → ctx.killed = false → ctx.haltedSince = none → b.state = .queued → b.tiles = [] → k.groups = [] → Idle s p asid n b →
    (k.core b.core).queue = [bid] → (k.core b.core).retiredQuads = [] → n.desc.groups ≤ 32 → n.desc.scratch ≤ Config.scratchBytes →
    ∃ t b', exec (.blockStart p b.core) s = .next t ∧ (t.pkg p).blocks = [(bid, b')] ∧ b' = { b with state := .resident, age := b'.age, tileCore := some b.core } ∧
      ((t.pkg p).core b.core).queue = [] ∧ (t.pkg p).groups.length = n.desc.groups ∧ (t.pkg p).groups.map (fun e => e.2.gidx) = List.range n.desc.groups ∧
      ∀ e ∈ (t.pkg p).groups, e.2.blk = bid ∧ e.2.core = b.core ∧ e.2.slot < 32 ∧ e.2.fair = { len := n.desc.fair, cnt := 0, slice := false, set := 0, n := 0 } ∧
        e.2.handler = none ∧ e.2.pend = [] ∧ ∀ i < 32, (e.2.lane i).pc = n.desc.entry.extractLsb' 0 56 ∧ (e.2.lane i).live = true ∧ (e.2.lane i).p = 0 ∧
          (e.2.lane i).ff = 0)

/-- Steals (R62): a core with nothing queued asks the core that its LFSR names, another one of its die; a victim with two or more queued
blocks gives its last one where that fits, and a refusal is followed by another request after 64 clocks. The LFSR's form is the
model's (log 23), and so is what follows where it names the thief twice (log 108). An octet that a fused launch uses is its own
(R153; log 105). -/
def Sys2Proof.Claim.Steals : Prop :=
  ∀ (s : State) (p core : Nat),
    let k := s.pkg p
    let y := k.core core
    let x1 := lfsrStep y.lfsr
    let x2 := if x1.toNat % 64 = core % 64 then lfsrStep x1 else x1
    let victim := core / 64 * 64 + x2.toNat % 64
    thas s.pkgs p = true → y.retired = false → core / 64 ∉ k.plat.deadDies → y.queue = [] → k.blocks.filter (fun e => e.2.core == core) = [] →
    k.groups.filter (fun e => e.2.core == core) = [] → y.retiredQuads = [] →
    let refused := s.updCore p core (fun c => { c with lfsr := x2, stealing := true, stealAt := k.arith + 64 })
    ((k.core victim).queue.length < 2 ∨ (k.core victim).retired = true →
      (y.stealing = false → exec (.stealRequest p core) s = .next refused) ∧
      (y.stealing = true → y.stealAt ≤ k.arith → exec (.stealRetry p core) s = .next refused)) ∧
    (∀ q bid b n, (k.core victim).queue = q ++ [bid] → q ≠ [] → (k.core victim).retired = false → tget k.blocks bid = some b → tget k.nodes b.node = some n →
      b.state = .queued → b.tiles = [] → n.desc.cluster ≤ 1 → n.desc.groups ≤ 32 → n.desc.scratch ≤ Config.scratchBytes → y.stealing = false →
      (∀ e ∈ k.blocks, e.2.core / 8 = core / 8 → e.2.node = b.node ∨ n.desc.fused = false ∧ ∀ y, tget k.nodes e.2.node = some y → y.desc.fused = false) →
      ∃ t, exec (.stealRequest p core) s = .next t ∧ (t.pkg p).core core = { y with lfsr := x2, queue := [bid], stealing := false } ∧
        (t.pkg p).core victim = { k.core victim with queue := q } ∧ tget (t.pkg p).blocks bid = some { b with core := core } ∧
        (∀ b', b' ≠ bid → tget (t.pkg p).blocks b' = tget k.blocks b') ∧ t.mem = s.mem)

/-- Parking and fairness of held groups (R33, R67): a cluster whose groups have waited 131,072 clocks is parked where the pool has room, and
tried again later where it has none; a wait that holds its lanes while others could run counts one for every 16 clocks, and when
the count reaches the length a slice begins for the next higher PC, in a slice as outside of one.
The size of a parked unit is the model's reading (log 54). -/
def Sys2Proof.Claim.ParkingAndFairness : Prop :=
  ∀ (s : State) (p asid nid c bid g : Nat) (ctx : Ctx) (n : Node) (x : Cluster) (b : Block) (gr : Group) (h : Hold), OneUnit s p asid nid c bid ctx n x b →
    let k := s.pkg p
    k.groups = [(g, gr)] → gr.blk = bid → gr.alive = true → gr.halted = false → b.state = .resident → gr.holds = [h] → h.addr = gr.select.2.1 → ctx.error = false → ctx.killed = false →
    (h.kind = .bxw → h.since + 131072 ≤ k.arith → n.desc.dieres = false → x.parkTest ≤ k.arith → Idle s p asid n b →
      (ctx.parkedKiB + slotGroupKiB + slotBlockKiB ≤ ctx.poolKiB → ∃ t, exec (.park p c) s = .next t ∧ (t.pkg p).blocks = [(bid, { b with state := .parked })] ∧
        tget (t.pkg p).ctxs asid = some { ctx with parkedKiB := ctx.parkedKiB + slotGroupKiB + slotBlockKiB } ∧ t.mem = s.mem) ∧
      (ctx.poolKiB < ctx.parkedKiB + slotGroupKiB + slotBlockKiB → exec (.park p c) s = .next (s.updCluster p c (fun x => { x with parkTest := k.arith + 131072 })))) ∧
    (∀ t0 w m, h.kind ≠ .pending → h.kind ≠ .fetch → h.counted = some t0 → gr.handler = none → gr.select.1 = gr → w = gr.live &&& ~~~ gr.select.2.2 → w ≠ 0 →
      m = (k.arith - t0) / 16 →
      (gr.fair.len = 0 ∨ gr.fair.cnt + m < gr.fair.len → exec (.fairnessSlice p g) s = .next (s.updGroup p g (fun gr => { gr with
        fair := { gr.fair with cnt := gr.fair.cnt + m }, holds := [{ h with counted := some (t0 + 16 * m) }] }))) ∧
      (∀ pc, 0 < gr.fair.len → gr.fair.len ≤ gr.fair.cnt + m → (∃ i < 32, bit w i = true ∧ (gr.lane i).pc = pc) → h.addr < pc →
        (∀ i < 32, bit w i = true → h.addr < (gr.lane i).pc → pc ≤ (gr.lane i).pc) →
        ∃ set : Mask, (∀ i < 32, bit set i = (bit w i && (gr.lane i).pc == pc)) ∧ exec (.fairnessSlice p g) s = .next (s.updGroup p g (fun gr => { gr with
          fair := { gr.fair with cnt := 0, slice := true, set := set, n := gr.fair.len }, holds := [{ h with counted := none }], retries := 0 }))) ∧
      (0 < gr.fair.len → gr.fair.len ≤ gr.fair.cnt + m → (∀ i < 32, bit w i = true → (gr.lane i).pc ≤ h.addr) → exec (.fairnessSlice p g) s =
        .next (s.updGroup p g (fun gr => { gr with fair := { gr.fair with cnt := 0, slice := false }, holds := [{ h with counted := some k.arith }], retries := 0 }))))

/-- Steals, parking, and the forced slices of the threads (R32, R33, R62, R67). A steal rests on the form that the model chose of the LFSR (log 23). -/
def Obligations.StealingAndFairness : Prop := Claim.Steals ∧ Claim.ParkingAndFairness

/-- The end of a block and of a commit (R30, R54, R58, R64, R254, R255): a block all of whose groups have ended leaves its core and sets its
completion bit, once; the last of a node completes the node. A commit with nothing left to perform is over, and the discard count
restarts. -/
def Sys2Proof.Claim.BlockAndCommitEnd : Prop :=
  ∀ (s : State) (p asid nid c bid g : Nat) (ctx : Ctx) (n : Node) (x : Cluster) (b : Block) (gr : Group), OneUnit s p asid nid c bid ctx n x b →
    let k := s.pkg p
    k.groups = [(g, gr)] → gr.blk = bid → gr.halted = false →
    (k.nodes = [(nid, n)] → gr.alive = false → gr.deferred = [] → b.state = .resident → x.committing = none → Idle s p asid n b → n.desc.fault ≠ 2 → n.cancelled = false → n.status = none →
      b.idx ∉ n.done →
      let n' := { n with done := n.done ++ [b.idx], rsum := n.rsum + b.r, rcnt := n.rcnt + 1 }
      (n.done.length + 1 < n.nx * n.ny * n.nz → ∃ t, exec (.blockEnd p bid) s = .next t ∧ t.mem = s.mem ∧ (t.pkg p).blocks = [] ∧ (t.pkg p).groups = [] ∧
        (t.pkg p).clusters = [] ∧ (t.pkg p).nodes = [(nid, n')] ∧ (t.pkg p).queues = k.queues) ∧
      (n.nx * n.ny * n.nz ≤ n.done.length + 1 → n.report = 0 → n.kind = .launch → (k.queue n.q).openG = [] → (k.queue n.q).openP = [] → (k.queue n.q).openJ = [] →
        ∃ t, exec (.blockEnd p bid) s = .next t ∧ t.mem = s.mem ∧ (t.pkg p).blocks = [] ∧ (t.pkg p).groups = [] ∧ (t.pkg p).nodes = [] ∧
          (t.pkg p).queue n.q = { k.queue n.q with lcnt := (k.queue n.q).lcnt + 1 })) ∧
    (x.committing = some { secs := [], log := [] } → x.endCommit = false → x.discardAfter = none → k.olog = [] →
      exec (.commitComplete p c) s = .next (s.updCluster p c (fun x => { x with committing := none, discards := 0, discardAfter := none })))

/-- Time slices, and the end of blocks and commits (R30, R54, R58, R60, R64, R65, R254, R255). -/
def Obligations.BlocksSaveAndEnd : Prop := Claim.TimeSlices ∧ Claim.BlockAndCommitEnd

/-! ## The machine -/

/-- The code region of a group's fetches covers a word (R145), and the L2 of its die may read it (R168). -/
def Sys2Proof.Claim.Fetches (s : State) (l : Loc) (a : Addr) (w : Word) : Prop :=
  ∃ b e, boundOf l.ctx l.node l.fetchRid = some (.global, b) ∧ b.ex = true ∧ b.base ≤ a.toNat ∧ a.toNat + 3 ≤ b.limit ∧
    s.l2 l.p l.die (s.keyOf l.p l.asid a.toNat) = some e ∧ s.l2Ready l.p l.die (s.keyOf l.p l.asid a.toNat) false = true ∧ e.psn = false ∧
    s.strikes = [] ∧ w = BitVec.ofNat 32 (secGet e.data (a.toNat % 64) 4)

/-- A step runs the row that its turn comes to (R31, R40, R75, R145): the instruction decoded from the words at the lowest PC of the
group's live lanes (within a handler, of the lanes that have not returned), on the lanes that stand there, where no group of the quadrant
has been ready longer; the packet at a queue's read pointer; the message delivered; or the event. Before it the hardware does what is due
between turns, which is nothing where every package is calm.
The turn comes from the model's agenda (log 3), what is due between turns comes first (log 6), and so it is with a fetch that asks the die
L2 for a token (log 90). -/
def Obligations.StepRunsDecoded : Prop :=
  ∀ (s : State) (rest : List Turn),
    let u := s.background
    let turn := fun (c : Cur) => { u with agenda := rest, cur := c, turns := u.turns + 1 }
    ((∀ e ∈ s.pkgs, (s.pkg e.1).calm = true) → u = s) ∧
    (∀ p g l m sel w0 w1, u.agenda = .issue p g :: rest → u.loc p g = some l → (l.blk.state = .resident ∨ l.blk.state = .draining) →
      l.grp.halted = false → l.ctx.error = false → l.ctx.killed = false → l.grp.step = none → l.grp.deferred = [] →
      l.grp.slot / 8 ∉ ((u.pkg p).core l.grp.core).retiredQuads → u.elder l = false →
      (∀ h ∈ l.grp.holds, h.addr = m → h.counted = none) → l.grp.fair.slice = false → l.ctx.bp = [] →
      (∃ n < 32, bit l.grp.eligible n = true ∧ (l.grp.lane n).pc = m) → (∀ n < 32, bit l.grp.eligible n = true → m ≤ (l.grp.lane n).pc) →
      sel = Mask.ofPred (fun n => bit l.grp.eligible n && (l.grp.lane n).pc == m) → Fetches u l m w0 →
      (twoWords w0 = false → step s = exec (decode w0 0) (turn (.issue p g m sel (w0, none)))) ∧
      (twoWords w0 = true → Fetches u l (m + 4) w1 → step s = exec (decode w0 w1) (turn (.issue p g m sel (w0, some w1))))) ∧
    (∀ p q x c hd n body i, u.agenda = .packet p q :: rest → thas u.pkgs p = true → q < Config.queues → (u.pkg p).queue q = x → bit x.ctl 0 = true → x.state = 1 →
      x.hold = none → x.rd ≠ x.wp → tget (u.pkg p).ctxs (bits x.ctl 11 2) = some c → c.error = false → c.killed = false → (u.pkg p).plat.d3hot = false → (u.pkg p).plat.ready = true →
      (let ring := 2 ^ (bits x.ctl 16 12 - 4)
       let at_ := x.rd.toNat % ring
       u.ringRead p q (16 * at_) 16 = some hd ∧ hd <+: body ∧ n = (wordOf hd).toNat / 2 ^ 16 ∧ 1 ≤ n ∧ at_ + n ≤ ring ∧ n ≤ (x.wp - x.rd).toNat ∧
         u.ringRead p q (16 * at_) (16 * n) = some body ∧ decodePacket ((List.range (4 * n)).map (fun j => wordOf (body.drop (4 * j)))) = .ok i n) →
      step s = exec i (turn (.packet p q n))) ∧
    (∀ j m, u.agenda = .deliver j :: rest → u.fabric[j]? = some m → step s = exec m.body.row { turn (.message m) with fabric := u.fabric.eraseIdx j }) ∧
    (∀ i, u.agenda = .event i :: rest → step s = exec i (turn .none))

/-- Words written out from the encodings of the spec, and the instructions that they stand for (R83 to R94, R314, R350, R352, R378). -/
def Obligations.DecodeWords : Prop :=
  decode 0x00000000 0 = .nop ∧ decode 0x00800000 0 = .exit ∧ decode 0x04800000 0 = .tret ∧ decode 0x08030208 0 = .iadd false 3 1 2 .wrapS ∧
  decode 0x0803020A 0 = .iadd false 3 1 2 .satS ∧ decode 0x0883020B 0 = .isub false 3 1 2 .satU ∧ decode 0x09830209 0 = .imulh 3 1 2 true ∧
  decode 0x8B850BFF 0 = .iaddi true 5 5 (-1) ∧ decode 0x28030208 0 = .hpadd 3 1 2 .rn ∧ decode 0x28030209 0 = .hpadd 3 1 2 .rz ∧
  decode 0x80000000 0 = .illegalInstruction 0x80000000 none

/-- Decoding and encoding agree on instructions (R75 to R94): the bytes of a well-formed instruction are read as it, with every operand at
every value, and the bytes after them are left. -/
def Obligations.DecodeEncodesBack : Prop :=
  ∀ (i : Instr) (rest : List Byte), i.isInstr = true → i.wf = true → decodeBytes ((encode i).flatMap bytesOfWord ++ rest) = some (i, rest)

/-- Decoding and encoding agree on packets (R47, R48). -/
def Obligations.PacketsEncodeBack : Prop :=
  ∀ i : Instr, i.isInstr = false → i.isIllegal = false → encode i ≠ [] → i.wf = true →
    (encode i).length % 4 = 0 ∧ decodePacket (encode i) = .ok i ((encode i).length / 4)

/-- Memory keeps its canonical form in every step. -/
def Obligations.MemoryStaysCanonical : Prop :=
  ∀ s t : State, Memory.wf s.mem = true → step s = .next t → Memory.wf t.mem = true

/-- What reset leaves (R13, R17, R22, R62, R231, R267, R292, R295): memory lists nothing and is in its canonical form; a window answers
BOOTSTAT with 0 and every other register with 0; no context, queue, node, block or group exists; core c's LFSR holds c + 1, an
ASID's incarnation is 1, SCRUB holds 24 hours, and PWRLIM 2,200 W.
That an unlisted byte reads 0 is the model's choice for host memory (log 5), and so are the values of log 13, of which none is claimed here. -/
def Obligations.ResetLeaves : Prop :=
  Memory.wf State.reset.mem = true ∧ (∀ a, readByte State.reset.mem a = 0) ∧
  (∀ p ∈ State.reset.pod, Blank (State.reset.pkg p) ∧ (State.reset.pkg p).plat.ready = false ∧ (State.reset.pkg p).plat.scrub = 24 ∧
    (State.reset.pkg p).plat.pwrlim = 2200 ∧ (∀ fn k, State.reset.windowRead p fn (4 * k) 4 = some 0) ∧
    (∀ c, ((State.reset.pkg p).core c).lfsr = BitVec.ofNat 16 (c + 1)) ∧ ∀ a, ((State.reset.pkg p).recl a).inc = 1)

/-- A real number as a format's bits hold it. -/
def Sys2Proof.Claim.real (n : Bool) (m : Nat) (e : Int) : ℚ := (if n then -1 else 1) * m * (2 : ℚ) ^ e

/-- y of R109: the multiple of q that a mode chooses for v. -/
def Sys2Proof.Claim.nearby (mode : Rm) (v q : ℚ) : ℚ :=
  let k := ⌊v / q⌋
  let lo := q * k
  let hi := lo + q
  if v = lo then lo
  else match mode with
    | .rn => if v - lo < hi - v then lo else if hi - v < v - lo then hi else if k % 2 = 0 then lo else hi
    | .rna => if v - lo < hi - v then lo else if hi - v < v - lo then hi else if |lo| < |hi| then hi else lo
    | .rz => if |lo| < |hi| then lo else hi
    | .rd => lo
    | .ru => hi

/-- The one rounding (R109): the spacing at the value's exponent or at emin, the neighbour that the mode chooses, overflow past the
largest finite value, the sign of x on a zero; NX where the result is not x, UF where it is tiny after rounding as well, OF with
NX on overflow. Infinities and zeros stay, and a NaN becomes the canonical one. -/
def Obligations.RoundingIsR109 : Prop :=
  ∀ (f : Fmt) (mode : Rm), f ∈ [f64, f32, f16, bf16, e4m3, e5m2, e2m1, fa64] →
    (∀ sn, (roundTo f mode (.nan sn)).1 = .nan false ∧ f.encode (.nan false) = f.qnan) ∧
    (∀ n, roundTo f mode (.inf n) = (.inf n, 0)) ∧ (∀ n e, roundTo f mode (.fin n 0 e) = (.fin n 0 0, 0)) ∧
    (f.ieee = false → ∀ n, f.encode (.inf n) = f.qnan) ∧
    ∀ (n : Bool) (m : Nat) (e E : Int), m ≠ 0 →
      let v := real n m e
      (2 : ℚ) ^ E ≤ |v| → |v| < (2 : ℚ) ^ (E + 1) →
      let y := nearby mode v ((2 : ℚ) ^ (max E f.emin - f.mw))
      let big := real false f.maxM f.maxE
      (big < |y| → roundTo f mode (.fin n m e) = ((match mode with
        | .rn | .rna => .inf n
        | .rz => .fin n f.maxM f.maxE
        | .rd => if n then .inf true else .fin false f.maxM f.maxE
        | .ru => if n then .fin true f.maxM f.maxE else .inf false), 4 ||| 16)) ∧
      (|y| ≤ big → ∃ m' e', roundTo f mode (.fin n m e) = (.fin n m' e', if y = v then 0 else if |y| < (2 : ℚ) ^ f.emin then 8 ||| 16 else 16) ∧
        real n m' e' = y)

/-- An issue whose guards leave no lane in exec only advances the PCs of its selected lanes (R78, R297).
That the traps of decoding come first is the model's reading (log 68). -/
def Obligations.EmptyExecOnlyAdvances : Prop :=
  ∀ (i : Iss) (s : State) (gd : Guard) (d a b c : Reg), s.cur = .issue i.loc.p i.loc.g i.addr i.sel i.words → s.loc i.loc.p i.loc.g = some i.loc →
    i.ex = i.loc.grp.exec i.sel gd → i.ex = 0 → s.laneFaults = [] → s.strikes = [] → i.loc.grp.step = none → (∀ r ∈ [d, a, b, c], r.toNat + 1 < i.loc.node.desc.regs) →
    let only := fun (x : Instr) => i.Does x s s 0 same i.nextAddr
    (∀ disp, only (.bra gd disp)) ∧ (∀ f, only (.imad gd d a b c f false)) ∧ (∀ r, only (.ffma gd d a b c r)) ∧
    (∀ u size sx acq sc off, only (.ld u gd d a size sx acq sc off)) ∧ (∀ size rel sc off, only (.st gd a b size rel sc off)) ∧
    (∀ op ord sc off, only (.atom gd d a b c op false ord sc off)) ∧ (∀ op ord sc off, only (.red gd a b op false ord sc off)) ∧
    (∀ size sx fe clr off, only (.lds gd d a size sx fe clr off)) ∧ (∀ pd pr, only (.vote gd (.every pd) pr) ∧ only (.vote gd (.some pd) pr) ∧ only (.vote gd (.same pd) pr)) ∧ (∀ pr, only (.vote gd (.mask d) pr)) ∧ only (.deps gd a b c .b32)
end

