-- ==== Sys2Proof/Laws/Tab.lean ====
section
/-! SUPPORT. Laws/Tab.lean: reads after writes of a sparse table. -/

namespace Sys2Proof.Machine

variable {κ α : Type} [DecidableEq κ]

@[simp] theorem tget_nil (k : κ) : tget ([] : Tab κ α) k = none := rfl

theorem tget_tset (t : Tab κ α) (k k' : κ) (v : α) : tget (tset t k v) k' = if k = k' then some v else tget t k' := by
  induction t with
  | nil => simp [tset, tget]
  | cons e t ih =>
    obtain ⟨k0, v0⟩ := e
    by_cases h : k0 = k
    · subst h; by_cases h' : k0 = k' <;> simp [tset, tget, h']
    · by_cases h' : k0 = k'
      · subst h'; simp [tset, tget, h, Ne.symm h]
      · simp [tset, tget, h, h', ih]

@[simp] theorem tget_tset_same (t : Tab κ α) (k : κ) (v : α) : tget (tset t k v) k = some v := by simp [tget_tset]

theorem tget_tset_other (t : Tab κ α) {k k' : κ} (v : α) (h : k ≠ k') : tget (tset t k v) k' = tget t k' := by
  simp [tget_tset, h]

theorem tget_tdel (t : Tab κ α) (k k' : κ) : tget (tdel t k) k' = if k = k' then none else tget t k' := by
  induction t with
  | nil => simp [tdel]
  | cons e t ih =>
    obtain ⟨k0, v0⟩ := e
    by_cases h : k0 = k
    · subst h; by_cases h' : k0 = k' <;> simp_all [tdel, tget]
    · by_cases h' : k0 = k'
      · subst h'; simp [tdel, tget, h, Ne.symm h]
      · simp [tdel, tget, h, h', ih]

theorem tget_tmod (t : Tab κ α) (k k' : κ) (f : α → α) :
    tget (tmod t k f) k' = if k = k' then (tget t k').map f else tget t k' := by
  unfold tmod
  cases h : tget t k with
  | none => by_cases h' : k = k' <;> simp_all
  | some v => by_cases h' : k = k' <;> simp_all [tget_tset]

theorem tgetD_tset (t : Tab κ α) (k k' : κ) (v d : α) : tgetD (tset t k v) k' d = if k = k' then v else tgetD t k' d := by
  by_cases h : k = k' <;> simp [tgetD, tget_tset, h]

theorem tgetD_tmodD (t : Tab κ α) (k k' : κ) (d : α) (f : α → α) :
    tgetD (tmodD t k d f) k' d = if k = k' then f (tgetD t k' d) else tgetD t k' d := by
  by_cases h : k = k' <;> simp [tmodD, tgetD_tset, h]

@[simp] theorem thas_tset (t : Tab κ α) (k k' : κ) (v : α) : thas (tset t k v) k' = (decide (k = k') || thas t k') := by
  by_cases h : k = k' <;> simp [thas, tget_tset, h]

theorem tmod_of_none (t : Tab κ α) (k : κ) (f : α → α) (h : tget t k = none) : tmod t k f = t := by simp [tmod, h]

theorem tset_tset (t : Tab κ α) (k : κ) (v w : α) : tset (tset t k v) k w = tset t k w := by
  induction t with
  | nil => simp [tset]
  | cons e t ih =>
    obtain ⟨k0, v0⟩ := e
    by_cases h : k0 = k <;> simp [tset, h, ih]

/-- Two changes of one entry are one. -/
theorem tmod_tmod (t : Tab κ α) (k : κ) (f g : α → α) : tmod (tmod t k f) k g = tmod t k (fun x => g (f x)) := by
  cases h : tget t k with
  | none => simp [tmod, h]
  | some v => simp [tmod, h, tset_tset]

theorem tmod_const (t : Tab κ α) (k : κ) (v : α) (h : (tget t k).isSome) (f : α → α) (hf : ∀ x, tget t k = some x → f x = v) :
    tmod t k f = tset t k v := by
  obtain ⟨x, hx⟩ := Option.isSome_iff_exists.mp h
  simp [tmod, hx, hf x hx]

end Sys2Proof.Machine
end

