-- ==== Sys2Proof/Laws/State.lean ====
section
/-! SUPPORT. Laws/State.lean: one lemma per field per update of the state, of a package, of a group and of a lane. -/

namespace Sys2Proof.Machine

section StateFields
variable (s : State) (p n : Nat)

@[simp] theorem State.updPkg_part (f : Pkg → Pkg) : (s.updPkg p f).part = s.part := rfl
@[simp] theorem State.updPkg_mem (f : Pkg → Pkg) : (s.updPkg p f).mem = s.mem := rfl
@[simp] theorem State.updPkg_fabric (f : Pkg → Pkg) : (s.updPkg p f).fabric = s.fabric := rfl
@[simp] theorem State.updPkg_agenda (f : Pkg → Pkg) : (s.updPkg p f).agenda = s.agenda := rfl
@[simp] theorem State.updPkg_cur (f : Pkg → Pkg) : (s.updPkg p f).cur = s.cur := rfl
@[simp] theorem State.updPkg_now (f : Pkg → Pkg) : (s.updPkg p f).now = s.now := rfl
@[simp] theorem State.updPkg_turns (f : Pkg → Pkg) : (s.updPkg p f).turns = s.turns := rfl
@[simp] theorem State.updPkg_draws (f : Pkg → Pkg) : (s.updPkg p f).draws = s.draws := rfl
@[simp] theorem State.updPkg_strikes (f : Pkg → Pkg) : (s.updPkg p f).strikes = s.strikes := rfl
@[simp] theorem State.updPkg_laneFaults (f : Pkg → Pkg) : (s.updPkg p f).laneFaults = s.laneFaults := rfl
@[simp] theorem State.updPkg_dramErrs (f : Pkg → Pkg) : (s.updPkg p f).dramErrs = s.dramErrs := rfl
@[simp] theorem State.updGroup_part (f : Group → Group) : (s.updGroup p n f).part = s.part := rfl
@[simp] theorem State.updGroup_mem (f : Group → Group) : (s.updGroup p n f).mem = s.mem := rfl
@[simp] theorem State.updGroup_fabric (f : Group → Group) : (s.updGroup p n f).fabric = s.fabric := rfl
@[simp] theorem State.updGroup_agenda (f : Group → Group) : (s.updGroup p n f).agenda = s.agenda := rfl
@[simp] theorem State.updGroup_cur (f : Group → Group) : (s.updGroup p n f).cur = s.cur := rfl
@[simp] theorem State.updGroup_now (f : Group → Group) : (s.updGroup p n f).now = s.now := rfl
@[simp] theorem State.updGroup_turns (f : Group → Group) : (s.updGroup p n f).turns = s.turns := rfl
@[simp] theorem State.updGroup_draws (f : Group → Group) : (s.updGroup p n f).draws = s.draws := rfl
@[simp] theorem State.updGroup_strikes (f : Group → Group) : (s.updGroup p n f).strikes = s.strikes := rfl
@[simp] theorem State.updGroup_laneFaults (f : Group → Group) : (s.updGroup p n f).laneFaults = s.laneFaults := rfl
@[simp] theorem State.updGroup_dramErrs (f : Group → Group) : (s.updGroup p n f).dramErrs = s.dramErrs := rfl
@[simp] theorem State.updBlock_part (f : Block → Block) : (s.updBlock p n f).part = s.part := rfl
@[simp] theorem State.updBlock_mem (f : Block → Block) : (s.updBlock p n f).mem = s.mem := rfl
@[simp] theorem State.updBlock_fabric (f : Block → Block) : (s.updBlock p n f).fabric = s.fabric := rfl
@[simp] theorem State.updBlock_agenda (f : Block → Block) : (s.updBlock p n f).agenda = s.agenda := rfl
@[simp] theorem State.updBlock_cur (f : Block → Block) : (s.updBlock p n f).cur = s.cur := rfl
@[simp] theorem State.updBlock_now (f : Block → Block) : (s.updBlock p n f).now = s.now := rfl
@[simp] theorem State.updBlock_turns (f : Block → Block) : (s.updBlock p n f).turns = s.turns := rfl
@[simp] theorem State.updBlock_draws (f : Block → Block) : (s.updBlock p n f).draws = s.draws := rfl
@[simp] theorem State.updBlock_strikes (f : Block → Block) : (s.updBlock p n f).strikes = s.strikes := rfl
@[simp] theorem State.updBlock_laneFaults (f : Block → Block) : (s.updBlock p n f).laneFaults = s.laneFaults := rfl
@[simp] theorem State.updBlock_dramErrs (f : Block → Block) : (s.updBlock p n f).dramErrs = s.dramErrs := rfl
@[simp] theorem State.updCluster_part (f : Cluster → Cluster) : (s.updCluster p n f).part = s.part := rfl
@[simp] theorem State.updCluster_mem (f : Cluster → Cluster) : (s.updCluster p n f).mem = s.mem := rfl
@[simp] theorem State.updCluster_fabric (f : Cluster → Cluster) : (s.updCluster p n f).fabric = s.fabric := rfl
@[simp] theorem State.updCluster_agenda (f : Cluster → Cluster) : (s.updCluster p n f).agenda = s.agenda := rfl
@[simp] theorem State.updCluster_cur (f : Cluster → Cluster) : (s.updCluster p n f).cur = s.cur := rfl
@[simp] theorem State.updCluster_now (f : Cluster → Cluster) : (s.updCluster p n f).now = s.now := rfl
@[simp] theorem State.updCluster_turns (f : Cluster → Cluster) : (s.updCluster p n f).turns = s.turns := rfl
@[simp] theorem State.updCluster_draws (f : Cluster → Cluster) : (s.updCluster p n f).draws = s.draws := rfl
@[simp] theorem State.updCluster_strikes (f : Cluster → Cluster) : (s.updCluster p n f).strikes = s.strikes := rfl
@[simp] theorem State.updCluster_laneFaults (f : Cluster → Cluster) : (s.updCluster p n f).laneFaults = s.laneFaults := rfl
@[simp] theorem State.updCluster_dramErrs (f : Cluster → Cluster) : (s.updCluster p n f).dramErrs = s.dramErrs := rfl
@[simp] theorem State.updCore_part (f : Core → Core) : (s.updCore p n f).part = s.part := rfl
@[simp] theorem State.updCore_mem (f : Core → Core) : (s.updCore p n f).mem = s.mem := rfl
@[simp] theorem State.updCore_fabric (f : Core → Core) : (s.updCore p n f).fabric = s.fabric := rfl
@[simp] theorem State.updCore_agenda (f : Core → Core) : (s.updCore p n f).agenda = s.agenda := rfl
@[simp] theorem State.updCore_cur (f : Core → Core) : (s.updCore p n f).cur = s.cur := rfl
@[simp] theorem State.updCore_now (f : Core → Core) : (s.updCore p n f).now = s.now := rfl
@[simp] theorem State.updCore_turns (f : Core → Core) : (s.updCore p n f).turns = s.turns := rfl
@[simp] theorem State.updCore_draws (f : Core → Core) : (s.updCore p n f).draws = s.draws := rfl
@[simp] theorem State.updCore_strikes (f : Core → Core) : (s.updCore p n f).strikes = s.strikes := rfl
@[simp] theorem State.updCore_laneFaults (f : Core → Core) : (s.updCore p n f).laneFaults = s.laneFaults := rfl
@[simp] theorem State.updCore_dramErrs (f : Core → Core) : (s.updCore p n f).dramErrs = s.dramErrs := rfl
@[simp] theorem State.updDie_part (f : Die → Die) : (s.updDie p n f).part = s.part := rfl
@[simp] theorem State.updDie_mem (f : Die → Die) : (s.updDie p n f).mem = s.mem := rfl
@[simp] theorem State.updDie_fabric (f : Die → Die) : (s.updDie p n f).fabric = s.fabric := rfl
@[simp] theorem State.updDie_agenda (f : Die → Die) : (s.updDie p n f).agenda = s.agenda := rfl
@[simp] theorem State.updDie_cur (f : Die → Die) : (s.updDie p n f).cur = s.cur := rfl
@[simp] theorem State.updDie_now (f : Die → Die) : (s.updDie p n f).now = s.now := rfl
@[simp] theorem State.updDie_turns (f : Die → Die) : (s.updDie p n f).turns = s.turns := rfl
@[simp] theorem State.updDie_draws (f : Die → Die) : (s.updDie p n f).draws = s.draws := rfl
@[simp] theorem State.updDie_strikes (f : Die → Die) : (s.updDie p n f).strikes = s.strikes := rfl
@[simp] theorem State.updDie_laneFaults (f : Die → Die) : (s.updDie p n f).laneFaults = s.laneFaults := rfl
@[simp] theorem State.updDie_dramErrs (f : Die → Die) : (s.updDie p n f).dramErrs = s.dramErrs := rfl
@[simp] theorem State.updCtrl_part (f : Ctrl → Ctrl) : (s.updCtrl p n f).part = s.part := rfl
@[simp] theorem State.updCtrl_mem (f : Ctrl → Ctrl) : (s.updCtrl p n f).mem = s.mem := rfl
@[simp] theorem State.updCtrl_fabric (f : Ctrl → Ctrl) : (s.updCtrl p n f).fabric = s.fabric := rfl
@[simp] theorem State.updCtrl_agenda (f : Ctrl → Ctrl) : (s.updCtrl p n f).agenda = s.agenda := rfl
@[simp] theorem State.updCtrl_cur (f : Ctrl → Ctrl) : (s.updCtrl p n f).cur = s.cur := rfl
@[simp] theorem State.updCtrl_now (f : Ctrl → Ctrl) : (s.updCtrl p n f).now = s.now := rfl
@[simp] theorem State.updCtrl_turns (f : Ctrl → Ctrl) : (s.updCtrl p n f).turns = s.turns := rfl
@[simp] theorem State.updCtrl_draws (f : Ctrl → Ctrl) : (s.updCtrl p n f).draws = s.draws := rfl
@[simp] theorem State.updCtrl_strikes (f : Ctrl → Ctrl) : (s.updCtrl p n f).strikes = s.strikes := rfl
@[simp] theorem State.updCtrl_laneFaults (f : Ctrl → Ctrl) : (s.updCtrl p n f).laneFaults = s.laneFaults := rfl
@[simp] theorem State.updCtrl_dramErrs (f : Ctrl → Ctrl) : (s.updCtrl p n f).dramErrs = s.dramErrs := rfl
@[simp] theorem State.updNode_part (f : Node → Node) : (s.updNode p n f).part = s.part := rfl
@[simp] theorem State.updNode_mem (f : Node → Node) : (s.updNode p n f).mem = s.mem := rfl
@[simp] theorem State.updNode_fabric (f : Node → Node) : (s.updNode p n f).fabric = s.fabric := rfl
@[simp] theorem State.updNode_agenda (f : Node → Node) : (s.updNode p n f).agenda = s.agenda := rfl
@[simp] theorem State.updNode_cur (f : Node → Node) : (s.updNode p n f).cur = s.cur := rfl
@[simp] theorem State.updNode_now (f : Node → Node) : (s.updNode p n f).now = s.now := rfl
@[simp] theorem State.updNode_turns (f : Node → Node) : (s.updNode p n f).turns = s.turns := rfl
@[simp] theorem State.updNode_draws (f : Node → Node) : (s.updNode p n f).draws = s.draws := rfl
@[simp] theorem State.updNode_strikes (f : Node → Node) : (s.updNode p n f).strikes = s.strikes := rfl
@[simp] theorem State.updNode_laneFaults (f : Node → Node) : (s.updNode p n f).laneFaults = s.laneFaults := rfl
@[simp] theorem State.updNode_dramErrs (f : Node → Node) : (s.updNode p n f).dramErrs = s.dramErrs := rfl
@[simp] theorem State.updCtx_part (f : Ctx → Ctx) : (s.updCtx p n f).part = s.part := rfl
@[simp] theorem State.updCtx_mem (f : Ctx → Ctx) : (s.updCtx p n f).mem = s.mem := rfl
@[simp] theorem State.updCtx_fabric (f : Ctx → Ctx) : (s.updCtx p n f).fabric = s.fabric := rfl
@[simp] theorem State.updCtx_agenda (f : Ctx → Ctx) : (s.updCtx p n f).agenda = s.agenda := rfl
@[simp] theorem State.updCtx_cur (f : Ctx → Ctx) : (s.updCtx p n f).cur = s.cur := rfl
@[simp] theorem State.updCtx_now (f : Ctx → Ctx) : (s.updCtx p n f).now = s.now := rfl
@[simp] theorem State.updCtx_turns (f : Ctx → Ctx) : (s.updCtx p n f).turns = s.turns := rfl
@[simp] theorem State.updCtx_draws (f : Ctx → Ctx) : (s.updCtx p n f).draws = s.draws := rfl
@[simp] theorem State.updCtx_strikes (f : Ctx → Ctx) : (s.updCtx p n f).strikes = s.strikes := rfl
@[simp] theorem State.updCtx_laneFaults (f : Ctx → Ctx) : (s.updCtx p n f).laneFaults = s.laneFaults := rfl
@[simp] theorem State.updCtx_dramErrs (f : Ctx → Ctx) : (s.updCtx p n f).dramErrs = s.dramErrs := rfl
@[simp] theorem State.updQueue_part (f : Queue → Queue) : (s.updQueue p n f).part = s.part := rfl
@[simp] theorem State.updQueue_mem (f : Queue → Queue) : (s.updQueue p n f).mem = s.mem := rfl
@[simp] theorem State.updQueue_fabric (f : Queue → Queue) : (s.updQueue p n f).fabric = s.fabric := rfl
@[simp] theorem State.updQueue_agenda (f : Queue → Queue) : (s.updQueue p n f).agenda = s.agenda := rfl
@[simp] theorem State.updQueue_cur (f : Queue → Queue) : (s.updQueue p n f).cur = s.cur := rfl
@[simp] theorem State.updQueue_now (f : Queue → Queue) : (s.updQueue p n f).now = s.now := rfl
@[simp] theorem State.updQueue_turns (f : Queue → Queue) : (s.updQueue p n f).turns = s.turns := rfl
@[simp] theorem State.updQueue_draws (f : Queue → Queue) : (s.updQueue p n f).draws = s.draws := rfl
@[simp] theorem State.updQueue_strikes (f : Queue → Queue) : (s.updQueue p n f).strikes = s.strikes := rfl
@[simp] theorem State.updQueue_laneFaults (f : Queue → Queue) : (s.updQueue p n f).laneFaults = s.laneFaults := rfl
@[simp] theorem State.updQueue_dramErrs (f : Queue → Queue) : (s.updQueue p n f).dramErrs = s.dramErrs := rfl
@[simp] theorem State.updPort_part (f : Port → Port) : (s.updPort p n f).part = s.part := rfl
@[simp] theorem State.updPort_mem (f : Port → Port) : (s.updPort p n f).mem = s.mem := rfl
@[simp] theorem State.updPort_fabric (f : Port → Port) : (s.updPort p n f).fabric = s.fabric := rfl
@[simp] theorem State.updPort_agenda (f : Port → Port) : (s.updPort p n f).agenda = s.agenda := rfl
@[simp] theorem State.updPort_cur (f : Port → Port) : (s.updPort p n f).cur = s.cur := rfl
@[simp] theorem State.updPort_now (f : Port → Port) : (s.updPort p n f).now = s.now := rfl
@[simp] theorem State.updPort_turns (f : Port → Port) : (s.updPort p n f).turns = s.turns := rfl
@[simp] theorem State.updPort_draws (f : Port → Port) : (s.updPort p n f).draws = s.draws := rfl
@[simp] theorem State.updPort_strikes (f : Port → Port) : (s.updPort p n f).strikes = s.strikes := rfl
@[simp] theorem State.updPort_laneFaults (f : Port → Port) : (s.updPort p n f).laneFaults = s.laneFaults := rfl
@[simp] theorem State.updPort_dramErrs (f : Port → Port) : (s.updPort p n f).dramErrs = s.dramErrs := rfl
@[simp] theorem State.updFn_part (f : Fn → Fn) : (s.updFn p n f).part = s.part := rfl
@[simp] theorem State.updFn_mem (f : Fn → Fn) : (s.updFn p n f).mem = s.mem := rfl
@[simp] theorem State.updFn_fabric (f : Fn → Fn) : (s.updFn p n f).fabric = s.fabric := rfl
@[simp] theorem State.updFn_agenda (f : Fn → Fn) : (s.updFn p n f).agenda = s.agenda := rfl
@[simp] theorem State.updFn_cur (f : Fn → Fn) : (s.updFn p n f).cur = s.cur := rfl
@[simp] theorem State.updFn_now (f : Fn → Fn) : (s.updFn p n f).now = s.now := rfl
@[simp] theorem State.updFn_turns (f : Fn → Fn) : (s.updFn p n f).turns = s.turns := rfl
@[simp] theorem State.updFn_draws (f : Fn → Fn) : (s.updFn p n f).draws = s.draws := rfl
@[simp] theorem State.updFn_strikes (f : Fn → Fn) : (s.updFn p n f).strikes = s.strikes := rfl
@[simp] theorem State.updFn_laneFaults (f : Fn → Fn) : (s.updFn p n f).laneFaults = s.laneFaults := rfl
@[simp] theorem State.updFn_dramErrs (f : Fn → Fn) : (s.updFn p n f).dramErrs = s.dramErrs := rfl
@[simp] theorem State.bump_part (w : Nat) : (s.bump p n w).part = s.part := rfl
@[simp] theorem State.elapse_part : (s.elapse n).part = s.part := rfl
@[simp] theorem State.bump_mem (w : Nat) : (s.bump p n w).mem = s.mem := rfl
@[simp] theorem State.elapse_mem : (s.elapse n).mem = s.mem := rfl
@[simp] theorem State.bump_fabric (w : Nat) : (s.bump p n w).fabric = s.fabric := rfl
@[simp] theorem State.elapse_fabric : (s.elapse n).fabric = s.fabric := rfl
@[simp] theorem State.bump_agenda (w : Nat) : (s.bump p n w).agenda = s.agenda := rfl
@[simp] theorem State.elapse_agenda : (s.elapse n).agenda = s.agenda := rfl
@[simp] theorem State.bump_cur (w : Nat) : (s.bump p n w).cur = s.cur := rfl
@[simp] theorem State.elapse_cur : (s.elapse n).cur = s.cur := rfl
@[simp] theorem State.bump_now (w : Nat) : (s.bump p n w).now = s.now := rfl
@[simp] theorem State.bump_turns (w : Nat) : (s.bump p n w).turns = s.turns := rfl
@[simp] theorem State.elapse_turns : (s.elapse n).turns = s.turns := rfl
@[simp] theorem State.bump_draws (w : Nat) : (s.bump p n w).draws = s.draws := rfl
@[simp] theorem State.elapse_draws : (s.elapse n).draws = s.draws := rfl
@[simp] theorem State.bump_strikes (w : Nat) : (s.bump p n w).strikes = s.strikes := rfl
@[simp] theorem State.elapse_strikes : (s.elapse n).strikes = s.strikes := rfl
@[simp] theorem State.bump_laneFaults (w : Nat) : (s.bump p n w).laneFaults = s.laneFaults := rfl
@[simp] theorem State.elapse_laneFaults : (s.elapse n).laneFaults = s.laneFaults := rfl
@[simp] theorem State.bump_dramErrs (w : Nat) : (s.bump p n w).dramErrs = s.dramErrs := rfl
@[simp] theorem State.elapse_dramErrs : (s.elapse n).dramErrs = s.dramErrs := rfl
end StateFields

section PkgFields
variable (k : Pkg) (n : Nat)

@[simp] theorem Pkg.updGroup_part (f : Group → Group) : (k.updGroup n f).part = k.part := rfl
@[simp] theorem Pkg.updGroup_ctxs (f : Group → Group) : (k.updGroup n f).ctxs = k.ctxs := rfl
@[simp] theorem Pkg.updGroup_reclaim (f : Group → Group) : (k.updGroup n f).reclaim = k.reclaim := rfl
@[simp] theorem Pkg.updGroup_kills (f : Group → Group) : (k.updGroup n f).kills = k.kills := rfl
@[simp] theorem Pkg.updGroup_adopted (f : Group → Group) : (k.updGroup n f).adopted = k.adopted := rfl
@[simp] theorem Pkg.updGroup_queues (f : Group → Group) : (k.updGroup n f).queues = k.queues := rfl
@[simp] theorem Pkg.updGroup_nodes (f : Group → Group) : (k.updGroup n f).nodes = k.nodes := rfl
@[simp] theorem Pkg.updGroup_slices (f : Group → Group) : (k.updGroup n f).slices = k.slices := rfl
@[simp] theorem Pkg.updGroup_clusters (f : Group → Group) : (k.updGroup n f).clusters = k.clusters := rfl
@[simp] theorem Pkg.updGroup_blocks (f : Group → Group) : (k.updGroup n f).blocks = k.blocks := rfl
@[simp] theorem Pkg.updGroup_cores (f : Group → Group) : (k.updGroup n f).cores = k.cores := rfl
@[simp] theorem Pkg.updGroup_dies (f : Group → Group) : (k.updGroup n f).dies = k.dies := rfl
@[simp] theorem Pkg.updGroup_ctrls (f : Group → Group) : (k.updGroup n f).ctrls = k.ctrls := rfl
@[simp] theorem Pkg.updGroup_home (f : Group → Group) : (k.updGroup n f).home = k.home := rfl
@[simp] theorem Pkg.updGroup_keyed (f : Group → Group) : (k.updGroup n f).keyed = k.keyed := rfl
@[simp] theorem Pkg.updGroup_rowErrs (f : Group → Group) : (k.updGroup n f).rowErrs = k.rowErrs := rfl
@[simp] theorem Pkg.updGroup_spares (f : Group → Group) : (k.updGroup n f).spares = k.spares := rfl
@[simp] theorem Pkg.updGroup_retiredRows (f : Group → Group) : (k.updGroup n f).retiredRows = k.retiredRows := rfl
@[simp] theorem Pkg.updGroup_wipesDue (f : Group → Group) : (k.updGroup n f).wipesDue = k.wipesDue := rfl
@[simp] theorem Pkg.updGroup_pends (f : Group → Group) : (k.updGroup n f).pends = k.pends := rfl
@[simp] theorem Pkg.updGroup_olog (f : Group → Group) : (k.updGroup n f).olog = k.olog := rfl
@[simp] theorem Pkg.updGroup_btes (f : Group → Group) : (k.updGroup n f).btes = k.btes := rfl
@[simp] theorem Pkg.updGroup_cpWrites (f : Group → Group) : (k.updGroup n f).cpWrites = k.cpWrites := rfl
@[simp] theorem Pkg.updGroup_chan (f : Group → Group) : (k.updGroup n f).chan = k.chan := rfl
@[simp] theorem Pkg.updGroup_ports (f : Group → Group) : (k.updGroup n f).ports = k.ports := rfl
@[simp] theorem Pkg.updGroup_noPath (f : Group → Group) : (k.updGroup n f).noPath = k.noPath := rfl
@[simp] theorem Pkg.updGroup_fns (f : Group → Group) : (k.updGroup n f).fns = k.fns := rfl
@[simp] theorem Pkg.updGroup_plat (f : Group → Group) : (k.updGroup n f).plat = k.plat := rfl
@[simp] theorem Pkg.updGroup_ctrs (f : Group → Group) : (k.updGroup n f).ctrs = k.ctrs := rfl
@[simp] theorem Pkg.updGroup_lidCtr (f : Group → Group) : (k.updGroup n f).lidCtr = k.lidCtr := rfl
@[simp] theorem Pkg.updGroup_uid (f : Group → Group) : (k.updGroup n f).uid = k.uid := rfl
@[simp] theorem Pkg.updGroup_seq (f : Group → Group) : (k.updGroup n f).seq = k.seq := rfl
@[simp] theorem Pkg.updGroup_served (f : Group → Group) : (k.updGroup n f).served = k.served := rfl
@[simp] theorem Pkg.updGroup_sliceAt (f : Group → Group) : (k.updGroup n f).sliceAt = k.sliceAt := rfl
@[simp] theorem Pkg.updGroup_halted (f : Group → Group) : (k.updGroup n f).halted = k.halted := rfl
@[simp] theorem Pkg.updGroup_aclk (f : Group → Group) : (k.updGroup n f).aclk = k.aclk := rfl
@[simp] theorem Pkg.updBlock_part (f : Block → Block) : (k.updBlock n f).part = k.part := rfl
@[simp] theorem Pkg.updBlock_ctxs (f : Block → Block) : (k.updBlock n f).ctxs = k.ctxs := rfl
@[simp] theorem Pkg.updBlock_reclaim (f : Block → Block) : (k.updBlock n f).reclaim = k.reclaim := rfl
@[simp] theorem Pkg.updBlock_kills (f : Block → Block) : (k.updBlock n f).kills = k.kills := rfl
@[simp] theorem Pkg.updBlock_adopted (f : Block → Block) : (k.updBlock n f).adopted = k.adopted := rfl
@[simp] theorem Pkg.updBlock_queues (f : Block → Block) : (k.updBlock n f).queues = k.queues := rfl
@[simp] theorem Pkg.updBlock_nodes (f : Block → Block) : (k.updBlock n f).nodes = k.nodes := rfl
@[simp] theorem Pkg.updBlock_slices (f : Block → Block) : (k.updBlock n f).slices = k.slices := rfl
@[simp] theorem Pkg.updBlock_clusters (f : Block → Block) : (k.updBlock n f).clusters = k.clusters := rfl
@[simp] theorem Pkg.updBlock_groups (f : Block → Block) : (k.updBlock n f).groups = k.groups := rfl
@[simp] theorem Pkg.updBlock_cores (f : Block → Block) : (k.updBlock n f).cores = k.cores := rfl
@[simp] theorem Pkg.updBlock_dies (f : Block → Block) : (k.updBlock n f).dies = k.dies := rfl
@[simp] theorem Pkg.updBlock_ctrls (f : Block → Block) : (k.updBlock n f).ctrls = k.ctrls := rfl
@[simp] theorem Pkg.updBlock_home (f : Block → Block) : (k.updBlock n f).home = k.home := rfl
@[simp] theorem Pkg.updBlock_keyed (f : Block → Block) : (k.updBlock n f).keyed = k.keyed := rfl
@[simp] theorem Pkg.updBlock_rowErrs (f : Block → Block) : (k.updBlock n f).rowErrs = k.rowErrs := rfl
@[simp] theorem Pkg.updBlock_spares (f : Block → Block) : (k.updBlock n f).spares = k.spares := rfl
@[simp] theorem Pkg.updBlock_retiredRows (f : Block → Block) : (k.updBlock n f).retiredRows = k.retiredRows := rfl
@[simp] theorem Pkg.updBlock_wipesDue (f : Block → Block) : (k.updBlock n f).wipesDue = k.wipesDue := rfl
@[simp] theorem Pkg.updBlock_pends (f : Block → Block) : (k.updBlock n f).pends = k.pends := rfl
@[simp] theorem Pkg.updBlock_olog (f : Block → Block) : (k.updBlock n f).olog = k.olog := rfl
@[simp] theorem Pkg.updBlock_btes (f : Block → Block) : (k.updBlock n f).btes = k.btes := rfl
@[simp] theorem Pkg.updBlock_cpWrites (f : Block → Block) : (k.updBlock n f).cpWrites = k.cpWrites := rfl
@[simp] theorem Pkg.updBlock_chan (f : Block → Block) : (k.updBlock n f).chan = k.chan := rfl
@[simp] theorem Pkg.updBlock_ports (f : Block → Block) : (k.updBlock n f).ports = k.ports := rfl
@[simp] theorem Pkg.updBlock_noPath (f : Block → Block) : (k.updBlock n f).noPath = k.noPath := rfl
@[simp] theorem Pkg.updBlock_fns (f : Block → Block) : (k.updBlock n f).fns = k.fns := rfl
@[simp] theorem Pkg.updBlock_plat (f : Block → Block) : (k.updBlock n f).plat = k.plat := rfl
@[simp] theorem Pkg.updBlock_ctrs (f : Block → Block) : (k.updBlock n f).ctrs = k.ctrs := rfl
@[simp] theorem Pkg.updBlock_lidCtr (f : Block → Block) : (k.updBlock n f).lidCtr = k.lidCtr := rfl
@[simp] theorem Pkg.updBlock_uid (f : Block → Block) : (k.updBlock n f).uid = k.uid := rfl
@[simp] theorem Pkg.updBlock_seq (f : Block → Block) : (k.updBlock n f).seq = k.seq := rfl
@[simp] theorem Pkg.updBlock_served (f : Block → Block) : (k.updBlock n f).served = k.served := rfl
@[simp] theorem Pkg.updBlock_sliceAt (f : Block → Block) : (k.updBlock n f).sliceAt = k.sliceAt := rfl
@[simp] theorem Pkg.updBlock_halted (f : Block → Block) : (k.updBlock n f).halted = k.halted := rfl
@[simp] theorem Pkg.updBlock_aclk (f : Block → Block) : (k.updBlock n f).aclk = k.aclk := rfl
@[simp] theorem Pkg.updCluster_part (f : Cluster → Cluster) : (k.updCluster n f).part = k.part := rfl
@[simp] theorem Pkg.updCluster_ctxs (f : Cluster → Cluster) : (k.updCluster n f).ctxs = k.ctxs := rfl
@[simp] theorem Pkg.updCluster_reclaim (f : Cluster → Cluster) : (k.updCluster n f).reclaim = k.reclaim := rfl
@[simp] theorem Pkg.updCluster_kills (f : Cluster → Cluster) : (k.updCluster n f).kills = k.kills := rfl
@[simp] theorem Pkg.updCluster_adopted (f : Cluster → Cluster) : (k.updCluster n f).adopted = k.adopted := rfl
@[simp] theorem Pkg.updCluster_queues (f : Cluster → Cluster) : (k.updCluster n f).queues = k.queues := rfl
@[simp] theorem Pkg.updCluster_nodes (f : Cluster → Cluster) : (k.updCluster n f).nodes = k.nodes := rfl
@[simp] theorem Pkg.updCluster_slices (f : Cluster → Cluster) : (k.updCluster n f).slices = k.slices := rfl
@[simp] theorem Pkg.updCluster_blocks (f : Cluster → Cluster) : (k.updCluster n f).blocks = k.blocks := rfl
@[simp] theorem Pkg.updCluster_groups (f : Cluster → Cluster) : (k.updCluster n f).groups = k.groups := rfl
@[simp] theorem Pkg.updCluster_cores (f : Cluster → Cluster) : (k.updCluster n f).cores = k.cores := rfl
@[simp] theorem Pkg.updCluster_dies (f : Cluster → Cluster) : (k.updCluster n f).dies = k.dies := rfl
@[simp] theorem Pkg.updCluster_ctrls (f : Cluster → Cluster) : (k.updCluster n f).ctrls = k.ctrls := rfl
@[simp] theorem Pkg.updCluster_home (f : Cluster → Cluster) : (k.updCluster n f).home = k.home := rfl
@[simp] theorem Pkg.updCluster_keyed (f : Cluster → Cluster) : (k.updCluster n f).keyed = k.keyed := rfl
@[simp] theorem Pkg.updCluster_rowErrs (f : Cluster → Cluster) : (k.updCluster n f).rowErrs = k.rowErrs := rfl
@[simp] theorem Pkg.updCluster_spares (f : Cluster → Cluster) : (k.updCluster n f).spares = k.spares := rfl
@[simp] theorem Pkg.updCluster_retiredRows (f : Cluster → Cluster) : (k.updCluster n f).retiredRows = k.retiredRows := rfl
@[simp] theorem Pkg.updCluster_wipesDue (f : Cluster → Cluster) : (k.updCluster n f).wipesDue = k.wipesDue := rfl
@[simp] theorem Pkg.updCluster_pends (f : Cluster → Cluster) : (k.updCluster n f).pends = k.pends := rfl
@[simp] theorem Pkg.updCluster_olog (f : Cluster → Cluster) : (k.updCluster n f).olog = k.olog := rfl
@[simp] theorem Pkg.updCluster_btes (f : Cluster → Cluster) : (k.updCluster n f).btes = k.btes := rfl
@[simp] theorem Pkg.updCluster_cpWrites (f : Cluster → Cluster) : (k.updCluster n f).cpWrites = k.cpWrites := rfl
@[simp] theorem Pkg.updCluster_chan (f : Cluster → Cluster) : (k.updCluster n f).chan = k.chan := rfl
@[simp] theorem Pkg.updCluster_ports (f : Cluster → Cluster) : (k.updCluster n f).ports = k.ports := rfl
@[simp] theorem Pkg.updCluster_noPath (f : Cluster → Cluster) : (k.updCluster n f).noPath = k.noPath := rfl
@[simp] theorem Pkg.updCluster_fns (f : Cluster → Cluster) : (k.updCluster n f).fns = k.fns := rfl
@[simp] theorem Pkg.updCluster_plat (f : Cluster → Cluster) : (k.updCluster n f).plat = k.plat := rfl
@[simp] theorem Pkg.updCluster_ctrs (f : Cluster → Cluster) : (k.updCluster n f).ctrs = k.ctrs := rfl
@[simp] theorem Pkg.updCluster_lidCtr (f : Cluster → Cluster) : (k.updCluster n f).lidCtr = k.lidCtr := rfl
@[simp] theorem Pkg.updCluster_uid (f : Cluster → Cluster) : (k.updCluster n f).uid = k.uid := rfl
@[simp] theorem Pkg.updCluster_seq (f : Cluster → Cluster) : (k.updCluster n f).seq = k.seq := rfl
@[simp] theorem Pkg.updCluster_served (f : Cluster → Cluster) : (k.updCluster n f).served = k.served := rfl
@[simp] theorem Pkg.updCluster_sliceAt (f : Cluster → Cluster) : (k.updCluster n f).sliceAt = k.sliceAt := rfl
@[simp] theorem Pkg.updCluster_halted (f : Cluster → Cluster) : (k.updCluster n f).halted = k.halted := rfl
@[simp] theorem Pkg.updCluster_aclk (f : Cluster → Cluster) : (k.updCluster n f).aclk = k.aclk := rfl
@[simp] theorem Pkg.updNode_part (f : Node → Node) : (k.updNode n f).part = k.part := rfl
@[simp] theorem Pkg.updNode_ctxs (f : Node → Node) : (k.updNode n f).ctxs = k.ctxs := rfl
@[simp] theorem Pkg.updNode_reclaim (f : Node → Node) : (k.updNode n f).reclaim = k.reclaim := rfl
@[simp] theorem Pkg.updNode_kills (f : Node → Node) : (k.updNode n f).kills = k.kills := rfl
@[simp] theorem Pkg.updNode_adopted (f : Node → Node) : (k.updNode n f).adopted = k.adopted := rfl
@[simp] theorem Pkg.updNode_queues (f : Node → Node) : (k.updNode n f).queues = k.queues := rfl
@[simp] theorem Pkg.updNode_slices (f : Node → Node) : (k.updNode n f).slices = k.slices := rfl
@[simp] theorem Pkg.updNode_clusters (f : Node → Node) : (k.updNode n f).clusters = k.clusters := rfl
@[simp] theorem Pkg.updNode_blocks (f : Node → Node) : (k.updNode n f).blocks = k.blocks := rfl
@[simp] theorem Pkg.updNode_groups (f : Node → Node) : (k.updNode n f).groups = k.groups := rfl
@[simp] theorem Pkg.updNode_cores (f : Node → Node) : (k.updNode n f).cores = k.cores := rfl
@[simp] theorem Pkg.updNode_dies (f : Node → Node) : (k.updNode n f).dies = k.dies := rfl
@[simp] theorem Pkg.updNode_ctrls (f : Node → Node) : (k.updNode n f).ctrls = k.ctrls := rfl
@[simp] theorem Pkg.updNode_home (f : Node → Node) : (k.updNode n f).home = k.home := rfl
@[simp] theorem Pkg.updNode_keyed (f : Node → Node) : (k.updNode n f).keyed = k.keyed := rfl
@[simp] theorem Pkg.updNode_rowErrs (f : Node → Node) : (k.updNode n f).rowErrs = k.rowErrs := rfl
@[simp] theorem Pkg.updNode_spares (f : Node → Node) : (k.updNode n f).spares = k.spares := rfl
@[simp] theorem Pkg.updNode_retiredRows (f : Node → Node) : (k.updNode n f).retiredRows = k.retiredRows := rfl
@[simp] theorem Pkg.updNode_wipesDue (f : Node → Node) : (k.updNode n f).wipesDue = k.wipesDue := rfl
@[simp] theorem Pkg.updNode_pends (f : Node → Node) : (k.updNode n f).pends = k.pends := rfl
@[simp] theorem Pkg.updNode_olog (f : Node → Node) : (k.updNode n f).olog = k.olog := rfl
@[simp] theorem Pkg.updNode_btes (f : Node → Node) : (k.updNode n f).btes = k.btes := rfl
@[simp] theorem Pkg.updNode_cpWrites (f : Node → Node) : (k.updNode n f).cpWrites = k.cpWrites := rfl
@[simp] theorem Pkg.updNode_chan (f : Node → Node) : (k.updNode n f).chan = k.chan := rfl
@[simp] theorem Pkg.updNode_ports (f : Node → Node) : (k.updNode n f).ports = k.ports := rfl
@[simp] theorem Pkg.updNode_noPath (f : Node → Node) : (k.updNode n f).noPath = k.noPath := rfl
@[simp] theorem Pkg.updNode_fns (f : Node → Node) : (k.updNode n f).fns = k.fns := rfl
@[simp] theorem Pkg.updNode_plat (f : Node → Node) : (k.updNode n f).plat = k.plat := rfl
@[simp] theorem Pkg.updNode_ctrs (f : Node → Node) : (k.updNode n f).ctrs = k.ctrs := rfl
@[simp] theorem Pkg.updNode_lidCtr (f : Node → Node) : (k.updNode n f).lidCtr = k.lidCtr := rfl
@[simp] theorem Pkg.updNode_uid (f : Node → Node) : (k.updNode n f).uid = k.uid := rfl
@[simp] theorem Pkg.updNode_seq (f : Node → Node) : (k.updNode n f).seq = k.seq := rfl
@[simp] theorem Pkg.updNode_served (f : Node → Node) : (k.updNode n f).served = k.served := rfl
@[simp] theorem Pkg.updNode_sliceAt (f : Node → Node) : (k.updNode n f).sliceAt = k.sliceAt := rfl
@[simp] theorem Pkg.updNode_halted (f : Node → Node) : (k.updNode n f).halted = k.halted := rfl
@[simp] theorem Pkg.updNode_aclk (f : Node → Node) : (k.updNode n f).aclk = k.aclk := rfl
@[simp] theorem Pkg.updCtx_part (f : Ctx → Ctx) : (k.updCtx n f).part = k.part := rfl
@[simp] theorem Pkg.updCtx_reclaim (f : Ctx → Ctx) : (k.updCtx n f).reclaim = k.reclaim := rfl
@[simp] theorem Pkg.updCtx_kills (f : Ctx → Ctx) : (k.updCtx n f).kills = k.kills := rfl
@[simp] theorem Pkg.updCtx_adopted (f : Ctx → Ctx) : (k.updCtx n f).adopted = k.adopted := rfl
@[simp] theorem Pkg.updCtx_queues (f : Ctx → Ctx) : (k.updCtx n f).queues = k.queues := rfl
@[simp] theorem Pkg.updCtx_nodes (f : Ctx → Ctx) : (k.updCtx n f).nodes = k.nodes := rfl
@[simp] theorem Pkg.updCtx_slices (f : Ctx → Ctx) : (k.updCtx n f).slices = k.slices := rfl
@[simp] theorem Pkg.updCtx_clusters (f : Ctx → Ctx) : (k.updCtx n f).clusters = k.clusters := rfl
@[simp] theorem Pkg.updCtx_blocks (f : Ctx → Ctx) : (k.updCtx n f).blocks = k.blocks := rfl
@[simp] theorem Pkg.updCtx_groups (f : Ctx → Ctx) : (k.updCtx n f).groups = k.groups := rfl
@[simp] theorem Pkg.updCtx_cores (f : Ctx → Ctx) : (k.updCtx n f).cores = k.cores := rfl
@[simp] theorem Pkg.updCtx_dies (f : Ctx → Ctx) : (k.updCtx n f).dies = k.dies := rfl
@[simp] theorem Pkg.updCtx_ctrls (f : Ctx → Ctx) : (k.updCtx n f).ctrls = k.ctrls := rfl
@[simp] theorem Pkg.updCtx_home (f : Ctx → Ctx) : (k.updCtx n f).home = k.home := rfl
@[simp] theorem Pkg.updCtx_keyed (f : Ctx → Ctx) : (k.updCtx n f).keyed = k.keyed := rfl
@[simp] theorem Pkg.updCtx_rowErrs (f : Ctx → Ctx) : (k.updCtx n f).rowErrs = k.rowErrs := rfl
@[simp] theorem Pkg.updCtx_spares (f : Ctx → Ctx) : (k.updCtx n f).spares = k.spares := rfl
@[simp] theorem Pkg.updCtx_retiredRows (f : Ctx → Ctx) : (k.updCtx n f).retiredRows = k.retiredRows := rfl
@[simp] theorem Pkg.updCtx_wipesDue (f : Ctx → Ctx) : (k.updCtx n f).wipesDue = k.wipesDue := rfl
@[simp] theorem Pkg.updCtx_pends (f : Ctx → Ctx) : (k.updCtx n f).pends = k.pends := rfl
@[simp] theorem Pkg.updCtx_olog (f : Ctx → Ctx) : (k.updCtx n f).olog = k.olog := rfl
@[simp] theorem Pkg.updCtx_btes (f : Ctx → Ctx) : (k.updCtx n f).btes = k.btes := rfl
@[simp] theorem Pkg.updCtx_cpWrites (f : Ctx → Ctx) : (k.updCtx n f).cpWrites = k.cpWrites := rfl
@[simp] theorem Pkg.updCtx_chan (f : Ctx → Ctx) : (k.updCtx n f).chan = k.chan := rfl
@[simp] theorem Pkg.updCtx_ports (f : Ctx → Ctx) : (k.updCtx n f).ports = k.ports := rfl
@[simp] theorem Pkg.updCtx_noPath (f : Ctx → Ctx) : (k.updCtx n f).noPath = k.noPath := rfl
@[simp] theorem Pkg.updCtx_fns (f : Ctx → Ctx) : (k.updCtx n f).fns = k.fns := rfl
@[simp] theorem Pkg.updCtx_plat (f : Ctx → Ctx) : (k.updCtx n f).plat = k.plat := rfl
@[simp] theorem Pkg.updCtx_ctrs (f : Ctx → Ctx) : (k.updCtx n f).ctrs = k.ctrs := rfl
@[simp] theorem Pkg.updCtx_lidCtr (f : Ctx → Ctx) : (k.updCtx n f).lidCtr = k.lidCtr := rfl
@[simp] theorem Pkg.updCtx_uid (f : Ctx → Ctx) : (k.updCtx n f).uid = k.uid := rfl
@[simp] theorem Pkg.updCtx_seq (f : Ctx → Ctx) : (k.updCtx n f).seq = k.seq := rfl
@[simp] theorem Pkg.updCtx_served (f : Ctx → Ctx) : (k.updCtx n f).served = k.served := rfl
@[simp] theorem Pkg.updCtx_sliceAt (f : Ctx → Ctx) : (k.updCtx n f).sliceAt = k.sliceAt := rfl
@[simp] theorem Pkg.updCtx_halted (f : Ctx → Ctx) : (k.updCtx n f).halted = k.halted := rfl
@[simp] theorem Pkg.updCtx_aclk (f : Ctx → Ctx) : (k.updCtx n f).aclk = k.aclk := rfl
@[simp] theorem Pkg.updCore_part (f : Core → Core) : (k.updCore n f).part = k.part := rfl
@[simp] theorem Pkg.updCore_ctxs (f : Core → Core) : (k.updCore n f).ctxs = k.ctxs := rfl
@[simp] theorem Pkg.updCore_reclaim (f : Core → Core) : (k.updCore n f).reclaim = k.reclaim := rfl
@[simp] theorem Pkg.updCore_kills (f : Core → Core) : (k.updCore n f).kills = k.kills := rfl
@[simp] theorem Pkg.updCore_adopted (f : Core → Core) : (k.updCore n f).adopted = k.adopted := rfl
@[simp] theorem Pkg.updCore_queues (f : Core → Core) : (k.updCore n f).queues = k.queues := rfl
@[simp] theorem Pkg.updCore_nodes (f : Core → Core) : (k.updCore n f).nodes = k.nodes := rfl
@[simp] theorem Pkg.updCore_slices (f : Core → Core) : (k.updCore n f).slices = k.slices := rfl
@[simp] theorem Pkg.updCore_clusters (f : Core → Core) : (k.updCore n f).clusters = k.clusters := rfl
@[simp] theorem Pkg.updCore_blocks (f : Core → Core) : (k.updCore n f).blocks = k.blocks := rfl
@[simp] theorem Pkg.updCore_groups (f : Core → Core) : (k.updCore n f).groups = k.groups := rfl
@[simp] theorem Pkg.updCore_dies (f : Core → Core) : (k.updCore n f).dies = k.dies := rfl
@[simp] theorem Pkg.updCore_ctrls (f : Core → Core) : (k.updCore n f).ctrls = k.ctrls := rfl
@[simp] theorem Pkg.updCore_home (f : Core → Core) : (k.updCore n f).home = k.home := rfl
@[simp] theorem Pkg.updCore_keyed (f : Core → Core) : (k.updCore n f).keyed = k.keyed := rfl
@[simp] theorem Pkg.updCore_rowErrs (f : Core → Core) : (k.updCore n f).rowErrs = k.rowErrs := rfl
@[simp] theorem Pkg.updCore_spares (f : Core → Core) : (k.updCore n f).spares = k.spares := rfl
@[simp] theorem Pkg.updCore_retiredRows (f : Core → Core) : (k.updCore n f).retiredRows = k.retiredRows := rfl
@[simp] theorem Pkg.updCore_wipesDue (f : Core → Core) : (k.updCore n f).wipesDue = k.wipesDue := rfl
@[simp] theorem Pkg.updCore_pends (f : Core → Core) : (k.updCore n f).pends = k.pends := rfl
@[simp] theorem Pkg.updCore_olog (f : Core → Core) : (k.updCore n f).olog = k.olog := rfl
@[simp] theorem Pkg.updCore_btes (f : Core → Core) : (k.updCore n f).btes = k.btes := rfl
@[simp] theorem Pkg.updCore_cpWrites (f : Core → Core) : (k.updCore n f).cpWrites = k.cpWrites := rfl
@[simp] theorem Pkg.updCore_chan (f : Core → Core) : (k.updCore n f).chan = k.chan := rfl
@[simp] theorem Pkg.updCore_ports (f : Core → Core) : (k.updCore n f).ports = k.ports := rfl
@[simp] theorem Pkg.updCore_noPath (f : Core → Core) : (k.updCore n f).noPath = k.noPath := rfl
@[simp] theorem Pkg.updCore_fns (f : Core → Core) : (k.updCore n f).fns = k.fns := rfl
@[simp] theorem Pkg.updCore_plat (f : Core → Core) : (k.updCore n f).plat = k.plat := rfl
@[simp] theorem Pkg.updCore_ctrs (f : Core → Core) : (k.updCore n f).ctrs = k.ctrs := rfl
@[simp] theorem Pkg.updCore_lidCtr (f : Core → Core) : (k.updCore n f).lidCtr = k.lidCtr := rfl
@[simp] theorem Pkg.updCore_uid (f : Core → Core) : (k.updCore n f).uid = k.uid := rfl
@[simp] theorem Pkg.updCore_seq (f : Core → Core) : (k.updCore n f).seq = k.seq := rfl
@[simp] theorem Pkg.updCore_served (f : Core → Core) : (k.updCore n f).served = k.served := rfl
@[simp] theorem Pkg.updCore_sliceAt (f : Core → Core) : (k.updCore n f).sliceAt = k.sliceAt := rfl
@[simp] theorem Pkg.updCore_halted (f : Core → Core) : (k.updCore n f).halted = k.halted := rfl
@[simp] theorem Pkg.updCore_aclk (f : Core → Core) : (k.updCore n f).aclk = k.aclk := rfl
@[simp] theorem Pkg.updDie_part (f : Die → Die) : (k.updDie n f).part = k.part := rfl
@[simp] theorem Pkg.updDie_ctxs (f : Die → Die) : (k.updDie n f).ctxs = k.ctxs := rfl
@[simp] theorem Pkg.updDie_reclaim (f : Die → Die) : (k.updDie n f).reclaim = k.reclaim := rfl
@[simp] theorem Pkg.updDie_kills (f : Die → Die) : (k.updDie n f).kills = k.kills := rfl
@[simp] theorem Pkg.updDie_adopted (f : Die → Die) : (k.updDie n f).adopted = k.adopted := rfl
@[simp] theorem Pkg.updDie_queues (f : Die → Die) : (k.updDie n f).queues = k.queues := rfl
@[simp] theorem Pkg.updDie_nodes (f : Die → Die) : (k.updDie n f).nodes = k.nodes := rfl
@[simp] theorem Pkg.updDie_slices (f : Die → Die) : (k.updDie n f).slices = k.slices := rfl
@[simp] theorem Pkg.updDie_clusters (f : Die → Die) : (k.updDie n f).clusters = k.clusters := rfl
@[simp] theorem Pkg.updDie_blocks (f : Die → Die) : (k.updDie n f).blocks = k.blocks := rfl
@[simp] theorem Pkg.updDie_groups (f : Die → Die) : (k.updDie n f).groups = k.groups := rfl
@[simp] theorem Pkg.updDie_cores (f : Die → Die) : (k.updDie n f).cores = k.cores := rfl
@[simp] theorem Pkg.updDie_ctrls (f : Die → Die) : (k.updDie n f).ctrls = k.ctrls := rfl
@[simp] theorem Pkg.updDie_home (f : Die → Die) : (k.updDie n f).home = k.home := rfl
@[simp] theorem Pkg.updDie_keyed (f : Die → Die) : (k.updDie n f).keyed = k.keyed := rfl
@[simp] theorem Pkg.updDie_rowErrs (f : Die → Die) : (k.updDie n f).rowErrs = k.rowErrs := rfl
@[simp] theorem Pkg.updDie_spares (f : Die → Die) : (k.updDie n f).spares = k.spares := rfl
@[simp] theorem Pkg.updDie_retiredRows (f : Die → Die) : (k.updDie n f).retiredRows = k.retiredRows := rfl
@[simp] theorem Pkg.updDie_wipesDue (f : Die → Die) : (k.updDie n f).wipesDue = k.wipesDue := rfl
@[simp] theorem Pkg.updDie_pends (f : Die → Die) : (k.updDie n f).pends = k.pends := rfl
@[simp] theorem Pkg.updDie_olog (f : Die → Die) : (k.updDie n f).olog = k.olog := rfl
@[simp] theorem Pkg.updDie_btes (f : Die → Die) : (k.updDie n f).btes = k.btes := rfl
@[simp] theorem Pkg.updDie_cpWrites (f : Die → Die) : (k.updDie n f).cpWrites = k.cpWrites := rfl
@[simp] theorem Pkg.updDie_chan (f : Die → Die) : (k.updDie n f).chan = k.chan := rfl
@[simp] theorem Pkg.updDie_ports (f : Die → Die) : (k.updDie n f).ports = k.ports := rfl
@[simp] theorem Pkg.updDie_noPath (f : Die → Die) : (k.updDie n f).noPath = k.noPath := rfl
@[simp] theorem Pkg.updDie_fns (f : Die → Die) : (k.updDie n f).fns = k.fns := rfl
@[simp] theorem Pkg.updDie_plat (f : Die → Die) : (k.updDie n f).plat = k.plat := rfl
@[simp] theorem Pkg.updDie_ctrs (f : Die → Die) : (k.updDie n f).ctrs = k.ctrs := rfl
@[simp] theorem Pkg.updDie_lidCtr (f : Die → Die) : (k.updDie n f).lidCtr = k.lidCtr := rfl
@[simp] theorem Pkg.updDie_uid (f : Die → Die) : (k.updDie n f).uid = k.uid := rfl
@[simp] theorem Pkg.updDie_seq (f : Die → Die) : (k.updDie n f).seq = k.seq := rfl
@[simp] theorem Pkg.updDie_served (f : Die → Die) : (k.updDie n f).served = k.served := rfl
@[simp] theorem Pkg.updDie_sliceAt (f : Die → Die) : (k.updDie n f).sliceAt = k.sliceAt := rfl
@[simp] theorem Pkg.updDie_halted (f : Die → Die) : (k.updDie n f).halted = k.halted := rfl
@[simp] theorem Pkg.updDie_aclk (f : Die → Die) : (k.updDie n f).aclk = k.aclk := rfl
@[simp] theorem Pkg.updCtrl_part (f : Ctrl → Ctrl) : (k.updCtrl n f).part = k.part := rfl
@[simp] theorem Pkg.updCtrl_ctxs (f : Ctrl → Ctrl) : (k.updCtrl n f).ctxs = k.ctxs := rfl
@[simp] theorem Pkg.updCtrl_reclaim (f : Ctrl → Ctrl) : (k.updCtrl n f).reclaim = k.reclaim := rfl
@[simp] theorem Pkg.updCtrl_kills (f : Ctrl → Ctrl) : (k.updCtrl n f).kills = k.kills := rfl
@[simp] theorem Pkg.updCtrl_adopted (f : Ctrl → Ctrl) : (k.updCtrl n f).adopted = k.adopted := rfl
@[simp] theorem Pkg.updCtrl_queues (f : Ctrl → Ctrl) : (k.updCtrl n f).queues = k.queues := rfl
@[simp] theorem Pkg.updCtrl_nodes (f : Ctrl → Ctrl) : (k.updCtrl n f).nodes = k.nodes := rfl
@[simp] theorem Pkg.updCtrl_slices (f : Ctrl → Ctrl) : (k.updCtrl n f).slices = k.slices := rfl
@[simp] theorem Pkg.updCtrl_clusters (f : Ctrl → Ctrl) : (k.updCtrl n f).clusters = k.clusters := rfl
@[simp] theorem Pkg.updCtrl_blocks (f : Ctrl → Ctrl) : (k.updCtrl n f).blocks = k.blocks := rfl
@[simp] theorem Pkg.updCtrl_groups (f : Ctrl → Ctrl) : (k.updCtrl n f).groups = k.groups := rfl
@[simp] theorem Pkg.updCtrl_cores (f : Ctrl → Ctrl) : (k.updCtrl n f).cores = k.cores := rfl
@[simp] theorem Pkg.updCtrl_dies (f : Ctrl → Ctrl) : (k.updCtrl n f).dies = k.dies := rfl
@[simp] theorem Pkg.updCtrl_home (f : Ctrl → Ctrl) : (k.updCtrl n f).home = k.home := rfl
@[simp] theorem Pkg.updCtrl_keyed (f : Ctrl → Ctrl) : (k.updCtrl n f).keyed = k.keyed := rfl
@[simp] theorem Pkg.updCtrl_rowErrs (f : Ctrl → Ctrl) : (k.updCtrl n f).rowErrs = k.rowErrs := rfl
@[simp] theorem Pkg.updCtrl_spares (f : Ctrl → Ctrl) : (k.updCtrl n f).spares = k.spares := rfl
@[simp] theorem Pkg.updCtrl_retiredRows (f : Ctrl → Ctrl) : (k.updCtrl n f).retiredRows = k.retiredRows := rfl
@[simp] theorem Pkg.updCtrl_wipesDue (f : Ctrl → Ctrl) : (k.updCtrl n f).wipesDue = k.wipesDue := rfl
@[simp] theorem Pkg.updCtrl_pends (f : Ctrl → Ctrl) : (k.updCtrl n f).pends = k.pends := rfl
@[simp] theorem Pkg.updCtrl_olog (f : Ctrl → Ctrl) : (k.updCtrl n f).olog = k.olog := rfl
@[simp] theorem Pkg.updCtrl_btes (f : Ctrl → Ctrl) : (k.updCtrl n f).btes = k.btes := rfl
@[simp] theorem Pkg.updCtrl_cpWrites (f : Ctrl → Ctrl) : (k.updCtrl n f).cpWrites = k.cpWrites := rfl
@[simp] theorem Pkg.updCtrl_chan (f : Ctrl → Ctrl) : (k.updCtrl n f).chan = k.chan := rfl
@[simp] theorem Pkg.updCtrl_ports (f : Ctrl → Ctrl) : (k.updCtrl n f).ports = k.ports := rfl
@[simp] theorem Pkg.updCtrl_noPath (f : Ctrl → Ctrl) : (k.updCtrl n f).noPath = k.noPath := rfl
@[simp] theorem Pkg.updCtrl_fns (f : Ctrl → Ctrl) : (k.updCtrl n f).fns = k.fns := rfl
@[simp] theorem Pkg.updCtrl_plat (f : Ctrl → Ctrl) : (k.updCtrl n f).plat = k.plat := rfl
@[simp] theorem Pkg.updCtrl_ctrs (f : Ctrl → Ctrl) : (k.updCtrl n f).ctrs = k.ctrs := rfl
@[simp] theorem Pkg.updCtrl_lidCtr (f : Ctrl → Ctrl) : (k.updCtrl n f).lidCtr = k.lidCtr := rfl
@[simp] theorem Pkg.updCtrl_uid (f : Ctrl → Ctrl) : (k.updCtrl n f).uid = k.uid := rfl
@[simp] theorem Pkg.updCtrl_seq (f : Ctrl → Ctrl) : (k.updCtrl n f).seq = k.seq := rfl
@[simp] theorem Pkg.updCtrl_served (f : Ctrl → Ctrl) : (k.updCtrl n f).served = k.served := rfl
@[simp] theorem Pkg.updCtrl_sliceAt (f : Ctrl → Ctrl) : (k.updCtrl n f).sliceAt = k.sliceAt := rfl
@[simp] theorem Pkg.updCtrl_halted (f : Ctrl → Ctrl) : (k.updCtrl n f).halted = k.halted := rfl
@[simp] theorem Pkg.updCtrl_aclk (f : Ctrl → Ctrl) : (k.updCtrl n f).aclk = k.aclk := rfl
@[simp] theorem Pkg.updPort_part (f : Port → Port) : (k.updPort n f).part = k.part := rfl
@[simp] theorem Pkg.updPort_ctxs (f : Port → Port) : (k.updPort n f).ctxs = k.ctxs := rfl
@[simp] theorem Pkg.updPort_reclaim (f : Port → Port) : (k.updPort n f).reclaim = k.reclaim := rfl
@[simp] theorem Pkg.updPort_kills (f : Port → Port) : (k.updPort n f).kills = k.kills := rfl
@[simp] theorem Pkg.updPort_adopted (f : Port → Port) : (k.updPort n f).adopted = k.adopted := rfl
@[simp] theorem Pkg.updPort_queues (f : Port → Port) : (k.updPort n f).queues = k.queues := rfl
@[simp] theorem Pkg.updPort_nodes (f : Port → Port) : (k.updPort n f).nodes = k.nodes := rfl
@[simp] theorem Pkg.updPort_slices (f : Port → Port) : (k.updPort n f).slices = k.slices := rfl
@[simp] theorem Pkg.updPort_clusters (f : Port → Port) : (k.updPort n f).clusters = k.clusters := rfl
@[simp] theorem Pkg.updPort_blocks (f : Port → Port) : (k.updPort n f).blocks = k.blocks := rfl
@[simp] theorem Pkg.updPort_groups (f : Port → Port) : (k.updPort n f).groups = k.groups := rfl
@[simp] theorem Pkg.updPort_cores (f : Port → Port) : (k.updPort n f).cores = k.cores := rfl
@[simp] theorem Pkg.updPort_dies (f : Port → Port) : (k.updPort n f).dies = k.dies := rfl
@[simp] theorem Pkg.updPort_ctrls (f : Port → Port) : (k.updPort n f).ctrls = k.ctrls := rfl
@[simp] theorem Pkg.updPort_home (f : Port → Port) : (k.updPort n f).home = k.home := rfl
@[simp] theorem Pkg.updPort_keyed (f : Port → Port) : (k.updPort n f).keyed = k.keyed := rfl
@[simp] theorem Pkg.updPort_rowErrs (f : Port → Port) : (k.updPort n f).rowErrs = k.rowErrs := rfl
@[simp] theorem Pkg.updPort_spares (f : Port → Port) : (k.updPort n f).spares = k.spares := rfl
@[simp] theorem Pkg.updPort_retiredRows (f : Port → Port) : (k.updPort n f).retiredRows = k.retiredRows := rfl
@[simp] theorem Pkg.updPort_wipesDue (f : Port → Port) : (k.updPort n f).wipesDue = k.wipesDue := rfl
@[simp] theorem Pkg.updPort_pends (f : Port → Port) : (k.updPort n f).pends = k.pends := rfl
@[simp] theorem Pkg.updPort_olog (f : Port → Port) : (k.updPort n f).olog = k.olog := rfl
@[simp] theorem Pkg.updPort_btes (f : Port → Port) : (k.updPort n f).btes = k.btes := rfl
@[simp] theorem Pkg.updPort_cpWrites (f : Port → Port) : (k.updPort n f).cpWrites = k.cpWrites := rfl
@[simp] theorem Pkg.updPort_chan (f : Port → Port) : (k.updPort n f).chan = k.chan := rfl
@[simp] theorem Pkg.updPort_noPath (f : Port → Port) : (k.updPort n f).noPath = k.noPath := rfl
@[simp] theorem Pkg.updPort_fns (f : Port → Port) : (k.updPort n f).fns = k.fns := rfl
@[simp] theorem Pkg.updPort_plat (f : Port → Port) : (k.updPort n f).plat = k.plat := rfl
@[simp] theorem Pkg.updPort_ctrs (f : Port → Port) : (k.updPort n f).ctrs = k.ctrs := rfl
@[simp] theorem Pkg.updPort_lidCtr (f : Port → Port) : (k.updPort n f).lidCtr = k.lidCtr := rfl
@[simp] theorem Pkg.updPort_uid (f : Port → Port) : (k.updPort n f).uid = k.uid := rfl
@[simp] theorem Pkg.updPort_seq (f : Port → Port) : (k.updPort n f).seq = k.seq := rfl
@[simp] theorem Pkg.updPort_served (f : Port → Port) : (k.updPort n f).served = k.served := rfl
@[simp] theorem Pkg.updPort_sliceAt (f : Port → Port) : (k.updPort n f).sliceAt = k.sliceAt := rfl
@[simp] theorem Pkg.updPort_halted (f : Port → Port) : (k.updPort n f).halted = k.halted := rfl
@[simp] theorem Pkg.updPort_aclk (f : Port → Port) : (k.updPort n f).aclk = k.aclk := rfl
@[simp] theorem Pkg.updFn_part (f : Fn → Fn) : (k.updFn n f).part = k.part := rfl
@[simp] theorem Pkg.updFn_ctxs (f : Fn → Fn) : (k.updFn n f).ctxs = k.ctxs := rfl
@[simp] theorem Pkg.updFn_reclaim (f : Fn → Fn) : (k.updFn n f).reclaim = k.reclaim := rfl
@[simp] theorem Pkg.updFn_kills (f : Fn → Fn) : (k.updFn n f).kills = k.kills := rfl
@[simp] theorem Pkg.updFn_adopted (f : Fn → Fn) : (k.updFn n f).adopted = k.adopted := rfl
@[simp] theorem Pkg.updFn_queues (f : Fn → Fn) : (k.updFn n f).queues = k.queues := rfl
@[simp] theorem Pkg.updFn_nodes (f : Fn → Fn) : (k.updFn n f).nodes = k.nodes := rfl
@[simp] theorem Pkg.updFn_slices (f : Fn → Fn) : (k.updFn n f).slices = k.slices := rfl
@[simp] theorem Pkg.updFn_clusters (f : Fn → Fn) : (k.updFn n f).clusters = k.clusters := rfl
@[simp] theorem Pkg.updFn_blocks (f : Fn → Fn) : (k.updFn n f).blocks = k.blocks := rfl
@[simp] theorem Pkg.updFn_groups (f : Fn → Fn) : (k.updFn n f).groups = k.groups := rfl
@[simp] theorem Pkg.updFn_cores (f : Fn → Fn) : (k.updFn n f).cores = k.cores := rfl
@[simp] theorem Pkg.updFn_dies (f : Fn → Fn) : (k.updFn n f).dies = k.dies := rfl
@[simp] theorem Pkg.updFn_ctrls (f : Fn → Fn) : (k.updFn n f).ctrls = k.ctrls := rfl
@[simp] theorem Pkg.updFn_home (f : Fn → Fn) : (k.updFn n f).home = k.home := rfl
@[simp] theorem Pkg.updFn_keyed (f : Fn → Fn) : (k.updFn n f).keyed = k.keyed := rfl
@[simp] theorem Pkg.updFn_rowErrs (f : Fn → Fn) : (k.updFn n f).rowErrs = k.rowErrs := rfl
@[simp] theorem Pkg.updFn_spares (f : Fn → Fn) : (k.updFn n f).spares = k.spares := rfl
@[simp] theorem Pkg.updFn_retiredRows (f : Fn → Fn) : (k.updFn n f).retiredRows = k.retiredRows := rfl
@[simp] theorem Pkg.updFn_wipesDue (f : Fn → Fn) : (k.updFn n f).wipesDue = k.wipesDue := rfl
@[simp] theorem Pkg.updFn_pends (f : Fn → Fn) : (k.updFn n f).pends = k.pends := rfl
@[simp] theorem Pkg.updFn_olog (f : Fn → Fn) : (k.updFn n f).olog = k.olog := rfl
@[simp] theorem Pkg.updFn_btes (f : Fn → Fn) : (k.updFn n f).btes = k.btes := rfl
@[simp] theorem Pkg.updFn_cpWrites (f : Fn → Fn) : (k.updFn n f).cpWrites = k.cpWrites := rfl
@[simp] theorem Pkg.updFn_chan (f : Fn → Fn) : (k.updFn n f).chan = k.chan := rfl
@[simp] theorem Pkg.updFn_ports (f : Fn → Fn) : (k.updFn n f).ports = k.ports := rfl
@[simp] theorem Pkg.updFn_noPath (f : Fn → Fn) : (k.updFn n f).noPath = k.noPath := rfl
@[simp] theorem Pkg.updFn_plat (f : Fn → Fn) : (k.updFn n f).plat = k.plat := rfl
@[simp] theorem Pkg.updFn_ctrs (f : Fn → Fn) : (k.updFn n f).ctrs = k.ctrs := rfl
@[simp] theorem Pkg.updFn_lidCtr (f : Fn → Fn) : (k.updFn n f).lidCtr = k.lidCtr := rfl
@[simp] theorem Pkg.updFn_uid (f : Fn → Fn) : (k.updFn n f).uid = k.uid := rfl
@[simp] theorem Pkg.updFn_seq (f : Fn → Fn) : (k.updFn n f).seq = k.seq := rfl
@[simp] theorem Pkg.updFn_served (f : Fn → Fn) : (k.updFn n f).served = k.served := rfl
@[simp] theorem Pkg.updFn_sliceAt (f : Fn → Fn) : (k.updFn n f).sliceAt = k.sliceAt := rfl
@[simp] theorem Pkg.updFn_halted (f : Fn → Fn) : (k.updFn n f).halted = k.halted := rfl
@[simp] theorem Pkg.updFn_aclk (f : Fn → Fn) : (k.updFn n f).aclk = k.aclk := rfl
@[simp] theorem Pkg.updQueue_part (f : Queue → Queue) : (k.updQueue n f).part = k.part := rfl
@[simp] theorem Pkg.updQueue_ctxs (f : Queue → Queue) : (k.updQueue n f).ctxs = k.ctxs := rfl
@[simp] theorem Pkg.updQueue_reclaim (f : Queue → Queue) : (k.updQueue n f).reclaim = k.reclaim := rfl
@[simp] theorem Pkg.updQueue_kills (f : Queue → Queue) : (k.updQueue n f).kills = k.kills := rfl
@[simp] theorem Pkg.updQueue_adopted (f : Queue → Queue) : (k.updQueue n f).adopted = k.adopted := rfl
@[simp] theorem Pkg.updQueue_nodes (f : Queue → Queue) : (k.updQueue n f).nodes = k.nodes := rfl
@[simp] theorem Pkg.updQueue_slices (f : Queue → Queue) : (k.updQueue n f).slices = k.slices := rfl
@[simp] theorem Pkg.updQueue_clusters (f : Queue → Queue) : (k.updQueue n f).clusters = k.clusters := rfl
@[simp] theorem Pkg.updQueue_blocks (f : Queue → Queue) : (k.updQueue n f).blocks = k.blocks := rfl
@[simp] theorem Pkg.updQueue_groups (f : Queue → Queue) : (k.updQueue n f).groups = k.groups := rfl
@[simp] theorem Pkg.updQueue_cores (f : Queue → Queue) : (k.updQueue n f).cores = k.cores := rfl
@[simp] theorem Pkg.updQueue_dies (f : Queue → Queue) : (k.updQueue n f).dies = k.dies := rfl
@[simp] theorem Pkg.updQueue_ctrls (f : Queue → Queue) : (k.updQueue n f).ctrls = k.ctrls := rfl
@[simp] theorem Pkg.updQueue_home (f : Queue → Queue) : (k.updQueue n f).home = k.home := rfl
@[simp] theorem Pkg.updQueue_keyed (f : Queue → Queue) : (k.updQueue n f).keyed = k.keyed := rfl
@[simp] theorem Pkg.updQueue_rowErrs (f : Queue → Queue) : (k.updQueue n f).rowErrs = k.rowErrs := rfl
@[simp] theorem Pkg.updQueue_spares (f : Queue → Queue) : (k.updQueue n f).spares = k.spares := rfl
@[simp] theorem Pkg.updQueue_retiredRows (f : Queue → Queue) : (k.updQueue n f).retiredRows = k.retiredRows := rfl
@[simp] theorem Pkg.updQueue_wipesDue (f : Queue → Queue) : (k.updQueue n f).wipesDue = k.wipesDue := rfl
@[simp] theorem Pkg.updQueue_pends (f : Queue → Queue) : (k.updQueue n f).pends = k.pends := rfl
@[simp] theorem Pkg.updQueue_olog (f : Queue → Queue) : (k.updQueue n f).olog = k.olog := rfl
@[simp] theorem Pkg.updQueue_btes (f : Queue → Queue) : (k.updQueue n f).btes = k.btes := rfl
@[simp] theorem Pkg.updQueue_cpWrites (f : Queue → Queue) : (k.updQueue n f).cpWrites = k.cpWrites := rfl
@[simp] theorem Pkg.updQueue_chan (f : Queue → Queue) : (k.updQueue n f).chan = k.chan := rfl
@[simp] theorem Pkg.updQueue_ports (f : Queue → Queue) : (k.updQueue n f).ports = k.ports := rfl
@[simp] theorem Pkg.updQueue_noPath (f : Queue → Queue) : (k.updQueue n f).noPath = k.noPath := rfl
@[simp] theorem Pkg.updQueue_fns (f : Queue → Queue) : (k.updQueue n f).fns = k.fns := rfl
@[simp] theorem Pkg.updQueue_plat (f : Queue → Queue) : (k.updQueue n f).plat = k.plat := rfl
@[simp] theorem Pkg.updQueue_ctrs (f : Queue → Queue) : (k.updQueue n f).ctrs = k.ctrs := rfl
@[simp] theorem Pkg.updQueue_lidCtr (f : Queue → Queue) : (k.updQueue n f).lidCtr = k.lidCtr := rfl
@[simp] theorem Pkg.updQueue_uid (f : Queue → Queue) : (k.updQueue n f).uid = k.uid := rfl
@[simp] theorem Pkg.updQueue_seq (f : Queue → Queue) : (k.updQueue n f).seq = k.seq := rfl
@[simp] theorem Pkg.updQueue_served (f : Queue → Queue) : (k.updQueue n f).served = k.served := rfl
@[simp] theorem Pkg.updQueue_sliceAt (f : Queue → Queue) : (k.updQueue n f).sliceAt = k.sliceAt := rfl
@[simp] theorem Pkg.updQueue_halted (f : Queue → Queue) : (k.updQueue n f).halted = k.halted := rfl
@[simp] theorem Pkg.updQueue_aclk (f : Queue → Queue) : (k.updQueue n f).aclk = k.aclk := rfl
@[simp] theorem Pkg.updPlat_part (f : Plat → Plat) : (k.updPlat f).part = k.part := rfl
@[simp] theorem Pkg.updPlat_ctxs (f : Plat → Plat) : (k.updPlat f).ctxs = k.ctxs := rfl
@[simp] theorem Pkg.updPlat_reclaim (f : Plat → Plat) : (k.updPlat f).reclaim = k.reclaim := rfl
@[simp] theorem Pkg.updPlat_kills (f : Plat → Plat) : (k.updPlat f).kills = k.kills := rfl
@[simp] theorem Pkg.updPlat_adopted (f : Plat → Plat) : (k.updPlat f).adopted = k.adopted := rfl
@[simp] theorem Pkg.updPlat_queues (f : Plat → Plat) : (k.updPlat f).queues = k.queues := rfl
@[simp] theorem Pkg.updPlat_nodes (f : Plat → Plat) : (k.updPlat f).nodes = k.nodes := rfl
@[simp] theorem Pkg.updPlat_slices (f : Plat → Plat) : (k.updPlat f).slices = k.slices := rfl
@[simp] theorem Pkg.updPlat_clusters (f : Plat → Plat) : (k.updPlat f).clusters = k.clusters := rfl
@[simp] theorem Pkg.updPlat_blocks (f : Plat → Plat) : (k.updPlat f).blocks = k.blocks := rfl
@[simp] theorem Pkg.updPlat_groups (f : Plat → Plat) : (k.updPlat f).groups = k.groups := rfl
@[simp] theorem Pkg.updPlat_cores (f : Plat → Plat) : (k.updPlat f).cores = k.cores := rfl
@[simp] theorem Pkg.updPlat_dies (f : Plat → Plat) : (k.updPlat f).dies = k.dies := rfl
@[simp] theorem Pkg.updPlat_ctrls (f : Plat → Plat) : (k.updPlat f).ctrls = k.ctrls := rfl
@[simp] theorem Pkg.updPlat_home (f : Plat → Plat) : (k.updPlat f).home = k.home := rfl
@[simp] theorem Pkg.updPlat_keyed (f : Plat → Plat) : (k.updPlat f).keyed = k.keyed := rfl
@[simp] theorem Pkg.updPlat_rowErrs (f : Plat → Plat) : (k.updPlat f).rowErrs = k.rowErrs := rfl
@[simp] theorem Pkg.updPlat_spares (f : Plat → Plat) : (k.updPlat f).spares = k.spares := rfl
@[simp] theorem Pkg.updPlat_retiredRows (f : Plat → Plat) : (k.updPlat f).retiredRows = k.retiredRows := rfl
@[simp] theorem Pkg.updPlat_wipesDue (f : Plat → Plat) : (k.updPlat f).wipesDue = k.wipesDue := rfl
@[simp] theorem Pkg.updPlat_pends (f : Plat → Plat) : (k.updPlat f).pends = k.pends := rfl
@[simp] theorem Pkg.updPlat_olog (f : Plat → Plat) : (k.updPlat f).olog = k.olog := rfl
@[simp] theorem Pkg.updPlat_btes (f : Plat → Plat) : (k.updPlat f).btes = k.btes := rfl
@[simp] theorem Pkg.updPlat_cpWrites (f : Plat → Plat) : (k.updPlat f).cpWrites = k.cpWrites := rfl
@[simp] theorem Pkg.updPlat_chan (f : Plat → Plat) : (k.updPlat f).chan = k.chan := rfl
@[simp] theorem Pkg.updPlat_ports (f : Plat → Plat) : (k.updPlat f).ports = k.ports := rfl
@[simp] theorem Pkg.updPlat_noPath (f : Plat → Plat) : (k.updPlat f).noPath = k.noPath := rfl
@[simp] theorem Pkg.updPlat_fns (f : Plat → Plat) : (k.updPlat f).fns = k.fns := rfl
@[simp] theorem Pkg.updPlat_ctrs (f : Plat → Plat) : (k.updPlat f).ctrs = k.ctrs := rfl
@[simp] theorem Pkg.updPlat_lidCtr (f : Plat → Plat) : (k.updPlat f).lidCtr = k.lidCtr := rfl
@[simp] theorem Pkg.updPlat_uid (f : Plat → Plat) : (k.updPlat f).uid = k.uid := rfl
@[simp] theorem Pkg.updPlat_seq (f : Plat → Plat) : (k.updPlat f).seq = k.seq := rfl
@[simp] theorem Pkg.updPlat_served (f : Plat → Plat) : (k.updPlat f).served = k.served := rfl
@[simp] theorem Pkg.updPlat_sliceAt (f : Plat → Plat) : (k.updPlat f).sliceAt = k.sliceAt := rfl
@[simp] theorem Pkg.updPlat_halted (f : Plat → Plat) : (k.updPlat f).halted = k.halted := rfl
@[simp] theorem Pkg.updPlat_aclk (f : Plat → Plat) : (k.updPlat f).aclk = k.aclk := rfl
@[simp] theorem Pkg.updChan_part (f : Chan → Chan) : (k.updChan f).part = k.part := rfl
@[simp] theorem Pkg.updChan_ctxs (f : Chan → Chan) : (k.updChan f).ctxs = k.ctxs := rfl
@[simp] theorem Pkg.updChan_reclaim (f : Chan → Chan) : (k.updChan f).reclaim = k.reclaim := rfl
@[simp] theorem Pkg.updChan_kills (f : Chan → Chan) : (k.updChan f).kills = k.kills := rfl
@[simp] theorem Pkg.updChan_adopted (f : Chan → Chan) : (k.updChan f).adopted = k.adopted := rfl
@[simp] theorem Pkg.updChan_queues (f : Chan → Chan) : (k.updChan f).queues = k.queues := rfl
@[simp] theorem Pkg.updChan_nodes (f : Chan → Chan) : (k.updChan f).nodes = k.nodes := rfl
@[simp] theorem Pkg.updChan_slices (f : Chan → Chan) : (k.updChan f).slices = k.slices := rfl
@[simp] theorem Pkg.updChan_clusters (f : Chan → Chan) : (k.updChan f).clusters = k.clusters := rfl
@[simp] theorem Pkg.updChan_blocks (f : Chan → Chan) : (k.updChan f).blocks = k.blocks := rfl
@[simp] theorem Pkg.updChan_groups (f : Chan → Chan) : (k.updChan f).groups = k.groups := rfl
@[simp] theorem Pkg.updChan_cores (f : Chan → Chan) : (k.updChan f).cores = k.cores := rfl
@[simp] theorem Pkg.updChan_dies (f : Chan → Chan) : (k.updChan f).dies = k.dies := rfl
@[simp] theorem Pkg.updChan_ctrls (f : Chan → Chan) : (k.updChan f).ctrls = k.ctrls := rfl
@[simp] theorem Pkg.updChan_home (f : Chan → Chan) : (k.updChan f).home = k.home := rfl
@[simp] theorem Pkg.updChan_keyed (f : Chan → Chan) : (k.updChan f).keyed = k.keyed := rfl
@[simp] theorem Pkg.updChan_rowErrs (f : Chan → Chan) : (k.updChan f).rowErrs = k.rowErrs := rfl
@[simp] theorem Pkg.updChan_spares (f : Chan → Chan) : (k.updChan f).spares = k.spares := rfl
@[simp] theorem Pkg.updChan_retiredRows (f : Chan → Chan) : (k.updChan f).retiredRows = k.retiredRows := rfl
@[simp] theorem Pkg.updChan_wipesDue (f : Chan → Chan) : (k.updChan f).wipesDue = k.wipesDue := rfl
@[simp] theorem Pkg.updChan_pends (f : Chan → Chan) : (k.updChan f).pends = k.pends := rfl
@[simp] theorem Pkg.updChan_olog (f : Chan → Chan) : (k.updChan f).olog = k.olog := rfl
@[simp] theorem Pkg.updChan_btes (f : Chan → Chan) : (k.updChan f).btes = k.btes := rfl
@[simp] theorem Pkg.updChan_cpWrites (f : Chan → Chan) : (k.updChan f).cpWrites = k.cpWrites := rfl
@[simp] theorem Pkg.updChan_ports (f : Chan → Chan) : (k.updChan f).ports = k.ports := rfl
@[simp] theorem Pkg.updChan_noPath (f : Chan → Chan) : (k.updChan f).noPath = k.noPath := rfl
@[simp] theorem Pkg.updChan_fns (f : Chan → Chan) : (k.updChan f).fns = k.fns := rfl
@[simp] theorem Pkg.updChan_plat (f : Chan → Chan) : (k.updChan f).plat = k.plat := rfl
@[simp] theorem Pkg.updChan_ctrs (f : Chan → Chan) : (k.updChan f).ctrs = k.ctrs := rfl
@[simp] theorem Pkg.updChan_lidCtr (f : Chan → Chan) : (k.updChan f).lidCtr = k.lidCtr := rfl
@[simp] theorem Pkg.updChan_uid (f : Chan → Chan) : (k.updChan f).uid = k.uid := rfl
@[simp] theorem Pkg.updChan_seq (f : Chan → Chan) : (k.updChan f).seq = k.seq := rfl
@[simp] theorem Pkg.updChan_served (f : Chan → Chan) : (k.updChan f).served = k.served := rfl
@[simp] theorem Pkg.updChan_sliceAt (f : Chan → Chan) : (k.updChan f).sliceAt = k.sliceAt := rfl
@[simp] theorem Pkg.updChan_halted (f : Chan → Chan) : (k.updChan f).halted = k.halted := rfl
@[simp] theorem Pkg.updChan_aclk (f : Chan → Chan) : (k.updChan f).aclk = k.aclk := rfl
@[simp] theorem Pkg.bump_part (w : Nat) : (k.bump n w).part = k.part := rfl
@[simp] theorem Pkg.bump_ctxs (w : Nat) : (k.bump n w).ctxs = k.ctxs := rfl
@[simp] theorem Pkg.bump_reclaim (w : Nat) : (k.bump n w).reclaim = k.reclaim := rfl
@[simp] theorem Pkg.bump_kills (w : Nat) : (k.bump n w).kills = k.kills := rfl
@[simp] theorem Pkg.bump_adopted (w : Nat) : (k.bump n w).adopted = k.adopted := rfl
@[simp] theorem Pkg.bump_queues (w : Nat) : (k.bump n w).queues = k.queues := rfl
@[simp] theorem Pkg.bump_nodes (w : Nat) : (k.bump n w).nodes = k.nodes := rfl
@[simp] theorem Pkg.bump_slices (w : Nat) : (k.bump n w).slices = k.slices := rfl
@[simp] theorem Pkg.bump_clusters (w : Nat) : (k.bump n w).clusters = k.clusters := rfl
@[simp] theorem Pkg.bump_blocks (w : Nat) : (k.bump n w).blocks = k.blocks := rfl
@[simp] theorem Pkg.bump_groups (w : Nat) : (k.bump n w).groups = k.groups := rfl
@[simp] theorem Pkg.bump_cores (w : Nat) : (k.bump n w).cores = k.cores := rfl
@[simp] theorem Pkg.bump_dies (w : Nat) : (k.bump n w).dies = k.dies := rfl
@[simp] theorem Pkg.bump_ctrls (w : Nat) : (k.bump n w).ctrls = k.ctrls := rfl
@[simp] theorem Pkg.bump_home (w : Nat) : (k.bump n w).home = k.home := rfl
@[simp] theorem Pkg.bump_keyed (w : Nat) : (k.bump n w).keyed = k.keyed := rfl
@[simp] theorem Pkg.bump_rowErrs (w : Nat) : (k.bump n w).rowErrs = k.rowErrs := rfl
@[simp] theorem Pkg.bump_spares (w : Nat) : (k.bump n w).spares = k.spares := rfl
@[simp] theorem Pkg.bump_retiredRows (w : Nat) : (k.bump n w).retiredRows = k.retiredRows := rfl
@[simp] theorem Pkg.bump_wipesDue (w : Nat) : (k.bump n w).wipesDue = k.wipesDue := rfl
@[simp] theorem Pkg.bump_pends (w : Nat) : (k.bump n w).pends = k.pends := rfl
@[simp] theorem Pkg.bump_olog (w : Nat) : (k.bump n w).olog = k.olog := rfl
@[simp] theorem Pkg.bump_btes (w : Nat) : (k.bump n w).btes = k.btes := rfl
@[simp] theorem Pkg.bump_cpWrites (w : Nat) : (k.bump n w).cpWrites = k.cpWrites := rfl
@[simp] theorem Pkg.bump_chan (w : Nat) : (k.bump n w).chan = k.chan := rfl
@[simp] theorem Pkg.bump_ports (w : Nat) : (k.bump n w).ports = k.ports := rfl
@[simp] theorem Pkg.bump_noPath (w : Nat) : (k.bump n w).noPath = k.noPath := rfl
@[simp] theorem Pkg.bump_fns (w : Nat) : (k.bump n w).fns = k.fns := rfl
@[simp] theorem Pkg.bump_plat (w : Nat) : (k.bump n w).plat = k.plat := rfl
@[simp] theorem Pkg.bump_lidCtr (w : Nat) : (k.bump n w).lidCtr = k.lidCtr := rfl
@[simp] theorem Pkg.bump_uid (w : Nat) : (k.bump n w).uid = k.uid := rfl
@[simp] theorem Pkg.bump_seq (w : Nat) : (k.bump n w).seq = k.seq := rfl
@[simp] theorem Pkg.bump_served (w : Nat) : (k.bump n w).served = k.served := rfl
@[simp] theorem Pkg.bump_sliceAt (w : Nat) : (k.bump n w).sliceAt = k.sliceAt := rfl
@[simp] theorem Pkg.bump_halted (w : Nat) : (k.bump n w).halted = k.halted := rfl
@[simp] theorem Pkg.bump_aclk (w : Nat) : (k.bump n w).aclk = k.aclk := rfl
end PkgFields

section GroupFields
variable (g : Group) (m : Mask) (f : Nat → Lane → Lane)

@[simp] theorem Group.mapLanes_blk : (g.mapLanes f).blk = g.blk := rfl
@[simp] theorem Group.onLanes_blk : (g.onLanes m f).blk = g.blk := rfl
@[simp] theorem Group.mapLanes_gidx : (g.mapLanes f).gidx = g.gidx := rfl
@[simp] theorem Group.onLanes_gidx : (g.onLanes m f).gidx = g.gidx := rfl
@[simp] theorem Group.mapLanes_core : (g.mapLanes f).core = g.core := rfl
@[simp] theorem Group.onLanes_core : (g.onLanes m f).core = g.core := rfl
@[simp] theorem Group.mapLanes_slot : (g.mapLanes f).slot = g.slot := rfl
@[simp] theorem Group.onLanes_slot : (g.onLanes m f).slot = g.slot := rfl
@[simp] theorem Group.mapLanes_fair : (g.mapLanes f).fair = g.fair := rfl
@[simp] theorem Group.onLanes_fair : (g.onLanes m f).fair = g.fair := rfl
@[simp] theorem Group.mapLanes_handler : (g.mapLanes f).handler = g.handler := rfl
@[simp] theorem Group.onLanes_handler : (g.onLanes m f).handler = g.handler := rfl
@[simp] theorem Group.mapLanes_holds : (g.mapLanes f).holds = g.holds := rfl
@[simp] theorem Group.onLanes_holds : (g.onLanes m f).holds = g.holds := rfl
@[simp] theorem Group.mapLanes_pend : (g.mapLanes f).pend = g.pend := rfl
@[simp] theorem Group.onLanes_pend : (g.onLanes m f).pend = g.pend := rfl
@[simp] theorem Group.mapLanes_deferred : (g.mapLanes f).deferred = g.deferred := rfl
@[simp] theorem Group.onLanes_deferred : (g.onLanes m f).deferred = g.deferred := rfl
@[simp] theorem Group.mapLanes_halted : (g.mapLanes f).halted = g.halted := rfl
@[simp] theorem Group.onLanes_halted : (g.onLanes m f).halted = g.halted := rfl
@[simp] theorem Group.mapLanes_haltedAt : (g.mapLanes f).haltedAt = g.haltedAt := rfl
@[simp] theorem Group.onLanes_haltedAt : (g.onLanes m f).haltedAt = g.haltedAt := rfl
@[simp] theorem Group.mapLanes_skipBp : (g.mapLanes f).skipBp = g.skipBp := rfl
@[simp] theorem Group.onLanes_skipBp : (g.onLanes m f).skipBp = g.skipBp := rfl
@[simp] theorem Group.mapLanes_step : (g.mapLanes f).step = g.step := rfl
@[simp] theorem Group.onLanes_step : (g.onLanes m f).step = g.step := rfl
@[simp] theorem Group.mapLanes_retries : (g.mapLanes f).retries = g.retries := rfl
@[simp] theorem Group.onLanes_retries : (g.onLanes m f).retries = g.retries := rfl
@[simp] theorem Group.mapLanes_readySince : (g.mapLanes f).readySince = g.readySince := rfl
@[simp] theorem Group.onLanes_readySince : (g.onLanes m f).readySince = g.readySince := rfl
@[simp] theorem Group.mapLanes_window : (g.mapLanes f).window = g.window := rfl
@[simp] theorem Group.onLanes_window : (g.onLanes m f).window = g.window := rfl
end GroupFields

section LaneFields
variable (l : Lane) (n : Nat)

@[simp] theorem Lane.orFf_pc (b : BitVec 5) : (l.orFf b).pc = l.pc := rfl
@[simp] theorem Lane.setV_pc (w : Word) : (l.setV n w).pc = l.pc := by unfold Lane.setV; split <;> rfl
@[simp] theorem Lane.setP_pc (b : Bool) : (l.setP n b).pc = l.pc := by unfold Lane.setP; split <;> rfl
@[simp] theorem Lane.setPc_live (a : Addr) : (l.setPc a).live = l.live := rfl
@[simp] theorem Lane.orFf_live (b : BitVec 5) : (l.orFf b).live = l.live := rfl
@[simp] theorem Lane.setV_live (w : Word) : (l.setV n w).live = l.live := by unfold Lane.setV; split <;> rfl
@[simp] theorem Lane.setP_live (b : Bool) : (l.setP n b).live = l.live := by unfold Lane.setP; split <;> rfl
@[simp] theorem Lane.setPc_fill (a : Addr) : (l.setPc a).fill = l.fill := rfl
@[simp] theorem Lane.orFf_fill (b : BitVec 5) : (l.orFf b).fill = l.fill := rfl
@[simp] theorem Lane.setV_fill (w : Word) : (l.setV n w).fill = l.fill := by unfold Lane.setV; split <;> rfl
@[simp] theorem Lane.setP_fill (b : Bool) : (l.setP n b).fill = l.fill := by unfold Lane.setP; split <;> rfl
@[simp] theorem Lane.setPc_v (a : Addr) : (l.setPc a).v = l.v := rfl
@[simp] theorem Lane.orFf_v (b : BitVec 5) : (l.orFf b).v = l.v := rfl
@[simp] theorem Lane.setP_v (b : Bool) : (l.setP n b).v = l.v := by unfold Lane.setP; split <;> rfl
@[simp] theorem Lane.setPc_p (a : Addr) : (l.setPc a).p = l.p := rfl
@[simp] theorem Lane.orFf_p (b : BitVec 5) : (l.orFf b).p = l.p := rfl
@[simp] theorem Lane.setV_p (w : Word) : (l.setV n w).p = l.p := by unfold Lane.setV; split <;> rfl
@[simp] theorem Lane.setPc_ff (a : Addr) : (l.setPc a).ff = l.ff := rfl
@[simp] theorem Lane.setV_ff (w : Word) : (l.setV n w).ff = l.ff := by unfold Lane.setV; split <;> rfl
@[simp] theorem Lane.setP_ff (b : Bool) : (l.setP n b).ff = l.ff := by unfold Lane.setP; split <;> rfl
@[simp] theorem Lane.setX_pc (w : DWord) : (l.setX n w).pc = l.pc := by unfold Lane.setX; split <;> simp
@[simp] theorem Lane.setX_live (w : DWord) : (l.setX n w).live = l.live := by unfold Lane.setX; split <;> simp
@[simp] theorem Lane.setX_fill (w : DWord) : (l.setX n w).fill = l.fill := by unfold Lane.setX; split <;> simp
@[simp] theorem Lane.setX_p (w : DWord) : (l.setX n w).p = l.p := by unfold Lane.setX; split <;> simp
@[simp] theorem Lane.setX_ff (w : DWord) : (l.setX n w).ff = l.ff := by unfold Lane.setX; split <;> simp
@[simp] theorem Lane.setPc_pc (a : Addr) : (l.setPc a).pc = a := rfl
@[simp] theorem Lane.orFf_ff (b : BitVec 5) : (l.orFf b).ff = l.ff ||| b := rfl
end LaneFields

end Sys2Proof.Machine
end

