-- ==== Sys2Proof/Laws/Issue.lean ====
section
/-! SUPPORT. Laws/Issue.lean: what one issue does when it stands, said once for every instruction. -/

namespace Sys2Proof.Machine

/-! ### Groups in the state -/

theorem State.pkg_updPkg (s : State) (p q : Nat) (f : Pkg → Pkg) :
    (s.updPkg p f).pkg q = if p = q ∧ thas s.pkgs p then f (s.pkg q) else s.pkg q := by
  unfold State.updPkg State.pkg
  simp only [tgetD, tget_tmod, thas]
  by_cases h : p = q
  · subst h
    by_cases h2 : (tget s.pkgs p).isSome = true
    · obtain ⟨k, hk⟩ := Option.isSome_iff_exists.mp h2; simp [hk]
    · simp at h2; simp [h2]
  · simp [h]

theorem State.pkg_of_group? {s : State} {p g : Nat} {x : Group} (h : s.group? p g = some x) : thas s.pkgs p = true := by
  unfold State.group? State.pkg tgetD at h
  unfold thas
  cases h2 : tget s.pkgs p with
  | none => simp [h2, Pkg.reset] at h
  | some k => rfl

theorem State.group?_updGroup {s : State} {p g : Nat} {x : Group} (h : s.group? p g = some x) (f : Group → Group) (g' : Nat) :
    (s.updGroup p g f).group? p g' = if g = g' then some (f x) else s.group? p g' := by
  have hp := State.pkg_of_group? h
  unfold State.group? State.updGroup at *
  simp only [State.pkg_updPkg, hp, and_self, if_true, Pkg.updGroup, tget_tmod]
  by_cases hg : g = g'
  · subst hg; simp [h]
  · simp [hg]

theorem State.updGroup_const {s : State} {p g : Nat} {x : Group} (h : s.group? p g = some x) (f : Group → Group) :
    s.updGroup p g f = s.updGroup p g (fun _ => f x) := by
  unfold State.updGroup State.updPkg Pkg.updGroup
  congr 1
  unfold State.group? State.pkg tgetD at h
  unfold tmod
  cases h2 : tget s.pkgs p with
  | none => rfl
  | some k =>
    simp only [h2, Option.getD_some] at h
    simp [h]

/-! ### Lanes -/

theorem Group.lane_mapLanes (g : Group) (f : Nat → Lane → Lane) {n : Nat} (h : n < 32) :
    (g.mapLanes f).lane n = f n (g.lane n) := by
  unfold Group.mapLanes
  simp only [Group.lane, laneList]
  rw [List.getD_eq_getElem?_getD, List.getElem?_map, List.getElem?_range h]
  rfl

theorem Group.lane_onLanes (g : Group) (m : Mask) (f : Nat → Lane → Lane) {n : Nat} (h : n < 32) :
    (g.onLanes m f).lane n = if bit m n then f n (g.lane n) else g.lane n := Group.lane_mapLanes _ _ h

@[simp] theorem Group.lane_with_holds (g : Group) (x : List Hold) (n : Nat) : ({ g with holds := x } : Group).lane n = g.lane n := rfl

/-! ### The parts of retirement keep what they do not name -/

/-- All of a group but its fairness state. -/
def SameButFair (a b : Group) : Prop := a = { b with fair := a.fair }

theorem SameButFair.refl (a : Group) : SameButFair a a := rfl
theorem SameButFair.of_with (g : Group) (f : Fair) : SameButFair { g with fair := f } g := rfl
theorem SameButFair.trans {a b c : Group} (h : SameButFair a b) (h' : SameButFair b c) : SameButFair a c := by
  unfold SameButFair at *; rw [h, h']

theorem Group.handOff_same (g : Group) (a : Addr) (w : Mask) (n : Nat) : SameButFair (g.handOff a w n) g := by
  unfold Group.handOff; simp only; split <;> exact SameButFair.of_with ..

theorem Group.fairUpdate_same (g : Group) (a : Addr) (w : Mask) (y : Bool) : SameButFair (g.fairUpdate a w y) g := by
  unfold Group.fairUpdate; simp only
  repeat' split
  all_goals first
    | exact SameButFair.of_with ..
    | exact (Group.handOff_same ..).trans (SameButFair.of_with ..)

theorem Group.afterIssue_same (g : Group) (i : Iss) (hand : Hand) : SameButFair (g.afterIssue i hand) g := by
  unfold Group.afterIssue
  have h1 : SameButFair (if (i.loc.grp.step.isSome || i.loc.grp.handler.isSome) = true then g
      else g.fairUpdate i.addr i.waited (hand == .yield)) g := by
    split
    · exact SameButFair.refl _
    · exact Group.fairUpdate_same ..
  cases hand with
  | set len => exact (SameButFair.of_with ..).trans h1
  | keep => exact h1
  | yield => exact h1

theorem Group.endHandler_cases (g : Group) : g.endHandler = g ∨ g.endHandler = { g with handler := none } := by
  unfold Group.endHandler
  split
  · split <;> simp
  · simp

/-- The group that retirement leaves. -/
theorem Iss.retired_group (i : Iss) (pcs : Tab Nat Addr) (hand : Hand) (now : Nat) (g : Group) :
    i.Ended g ((({ ((g.onLanes i.sel (fun n x => if x.live then x.setPc ((tget pcs n).getD (nextPc i.addr i.words)) else x)).dropHold
      i.addr) with retries := 0, skipBp := false, readySince := now } : Group).afterIssue i hand).endHandler) 0 (fun _ x => x)
      (fun n => (tget pcs n).getD (nextPc i.addr i.words)) := by
  set g2 : Group := { ((g.onLanes i.sel (fun n x => if x.live then x.setPc ((tget pcs n).getD (nextPc i.addr i.words)) else x)).dropHold
      i.addr) with retries := 0, skipBp := false, readySince := now } with hg2
  have h3 : SameButFair (g2.afterIssue i hand) g2 := Group.afterIssue_same ..
  set g3 := g2.afterIssue i hand with hg3
  have h4 := Group.endHandler_cases g3
  have hl : ∀ n < 32, g3.lane n = if bit i.sel n && (g.lane n).live then (g.lane n).setPc ((tget pcs n).getD (nextPc i.addr i.words)) else g.lane n := by
    intro n hn
    have e1 : g3.lane n = g2.lane n := by rw [h3]; rfl
    have e2 : g2.lane n = (g.onLanes i.sel (fun n x => if x.live then x.setPc ((tget pcs n).getD (nextPc i.addr i.words)) else x)).lane n := rfl
    rw [e1, e2, Group.lane_onLanes _ _ _ hn]
    cases bit i.sel n <;> rfl
  constructor
  · intro n hn
    have e : (g3.endHandler).lane n = g3.lane n := by
      rcases h4 with h | h
      · rw [h]
      · rw [h]; rfl
    rw [e, hl n hn]; simp
  all_goals first
    | (rcases h4 with h | h <;> rw [h, h3] <;> rfl)
    | (rcases h4 with h | h <;> rw [h]
       · left; rw [h3]; rfl
       · right; rfl)

theorem State.retire_retires (s : State) (i : Iss) (pcs : Tab Nat Addr) (hand : Hand) {g : Group}
    (h : s.group? i.loc.p i.loc.g = some g) :
    i.Retires s (s.retire i pcs hand) 0 (fun _ x => x) (fun n => (tget pcs n).getD (nextPc i.addr i.words)) := by
  refine ⟨g, _, h, i.retired_group pcs hand s.turns g, ?_⟩
  unfold State.retire
  dsimp only
  exact congrArg (fun x => State.updBlock x i.loc.p i.loc.grp.blk (fun b => { b with r := b.r + 1 })) (State.updGroup_const h _)

/-! ### One issue -/

theorem State.readWords_clean {s : State} (h : s.strikes = []) (p unit : Nat) (ws : List SramWord) :
    s.readWords p unit ws = (false, s) := by
  unfold State.readWords
  induction ws with
  | nil => rfl
  | cons w ws ih => simpa [List.foldl_cons, State.struck, h] using ih

theorem State.mend_clean {s : State} (h : s.strikes = []) (p : Nat) (ws : List SramWord) : s.mend p ws = s := by
  simp [State.mend, h]

theorem State.afterTraps_quiet (s : State) (i : Iss) (h : i.loc.grp.step = none) : s.afterTraps i 0 = s := by
  unfold State.afterTraps
  cases hl : s.loc i.loc.p i.loc.g with
  | none => rfl
  | some l => simp [h]

theorem State.loc_p {s : State} {p g : Nat} {l : Loc} (h : s.loc p g = some l) : l.p = p ∧ l.g = g := by
  unfold State.loc at h
  simp only at h
  split at h
  · cases h
  · split at h
    · cases h
    · split at h
      · split at h
        · cases h; exact ⟨rfl, rfl⟩
        · cases h
      · cases h

theorem State.group_of_loc {s : State} {p g : Nat} {l : Loc} (h : s.loc p g = some l) : s.group? p g = some l.grp := by
  unfold State.loc at h
  unfold State.group?
  simp only at h
  split at h
  · cases h
  · rename_i grp hg
    split at h
    · cases h
    · split at h
      · split at h
        · cases h; exact hg
        · cases h
      · cases h

/-- What one issue comes to when it stands and its form asks for nothing that is missing. -/
theorem issueWith_stands {i : Iss} {s : State} {f : Loc → Form} {rs : List Nat} (h : i.Stands (f i.loc).gd rs s)
    (hrs : ∀ r ∈ (f i.loc).srcs ++ (f i.loc).dsts, r ∈ rs) (hbad : (f i.loc).bad = false)
    (h64 : (f i.loc).needF64 = true → Config.hasF64 s.part = true)
    (hrole : ∀ r, (f i.loc).needRole = some r → i.loc.role = r) (body : Iss → State → Res) :
    issueWith f body s =
      match body i s with
      | .trap c a n code => .next (s.issueTrap i c a n code)
      | .fail c a n s' => .next (s'.issueTrap i c a n 0)
      | .wait k d s' => .next (((s'.readWords i.loc.p (unitCore i.loc.core) ((f i.loc).reads i)).2).hold i k d)
      | .done s' pcs w y =>
        .next (((((s'.readWords i.loc.p (unitCore i.loc.core) ((f i.loc).reads i)).2).mend i.loc.p ((f i.loc).written i)).retire i
          pcs y).afterTraps i w) := by
  have hi : ({ loc := i.loc, addr := i.addr, sel := i.sel, ex := i.loc.grp.exec i.sel (f i.loc).gd, words := i.words } : Iss) = i := by
    cases i; simp only [Iss.mk.injEq, true_and, and_true]; exact h.ex.symm
  have hregs : (((f i.loc).srcs ++ (f i.loc).dsts).any (fun r => decide (i.loc.node.desc.regs ≤ r))) = false := by
    rw [List.any_eq_false]; intro r hr; have := h.inRange r (hrs r hr); simp; omega
  have hpend : (f i.loc).pending i.loc.grp = false := by
    unfold Form.pending; rw [List.any_eq_false]; intro r hr; simp [h.settled r (hrs r hr)]
  have hlane : s.laneHit i.loc (f i.loc).uni i.sel = none := by simp [State.laneHit, h.sound]
  have hf64 : ((f i.loc).needF64 && !Config.hasF64 s.part) = false := by
    cases hn : (f i.loc).needF64 with
    | false => rfl
    | true => simp [h64 hn]
  unfold issueWith
  simp only [h.cur, h.here, hi, hlane, State.issueRun, hbad, hregs, hf64, Bool.or_self, Bool.false_eq_true, if_false, hpend]
  have hex : ¬ i.loc.grp.exec i.sel (f i.loc).gd = 0#32 := by rw [← h.ex]; exact h.lanes
  cases hn : (f i.loc).needRole with
  | none =>
    cases hb : body i s <;> simp [hex, State.readWords_clean h.clean]
  | some r =>
    have : i.loc.role = r := hrole r hn
    cases hb : body i s <;> simp [this, hex, State.readWords_clean h.clean]

/-- An issue that stands and whose operation is done retires. -/
theorem issueWith_done {i : Iss} {s s' : State} {f : Loc → Form} {rs : List Nat} {body : Iss → State → Res} {pcs : Tab Nat Addr}
    {hand : Hand} (h : i.Stands (f i.loc).gd rs s) (hrs : ∀ r ∈ (f i.loc).srcs ++ (f i.loc).dsts, r ∈ rs)
    (hbad : (f i.loc).bad = false) (h64 : (f i.loc).needF64 = true → Config.hasF64 s.part = true)
    (hrole : ∀ r, (f i.loc).needRole = some r → i.loc.role = r)
    (hb : body i s = .done s' pcs 0 hand) (hs : s'.strikes = []) :
    issueWith f body s = .next (s'.retire i pcs hand) := by
  rw [issueWith_stands h hrs hbad h64 hrole, hb]
  simp only [State.readWords_clean hs, State.mend_clean hs]
  rw [State.afterTraps_quiet _ _ h.unstepped]

/-! ### Lane instructions -/

/-- The effect on lanes, then retirement, as one change of the group. -/
theorem Iss.retires_lanes {i : Iss} {s : State} {g : Group} (h : s.group? i.loc.p i.loc.g = some g) (dst : Mask)
    (new : Nat → Lane → Lane) (pcs : Tab Nat Addr) (hand : Hand) :
    i.Retires s ((i.upd s (fun g => g.onLanes dst new)).retire i pcs hand) dst new
      (fun n => (tget pcs n).getD (nextPc i.addr i.words)) := by
  have h1 : (i.upd s (fun g => g.onLanes dst new)).group? i.loc.p i.loc.g = some (g.onLanes dst new) := by
    unfold Iss.upd; rw [State.group?_updGroup h]; simp
  obtain ⟨g0, gt, hg0, he, ht⟩ := State.retire_retires _ i pcs hand h1
  rw [h1] at hg0; cases hg0
  refine ⟨g, gt, h, ?_, ?_⟩
  · constructor
    · intro n hn
      have := he.lane n hn
      rw [Group.lane_onLanes _ _ _ hn] at this
      have hb0 : bit (0 : Mask) n = false := by simp [bit]
      simpa [hb0] using this
    · exact he.holds
    · exact he.pend
    · exact he.deferred
    · exact he.place
    · exact he.halted
    · exact he.handler
  · rw [ht]
    unfold Iss.upd State.updGroup State.updBlock
    simp only [State.updPkg, tmod_tmod, Pkg.updGroup, Pkg.updBlock]

/-- One lemma for every instruction that writes only its own lanes. -/
theorem acrossLanes_writes {i : Iss} {s : State} {f : Form} {rs : List Nat} {eff : Iss → Nat → Lane → Lane} {x : Instr}
    (h : i.Stands f.gd rs s) (hrs : ∀ r ∈ f.srcs ++ f.dsts, r ∈ rs) (hbad : f.bad = false)
    (h64 : f.needF64 = true → Config.hasF64 s.part = true) (hrole : ∀ r, f.needRole = some r → i.loc.role = r)
    (hx : exec x s = acrossLanes f eff s) :
    i.Writes x s (dstLanes f.uni i.ex) (fun n l => eff i (srcLane f.uni i.leader n) l) := by
  refine ⟨_, ?_, Iss.retires_lanes (State.group_of_loc h.here) (dstLanes f.uni i.ex)
    (fun n l => eff i (srcLane f.uni i.leader n) l) [] .keep⟩
  rw [hx]
  unfold acrossLanes issue
  exact issueWith_done (s' := i.lanes s f.uni (eff i)) h hrs hbad h64 hrole rfl (by simpa [Iss.lanes, Iss.upd] using h.clean)

theorem perLane_writes {i : Iss} {s : State} {f : Form} {rs : List Nat} {eff : Group → Nat → Lane → Lane} {x : Instr}
    (h : i.Stands f.gd rs s) (hrs : ∀ r ∈ f.srcs ++ f.dsts, r ∈ rs) (hbad : f.bad = false)
    (h64 : f.needF64 = true → Config.hasF64 s.part = true) (hrole : ∀ r, f.needRole = some r → i.loc.role = r)
    (hx : exec x s = perLane f eff s) :
    i.Writes x s (dstLanes f.uni i.ex) (fun n l => eff i.g (srcLane f.uni i.leader n) l) :=
  acrossLanes_writes (eff := fun i => eff i.g) h hrs hbad h64 hrole hx

end Sys2Proof.Machine
end

