-- ==== Sys2Proof/Laws/Memory.lean ====
section
/-! SUPPORT. Laws/Memory.lean: what a read finds after a write, and that every write keeps the canonical form. -/

namespace Sys2Proof.Machine

theorem wfFrom_cons (lo : Option Nat) (a : Nat) (b : Byte) (m : List Host.Cell) :
    Memory.wfFrom lo ((a, b) :: m) = true ↔ (∀ l, lo = some l → l < a) ∧ b ≠ 0 ∧ Memory.wfFrom (some a) m = true := by
  cases lo <;> simp [Memory.wfFrom, and_assoc]

/-- A lower bound that is lower still will do. -/
theorem wfFrom_mono {lo lo' : Option Nat} {m : List Host.Cell} (h : ∀ l', lo' = some l' → ∃ l, lo = some l ∧ l' ≤ l)
    (hm : Memory.wfFrom lo m = true) : Memory.wfFrom lo' m = true := by
  cases m with
  | nil => rfl
  | cons e m =>
    obtain ⟨a, b⟩ := e
    rw [wfFrom_cons] at hm ⊢
    refine ⟨fun l' hl' => ?_, hm.2⟩
    obtain ⟨l, hl, hle⟩ := h l' hl'
    exact lt_of_le_of_lt hle (hm.1 l hl)

theorem wfFrom_writeByte {lo : Option Nat} {m : List Host.Cell} (a : Nat) (b : Byte) (ha : ∀ l, lo = some l → l < a)
    (hm : Memory.wfFrom lo m = true) : Memory.wfFrom lo (writeByte m a b) = true := by
  induction m generalizing lo with
  | nil =>
    by_cases hb : b = 0
    · simp [writeByte, hb, Memory.wfFrom]
    · simp only [writeByte, hb, if_false]; exact (wfFrom_cons _ _ _ _).mpr ⟨ha, hb, rfl⟩
  | cons e m ih =>
    obtain ⟨a', b'⟩ := e
    rw [wfFrom_cons] at hm
    obtain ⟨h1, h2, h3⟩ := hm
    unfold writeByte
    by_cases heq : a' = a
    · subst heq
      by_cases hb : b = 0
      · simp only [hb, if_true]; exact wfFrom_mono (fun l' hl' => ⟨a', rfl, le_of_lt (ha l' hl')⟩) h3
      · simp only [hb, if_true, if_false]; exact (wfFrom_cons _ _ _ _).mpr ⟨ha, hb, h3⟩
    · by_cases hlt : a < a'
      · by_cases hb : b = 0
        · simp only [heq, hlt, hb, if_true, if_false]; exact (wfFrom_cons _ _ _ _).mpr ⟨h1, h2, h3⟩
        · simp only [heq, hlt, hb, if_true, if_false]
          exact (wfFrom_cons _ _ _ _).mpr ⟨ha, hb, (wfFrom_cons _ _ _ _).mpr ⟨fun l hl => by cases hl; exact hlt, h2, h3⟩⟩
      · simp only [heq, hlt, if_false]
        exact (wfFrom_cons _ _ _ _).mpr ⟨h1, h2, ih (fun l hl => by cases hl; omega) h3⟩

theorem Memory.wf_writeByte {m : List Host.Cell} (a : Nat) (b : Byte) (h : Memory.wf m = true) :
    Memory.wf (writeByte m a b) = true := wfFrom_writeByte a b (by simp) h

theorem Memory.wf_writeBytes {m : List Host.Cell} (a : Nat) (bs : List Byte) (h : Memory.wf m = true) :
    Memory.wf (writeBytes m a bs) = true := by
  induction bs generalizing m a with
  | nil => exact h
  | cons b bs ih => exact ih _ (Memory.wf_writeByte a b h)

@[simp] theorem Memory.wf_nil : Memory.wf [] = true := rfl

/-- Below the first cell every byte is unlisted. -/
theorem readByte_of_lt {l : Nat} {m : List Host.Cell} (h : Memory.wfFrom (some l) m = true) {a : Nat} (ha : a ≤ l) : readByte m a = 0 := by
  cases m with
  | nil => rfl
  | cons e m =>
    obtain ⟨a', b'⟩ := e
    have := ((wfFrom_cons _ _ _ _).mp h).1 l rfl
    have h1 : a' ≠ a := by omega
    have h2 : a < a' := by omega
    simp [readByte, h1, h2]

theorem readByte_writeFrom {lo : Option Nat} {m : List Host.Cell} (a x : Nat) (b : Byte) (hm : Memory.wfFrom lo m = true) :
    readByte (writeByte m a b) x = if x = a then b else readByte m x := by
  induction m generalizing lo with
  | nil =>
    by_cases hb : b = 0
    · by_cases hx : x = a <;> simp [writeByte, readByte, hb, hx]
    · simp only [writeByte, hb, if_false]
      by_cases hx : x = a
      · simp [readByte, hx]
      · simp [readByte, hx, Ne.symm hx]
  | cons e m ih =>
    obtain ⟨a', b'⟩ := e
    obtain ⟨h1, h2, h3⟩ := (wfFrom_cons _ _ _ _).mp hm
    unfold writeByte
    by_cases heq : a' = a
    · subst heq
      by_cases hb : b = 0
      · simp only [hb, if_true]
        by_cases hx : x = a'
        · simp [hx, readByte_of_lt h3 (le_refl _)]
        · by_cases hlt : x < a'
          · simp [readByte, hx, Ne.symm hx, hlt, readByte_of_lt h3 (le_of_lt hlt)]
          · simp [readByte, hx, Ne.symm hx, hlt]
      · simp only [hb, if_true, if_false]
        by_cases hx : x = a'
        · simp [readByte, hx]
        · simp [readByte, hx, Ne.symm hx]
    · by_cases hlt : a < a'
      · by_cases hb : b = 0
        · simp only [heq, hlt, hb, if_true, if_false]
          by_cases hx : x = a
          · subst hx; simp [readByte, heq, hlt]
          · simp [hx]
        · simp only [heq, hlt, hb, if_true, if_false]
          by_cases hx : x = a
          · simp [readByte, hx]
          · by_cases hxl : x < a
            · have h4 : a' ≠ x := by omega
              have h5 : x < a' := by omega
              simp [readByte, hx, Ne.symm hx, hxl, h4, h5]
            · simp [readByte, hx, Ne.symm hx, hxl]
      · simp only [heq, hlt, if_false]
        by_cases hxa : a' = x
        · subst hxa; simp [readByte, heq]
        · by_cases hxl : x < a'
          · have : x ≠ a := by omega
            simp [readByte, hxa, hxl, this]
          · simp only [readByte, hxa, hxl, if_false]; exact ih h3

/-- A read after a write: the byte written at its address, every other byte as before. -/
theorem readByte_writeByte {m : List Host.Cell} (h : Memory.wf m = true) (a x : Nat) (b : Byte) :
    readByte (writeByte m a b) x = if x = a then b else readByte m x := readByte_writeFrom a x b h

theorem readByte_writeBytes {m : List Host.Cell} (h : Memory.wf m = true) (a x : Nat) (bs : List Byte) :
    readByte (writeBytes m a bs) x = if a ≤ x ∧ x < a + bs.length then bs.getD (x - a) 0 else readByte m x := by
  induction bs generalizing m a with
  | nil => simp only [writeBytes, List.length_nil, add_zero]; split <;> [omega; rfl]
  | cons b bs ih =>
    simp only [writeBytes, ih (Memory.wf_writeByte a b h) (a + 1), readByte_writeByte h, List.length_cons]
    by_cases hx : x = a
    · subst hx; simp
    · by_cases hin : a + 1 ≤ x ∧ x < a + 1 + bs.length
      · have h1 : a ≤ x ∧ x < a + (bs.length + 1) := by omega
        rw [if_pos hin, if_pos h1]
        obtain ⟨k, hk⟩ : ∃ k, x - a = k + 1 := ⟨x - a - 1, by omega⟩
        have h2 : x - (a + 1) = k := by omega
        rw [hk, h2]; simp
      · have h1 : ¬ (a ≤ x ∧ x < a + (bs.length + 1)) := by omega
        rw [if_neg hin, if_neg hx, if_neg h1]

@[simp] theorem length_readBytes (m : List Host.Cell) (a n : Nat) : (readBytes m a n).length = n := by
  induction n generalizing a with
  | zero => rfl
  | succ n ih => simp [readBytes, ih]

/-- Two canonical memories that read alike are equal data. -/
theorem readByte_ext_from {lo : Option Nat} {m m' : List Host.Cell} (h : Memory.wfFrom lo m = true)
    (h' : Memory.wfFrom lo m' = true) (hr : ∀ a, readByte m a = readByte m' a) : m = m' := by
  induction m generalizing lo m' with
  | nil =>
    cases m' with
    | nil => rfl
    | cons e m' =>
      obtain ⟨a, b⟩ := e
      have := hr a
      simp [readByte] at this
      exact absurd this.symm ((wfFrom_cons _ _ _ _).mp h').2.1
  | cons e m ih =>
    obtain ⟨a, b⟩ := e
    obtain ⟨h1, h2, h3⟩ := (wfFrom_cons _ _ _ _).mp h
    cases m' with
    | nil => have := hr a; simp [readByte] at this; exact absurd this h2
    | cons e' m' =>
      obtain ⟨a', b'⟩ := e'
      obtain ⟨h1', h2', h3'⟩ := (wfFrom_cons _ _ _ _).mp h'
      rcases lt_trichotomy a a' with hlt | heq | hgt
      · have := hr a; simp [readByte, hlt, Ne.symm (ne_of_lt hlt)] at this; exact absurd this h2
      · subst heq
        have hb := hr a
        simp [readByte] at hb
        subst hb
        congr 1
        refine ih h3 h3' (fun x => ?_)
        have hx := hr x
        by_cases hxa : a = x
        · subst hxa; rw [readByte_of_lt h3 (le_refl _), readByte_of_lt h3' (le_refl _)]
        · by_cases hxl : x < a
          · rw [readByte_of_lt h3 (le_of_lt hxl), readByte_of_lt h3' (le_of_lt hxl)]
          · simpa [readByte, hxa, hxl] using hx
      · have := hr a'; simp [readByte, hgt, Ne.symm (ne_of_lt hgt)] at this; exact absurd this.symm h2'

theorem readByte_ext {m m' : List Host.Cell} (h : Memory.wf m = true) (h' : Memory.wf m' = true)
    (hr : ∀ a, readByte m a = readByte m' a) : m = m' := readByte_ext_from h h' hr

/-! ### Little-endian numbers (R7) -/

@[simp] theorem length_leBytes (n x : Nat) : (leBytes n x).length = n := by
  induction n generalizing x with
  | zero => rfl
  | succ n ih => simp [leBytes, ih]

theorem leNat_leBytes (n x : Nat) : leNat (leBytes n x) = x % 256 ^ n := by
  induction n generalizing x with
  | zero => simp [leBytes, leNat, Nat.mod_one]
  | succ n ih =>
    have h8 : (BitVec.ofNat 8 x).toNat = x % 256 := BitVec.toNat_ofNat ..
    rw [leBytes, leNat, ih, h8, pow_succ', Nat.mod_mul]

end Sys2Proof.Machine
end

