-- ==== Sys2Proof/Laws/PerInstr.lean ====
section
/-! SUPPORT. Laws/PerInstr.lean: one law of every instruction as syntax, constructor by constructor: the first word of its
encoding says how many words it has (R75). -/

namespace Sys2Proof

/-- Formats A to E: the bit that says whether a second word follows (R75, R76). -/
theorem twoWords_w0 (u x : Bool) (major d a b : BitVec 7) (f : BitVec 2) : twoWords (w0 u x major d a b f) = x := by
  simp only [twoWords, w0, BitVec.getLsbD_append, BitVec.getLsbD_ofBool]
  simp

/-- The first word of a list of words says how many they are. -/
def SaysLength (ws : List Word) : Prop := ws.length = if twoWords (ws.headD 0) then 2 else 1

theorem saysLength_encA (u : Bool) (major d a b : BitVec 7) (f : BitVec 2) : SaysLength (encA u major d a b f) := by
  simp [SaysLength, encA, twoWords_w0]
theorem saysLength_encB (u : Bool) (major d a : BitVec 7) (imm : BitVec 9) : SaysLength (encB u major d a imm) := by
  simp [SaysLength, encB, twoWords_w0]
theorem saysLength_encC (u : Bool) (major d : BitVec 7) (imm : BitVec 16) : SaysLength (encC u major d imm) := by
  simp [SaysLength, encC, twoWords_w0]
theorem saysLength_encD (major : BitVec 7) (gd : Guard) (disp : BitVec 19) : SaysLength (encD major gd disp) := by
  have h : twoWords (BitVec.ofBool false ++ BitVec.ofBool false ++ major ++ gd.g ++ BitVec.ofBool gd.n ++ disp) = false := by
    simp only [twoWords, BitVec.getLsbD_append, BitVec.getLsbD_ofBool]
    simp
  simp only [SaysLength, encD, List.length_singleton, List.headD_cons, h, Bool.false_eq_true, if_false]
theorem saysLength_encE (u : Bool) (major d a b : BitVec 7) (f : BitVec 2) (gd : Guard) (c : BitVec 7) (sc : BitVec 5) (lo : BitVec 16) :
    SaysLength (encE u major d a b f gd c sc lo) := by
  simp [SaysLength, encE, twoWords_w0]
theorem saysLength_encMma (major : BitVec 7) (t f : BitVec 2) (gd : Guard) (o : MmaOps) : SaysLength (encMma major t f gd o) :=
  saysLength_encE ..

/-- An instruction's first word says how many words it has (R75). -/
def Laws.Words.Statement (i : Instr) : Prop := i.isInstr = true → SaysLength (encode i)

theorem Laws.Words.nop : Statement .nop := fun _ => saysLength_encA ..
theorem Laws.Words.exit : Statement .exit := fun _ => saysLength_encA ..
theorem Laws.Words.bra (gd : Guard) (disp : BitVec 19) : Statement (.bra gd disp) := fun _ => saysLength_encD ..
theorem Laws.Words.call (disp : BitVec 19) : Statement (.call disp) := fun _ => saysLength_encD ..
theorem Laws.Words.ret : Statement .ret := fun _ => saysLength_encA ..
theorem Laws.Words.jmpi (a : Reg) : Statement (.jmpi a) := fun _ => saysLength_encA ..
theorem Laws.Words.yield : Statement .yield := fun _ => saysLength_encA ..
theorem Laws.Words.trap (code : BitVec 9) : Statement (.trap code) := fun _ => saysLength_encB ..
theorem Laws.Words.bkpt (code : BitVec 9) : Statement (.bkpt code) := fun _ => saysLength_encB ..
theorem Laws.Words.tret : Statement .tret := fun _ => saysLength_encA ..
theorem Laws.Words.iadd (u : Bool) (d a b : Reg) (f : IntF) : Statement (.iadd u d a b f) := fun _ => saysLength_encA ..
theorem Laws.Words.isub (u : Bool) (d a b : Reg) (f : IntF) : Statement (.isub u d a b f) := fun _ => saysLength_encA ..
theorem Laws.Words.imul (u : Bool) (d a b : Reg) (f : IntF) : Statement (.imul u d a b f) := fun _ => saysLength_encA ..
theorem Laws.Words.imulh (d a b : Reg) (uns : Bool) : Statement (.imulh d a b uns) := fun _ => saysLength_encA ..
theorem Laws.Words.imin (u : Bool) (d a b : Reg) (uns : Bool) : Statement (.imin u d a b uns) := fun _ => saysLength_encA ..
theorem Laws.Words.imax (u : Bool) (d a b : Reg) (uns : Bool) : Statement (.imax u d a b uns) := fun _ => saysLength_encA ..
theorem Laws.Words.iabs (d a : Reg) (sat : Bool) : Statement (.iabs d a sat) := fun _ => saysLength_encA ..
theorem Laws.Words.iaddi (u : Bool) (d a : Reg) (imm : BitVec 9) : Statement (.iaddi u d a imm) := fun _ => saysLength_encB ..
theorem Laws.Words.iadd64 (u : Bool) (d a b : Reg) (f : IntF) : Statement (.iadd64 u d a b f) := fun _ => saysLength_encA ..
theorem Laws.Words.isub64 (u : Bool) (d a b : Reg) (f : IntF) : Statement (.isub64 u d a b f) := fun _ => saysLength_encA ..
theorem Laws.Words.iaddc (gd : Guard) (d a b : Reg) (ci co : BitVec 3) : Statement (.iaddc gd d a b ci co) := fun _ => saysLength_encE ..
theorem Laws.Words.imad (gd : Guard) (d a b c : Reg) (f : IntF) (wide : Bool) : Statement (.imad gd d a b c f wide) := fun _ => saysLength_encE ..
theorem Laws.Words.and (u : Bool) (d a b : Reg) : Statement (.and u d a b) := fun _ => saysLength_encA ..
theorem Laws.Words.or (u : Bool) (d a b : Reg) : Statement (.or u d a b) := fun _ => saysLength_encA ..
theorem Laws.Words.xor (u : Bool) (d a b : Reg) : Statement (.xor u d a b) := fun _ => saysLength_encA ..
theorem Laws.Words.logt (u : Bool) (gd : Guard) (d a b c : Reg) (tt : BitVec 8) : Statement (.logt u gd d a b c tt) := fun _ => saysLength_encE ..
theorem Laws.Words.shl (u : Bool) (d a b : Reg) (clamp : Bool) : Statement (.shl u d a b clamp) := fun _ => saysLength_encA ..
theorem Laws.Words.shr (u : Bool) (d a b : Reg) (arith clamp : Bool) : Statement (.shr u d a b arith clamp) := fun _ => saysLength_encA ..
theorem Laws.Words.shi (u : Bool) (d a : Reg) (right arith : Bool) (n : BitVec 5) : Statement (.shi u d a right arith n) := fun _ => saysLength_encB ..
theorem Laws.Words.fshf (gd : Guard) (d a b c : Reg) (right clamp : Bool) : Statement (.fshf gd d a b c right clamp) := fun _ => saysLength_encE ..
theorem Laws.Words.bfe (u : Bool) (gd : Guard) (d a : Reg) (src : BfSrc) (sx : Bool) : Statement (.bfe u gd d a src sx) := fun _ => saysLength_encE ..
theorem Laws.Words.bfi (u : Bool) (gd : Guard) (d a c : Reg) (src : BfSrc) : Statement (.bfi u gd d a c src) := fun _ => saysLength_encE ..
theorem Laws.Words.popc (d a : Reg) : Statement (.popc d a) := fun _ => saysLength_encA ..
theorem Laws.Words.clz (d a : Reg) : Statement (.clz d a) := fun _ => saysLength_encA ..
theorem Laws.Words.brev (d a : Reg) : Statement (.brev d a) := fun _ => saysLength_encA ..
theorem Laws.Words.mov (u : Bool) (d a : Reg) (pair : Bool) : Statement (.mov u d a pair) := fun _ => saysLength_encA ..
theorem Laws.Words.movi (u : Bool) (d : Reg) (imm : BitVec 16) : Statement (.movi u d imm) := fun _ => saysLength_encC ..
theorem Laws.Words.movh (u : Bool) (d : Reg) (imm : BitVec 16) : Statement (.movh u d imm) := fun _ => saysLength_encC ..
theorem Laws.Words.sel (u : Bool) (gd : Guard) (d a b : Reg) (pair : Bool) (s : BitVec 3) (neg : Bool) : Statement (.sel u gd d a b pair s neg) := fun _ => saysLength_encE ..
theorem Laws.Words.srd (u : Bool) (d : Reg) (id : BitVec 9) : Statement (.srd u d id) := fun _ => saysLength_encB ..
theorem Laws.Words.swr (u : Bool) (a : Reg) (id : BitVec 9) : Statement (.swr u a id) := fun _ => saysLength_encB ..
theorem Laws.Words.icmp (u : Bool) (gd : Guard) (d : BitVec 3) (a b : Reg) (cond : Cond) (uns w64 : Bool) (pc : BitVec 3) (op : Comb) : Statement (.icmp u gd d a b cond uns w64 pc op) := fun _ => saysLength_encE ..
theorem Laws.Words.fcmp (gd : Guard) (d : BitVec 3) (a b : Reg) (cond : FCond) (pc : BitVec 3) (op : Comb) (f64 : Bool) : Statement (.fcmp gd d a b cond pc op f64) := fun _ => saysLength_encE ..
theorem Laws.Words.plgt (gd : Guard) (d a b c : BitVec 3) (tt : BitVec 8) : Statement (.plgt gd d a b c tt) := fun _ => saysLength_encE ..
theorem Laws.Words.ptov (d : Reg) (a : BitVec 3) (mask : Bool) : Statement (.ptov d a mask) := fun _ => saysLength_encA ..
theorem Laws.Words.vtop (d : BitVec 3) (a : Reg) (mask : Bool) : Statement (.vtop d a mask) := fun _ => saysLength_encA ..
theorem Laws.Words.fadd (d a b : Reg) (r : Rm) : Statement (.fadd d a b r) := fun _ => saysLength_encA ..
theorem Laws.Words.fmul (d a b : Reg) (r : Rm) : Statement (.fmul d a b r) := fun _ => saysLength_encA ..
theorem Laws.Words.ffma (gd : Guard) (d a b c : Reg) (r : Rm) : Statement (.ffma gd d a b c r) := fun _ => saysLength_encE ..
theorem Laws.Words.fmin (d a b : Reg) : Statement (.fmin d a b) := fun _ => saysLength_encA ..
theorem Laws.Words.fmax (d a b : Reg) : Statement (.fmax d a b) := fun _ => saysLength_encA ..
theorem Laws.Words.frnd (d a : Reg) (r : Rm) : Statement (.frnd d a r) := fun _ => saysLength_encA ..
theorem Laws.Words.fdiv (gd : Guard) (d a b : Reg) (r : Rm) : Statement (.fdiv gd d a b r) := fun _ => saysLength_encE ..
theorem Laws.Words.frcp (d a : Reg) : Statement (.frcp d a) := fun _ => saysLength_encA ..
theorem Laws.Words.frsq (d a : Reg) : Statement (.frsq d a) := fun _ => saysLength_encA ..
theorem Laws.Words.fsqt (d a : Reg) (r : Rm) : Statement (.fsqt d a r) := fun _ => saysLength_encA ..
theorem Laws.Words.fex2 (d a : Reg) : Statement (.fex2 d a) := fun _ => saysLength_encA ..
theorem Laws.Words.flg2 (d a : Reg) : Statement (.flg2 d a) := fun _ => saysLength_encA ..
theorem Laws.Words.fsin (d a : Reg) : Statement (.fsin d a) := fun _ => saysLength_encA ..
theorem Laws.Words.fcos (d a : Reg) : Statement (.fcos d a) := fun _ => saysLength_encA ..
theorem Laws.Words.ftnh (d a : Reg) : Statement (.ftnh d a) := fun _ => saysLength_encA ..
theorem Laws.Words.hpadd (d a b : Reg) (r : Rm) : Statement (.hpadd d a b r) := fun _ => saysLength_encA ..
theorem Laws.Words.hpmul (d a b : Reg) (r : Rm) : Statement (.hpmul d a b r) := fun _ => saysLength_encA ..
theorem Laws.Words.hpfma (gd : Guard) (d a b c : Reg) (r : Rm) (bf : Bool) : Statement (.hpfma gd d a b c r bf) := fun _ => saysLength_encE ..
theorem Laws.Words.hpmnx (d a b : Reg) (max bf : Bool) : Statement (.hpmnx d a b max bf) := fun _ => saysLength_encA ..
theorem Laws.Words.dadd (d a b : Reg) (r : Rm) : Statement (.dadd d a b r) := fun _ => saysLength_encA ..
theorem Laws.Words.dmul (d a b : Reg) (r : Rm) : Statement (.dmul d a b r) := fun _ => saysLength_encA ..
theorem Laws.Words.dfma (gd : Guard) (d a b c : Reg) (r : Rm) : Statement (.dfma gd d a b c r) := fun _ => saysLength_encE ..
theorem Laws.Words.dmnx (d a b : Reg) (max : Bool) : Statement (.dmnx d a b max) := fun _ => saysLength_encA ..
theorem Laws.Words.cvt (gd : Guard) (d a : Reg) (dt st : Ty) (r : Rm) (nosat : Bool) : Statement (.cvt gd d a dt st r nosat) := fun _ => saysLength_encE ..
theorem Laws.Words.pack (gd : Guard) (d a b c : Reg) (dt st : Ty) (r : Rm) (nosat : Bool) (j : BitVec 2) : Statement (.pack gd d a b c dt st r nosat j) := fun _ => saysLength_encE ..
theorem Laws.Words.unpk (gd : Guard) (d a : Reg) (k : BitVec 3) (st dt : Ty) : Statement (.unpk gd d a k st dt) := fun _ => saysLength_encE ..
theorem Laws.Words.scex (gd : Guard) (d a : Reg) (et : Ty) : Statement (.scex gd d a et) := fun _ => saysLength_encE ..
theorem Laws.Words.idot (gd : Guard) (d a b c : Reg) (i4 au bu sat : Bool) : Statement (.idot gd d a b c i4 au bu sat) := fun _ => saysLength_encE ..
theorem Laws.Words.fdot (gd : Guard) (d a b c s : Reg) (fmt : DotFmt) (ja jb : BitVec 2) (r : Rm) : Statement (.fdot gd d a b c s fmt ja jb r) := fun _ => saysLength_encE ..
theorem Laws.Words.sgat (gd : Guard) (d a : Reg) (mode : SgMode) (src : SgSrc) (seg : BitVec 3) : Statement (.sgat gd d a mode src seg) := fun _ => saysLength_encE ..
theorem Laws.Words.vote (gd : Guard) (dst : VoteDst) (a : BitVec 3) : Statement (.vote gd dst a) := fun _ => saysLength_encE ..
theorem Laws.Words.lred (gd : Guard) (d a : Reg) (op : LaneOp) : Statement (.lred gd d a op) := fun _ => saysLength_encE ..
theorem Laws.Words.lpfx (gd : Guard) (d a : Reg) (op : LaneOp) (incl : Bool) : Statement (.lpfx gd d a op incl) := fun _ => saysLength_encE ..
theorem Laws.Words.lmch (d a : Reg) (w64 : Bool) : Statement (.lmch d a w64) := fun _ => saysLength_encA ..
theorem Laws.Words.ld (u : Bool) (gd : Guard) (d a : Reg) (size : Size) (sx acq : Bool) (sc : BitVec 5) (off : BitVec 10) : Statement (.ld u gd d a size sx acq sc off) := fun _ => saysLength_encE ..
theorem Laws.Words.st (gd : Guard) (a b : Reg) (size : Size) (rel : Bool) (sc : BitVec 5) (off : BitVec 10) : Statement (.st gd a b size rel sc off) := fun _ => saysLength_encE ..
theorem Laws.Words.atom (gd : Guard) (d a b c : Reg) (op : LaneOp) (w64 : Bool) (ord : Order) (sc : BitVec 5) (off : BitVec 9) : Statement (.atom gd d a b c op w64 ord sc off) := fun _ => saysLength_encE ..
theorem Laws.Words.red (gd : Guard) (a b : Reg) (op : LaneOp) (w64 : Bool) (ord : Order) (sc : BitVec 5) (off : BitVec 9) : Statement (.red gd a b op w64 ord sc off) := fun _ => saysLength_encE ..
theorem Laws.Words.lds (gd : Guard) (d a : Reg) (size : Size) (sx fe clr : Bool) (off : BitVec 10) : Statement (.lds gd d a size sx fe clr off) := fun _ => saysLength_encE ..
theorem Laws.Words.ldsx (gd : Guard) (d a c : Reg) (size : Size) (sx fe clr : Bool) (off : BitVec 10) : Statement (.ldsx gd d a c size sx fe clr off) := fun _ => saysLength_encE ..
theorem Laws.Words.sts (gd : Guard) (a b : Reg) (size : Size) (set : Bool) (off : BitVec 10) : Statement (.sts gd a b size set off) := fun _ => saysLength_encE ..
theorem Laws.Words.stsx (gd : Guard) (a b c : Reg) (size : Size) (set : Bool) (off : BitVec 10) : Statement (.stsx gd a b c size set off) := fun _ => saysLength_encE ..
theorem Laws.Words.fence (u : Bool) (gd : Guard) (ord : Order) (sc : BitVec 5) : Statement (.fence u gd ord sc) := fun _ => saysLength_encE ..
theorem Laws.Words.pft (gd : Guard) (a : Reg) (l2 : Bool) (off : BitVec 10) : Statement (.pft gd a l2 off) := fun _ => saysLength_encE ..
theorem Laws.Words.clin (gd : Guard) (a b : Reg) (op : ClinOp) (all : Bool) (sc : BitVec 5) : Statement (.clin gd a b op all sc) := fun _ => saysLength_encE ..
theorem Laws.Words.feop (gd : Guard) (kind : FeKind) (a b : Reg) : Statement (.feop gd kind a b) := fun _ => saysLength_encE ..
theorem Laws.Words.deps (gd : Guard) (a b c : Reg) (size : Size) : Statement (.deps gd a b c size) := fun _ => saysLength_encE ..
theorem Laws.Words.depa (gd : Guard) (a b c : Reg) (kind : DepaKind) : Statement (.depa gd a b c kind) := fun _ => saysLength_encE ..
theorem Laws.Words.depr (gd : Guard) (a b c : Reg) : Statement (.depr gd a b c) := fun _ => saysLength_encE ..
theorem Laws.Words.mmaF4 (gd : Guard) (t : BitVec 2) (o : MmaOps) : Statement (.mmaF4 gd t o) := fun _ => saysLength_encMma ..
theorem Laws.Words.mmaF8 (gd : Guard) (t : BitVec 2) (ae5m2 be5m2 : Bool) (o : MmaOps) : Statement (.mmaF8 gd t ae5m2 be5m2 o) := fun _ => saysLength_encMma ..
theorem Laws.Words.mmaI8 (gd : Guard) (t : BitVec 2) (au bu : Bool) (o : MmaOps) : Statement (.mmaI8 gd t au bu o) := fun _ => saysLength_encMma ..
theorem Laws.Words.mmaI4 (gd : Guard) (t : BitVec 2) (au bu : Bool) (o : MmaOps) : Statement (.mmaI4 gd t au bu o) := fun _ => saysLength_encMma ..
theorem Laws.Words.mmaBf (gd : Guard) (t : BitVec 2) (o : MmaOps) : Statement (.mmaBf gd t o) := fun _ => saysLength_encMma ..
theorem Laws.Words.mmaH (gd : Guard) (t : BitVec 2) (o : MmaOps) : Statement (.mmaH gd t o) := fun _ => saysLength_encMma ..
theorem Laws.Words.ksgn (gd : Guard) (k : BitVec 4) : Statement (.ksgn gd k) := fun _ => saysLength_encE ..
theorem Laws.Words.tld (gd : Guard) (a b c : Reg) (q : BitVec 4) (arv : Bool) : Statement (.tld gd a b c q arv) := fun _ => saysLength_encE ..
theorem Laws.Words.tst (gd : Guard) (d a b c : Reg) (q : BitVec 4) (arv flag : Bool) : Statement (.tst gd d a b c q arv flag) := fun _ => saysLength_encE ..
theorem Laws.Words.bxi (gd : Guard) (a : Reg) : Statement (.bxi gd a) := fun _ => saysLength_encE ..
theorem Laws.Words.bxw (gd : Guard) (a b : Reg) : Statement (.bxw gd a b) := fun _ => saysLength_encE ..
theorem Laws.Words.qcfg (q : BitVec 4) (n : BitVec 9) : Statement (.qcfg q n) := fun _ => saysLength_encB ..
theorem Laws.Words.qarv (gd : Guard) (a : Reg) (q : BitVec 4) (cons : Bool) : Statement (.qarv gd a q cons) := fun _ => saysLength_encE ..
theorem Laws.Words.qwt (gd : Guard) (a : Reg) (q : BitVec 4) (cons e : Bool) : Statement (.qwt gd a q cons e) := fun _ => saysLength_encE ..
theorem Laws.Words.barSync (gd : Guard) (d a : Reg) (n : BitVec 4) (lvl : BarLvl) : Statement (.barSync gd d a n lvl) := fun _ => saysLength_encE ..
theorem Laws.Words.barArv (gd : Guard) (d a : Reg) (n : BitVec 4) (lvl : BarLvl) : Statement (.barArv gd d a n lvl) := fun _ => saysLength_encE ..
theorem Laws.Words.barWait (gd : Guard) (b : Reg) (n : BitVec 4) (lvl : BarLvl) : Statement (.barWait gd b n lvl) := fun _ => saysLength_encE ..
theorem Laws.Words.kcfg (k : BitVec 4) (a : Reg) : Statement (.kcfg k a) := fun _ => saysLength_encA ..
theorem Laws.Words.acal (mask : BitVec 4) : Statement (.acal mask) := fun _ => saysLength_encB ..
theorem Laws.Words.acfr (mask : BitVec 4) : Statement (.acfr mask) := fun _ => saysLength_encB ..
theorem Laws.Words.aczr (t : BitVec 2) : Statement (.aczr t) := fun _ => saysLength_encA ..
theorem Laws.Words.acld (gd : Guard) (t : BitVec 2) (a : Reg) (st : Ty) : Statement (.acld gd t a st) := fun _ => saysLength_encE ..
theorem Laws.Words.acdr (gd : Guard) (t : BitVec 2) (a b : Reg) (ot : Ty) (r : Rm) (nosat : Bool) : Statement (.acdr gd t a b ot r nosat) := fun _ => saysLength_encE ..
theorem Laws.Words.mwt (t : BitVec 2) : Statement (.mwt t) := fun _ => saysLength_encA ..
theorem Laws.Words.ckpt : Statement .ckpt := fun _ => saysLength_encA ..
theorem Laws.Words.chnr (d a : Reg) (kind : ChnrKind) : Statement (.chnr d a kind) := fun _ => saysLength_encA ..
theorem Laws.Words.launch (conc : Bool) (tag : Word) (desc : DWord) (nx : Word) (ny nz : BitVec 16) (argp : DWord) (argn : BitVec 16) (label : Word) (report : DWord) : Statement (.launch conc tag desc nx ny nz argp argn label report) := fun h => absurd h Bool.false_ne_true
theorem Laws.Words.node (conc : Bool) (tag label : Word) (report : DWord) : Statement (.node conc tag label report) := fun h => absurd h Bool.false_ne_true
theorem Laws.Words.depend (tile : Bool) (tag producer consumer : Word) (ax ay wx wy : BitVec 16) (bx by_ : Word) : Statement (.depend tile tag producer consumer ax ay wx wy bx by_) := fun h => absurd h Bool.false_ne_true
theorem Laws.Words.graphBegin (conc : Bool) (tag : Word) : Statement (.graphBegin conc tag) := fun h => absurd h Bool.false_ne_true
theorem Laws.Words.graphEnd (tag : Word) : Statement (.graphEnd tag) := fun h => absurd h Bool.false_ne_true
theorem Laws.Words.phase (job : Bool) (tag : Word) : Statement (.phase job tag) := fun h => absurd h Bool.false_ne_true
theorem Laws.Words.wait (nodrain : Bool) (tag : Word) (kind cond counter queue : Byte) (addr value : DWord) : Statement (.wait nodrain tag kind cond counter queue addr value) := fun h => absurd h Bool.false_ne_true
theorem Laws.Words.signal (nodrain msix : Bool) (tag : Word) (op : Byte) (vector : BitVec 16) (addr value : DWord) : Statement (.signal nodrain msix tag op vector addr value) := fun h => absurd h Bool.false_ne_true
theorem Laws.Words.loop (nodrain mem : Bool) (tag count : Word) (addr : DWord) : Statement (.loop nodrain mem tag count addr) := fun h => absurd h Bool.false_ne_true
theorem Laws.Words.loopEnd (tag : Word) : Statement (.loopEnd tag) := fun h => absurd h Bool.false_ne_true
theorem Laws.Words.ifPkt (nodrain : Bool) (tag : Word) (cond width : Byte) (addr value : DWord) : Statement (.ifPkt nodrain tag cond width addr value) := fun h => absurd h Bool.false_ne_true
theorem Laws.Words.elsePkt (tag : Word) : Statement (.elsePkt tag) := fun h => absurd h Bool.false_ne_true
theorem Laws.Words.endIf (tag : Word) : Statement (.endIf tag) := fun h => absurd h Bool.false_ne_true
theorem Laws.Words.launchIndirect (conc nodrain : Bool) (tag : Word) (desc grid argp : DWord) (argn : BitVec 16) (label : Word) (report : DWord) : Statement (.launchIndirect conc nodrain tag desc grid argp argn label report) := fun h => absurd h Bool.false_ne_true
theorem Laws.Words.copy (conc : Bool) (tag : Word) (ccb : DWord) (die : Byte) (label : Word) (report : DWord) : Statement (.copy conc tag ccb die label report) := fun h => absurd h Bool.false_ne_true
theorem Laws.Words.cancel (tag : Word) (level queue : Byte) (label : Word) : Statement (.cancel tag level queue label) := fun h => absurd h Bool.false_ne_true
theorem Laws.Words.killContext (preserve : Bool) (tag : Word) (asid : BitVec 16) (report : DWord) : Statement (.killContext preserve tag asid report) := fun h => absurd h Bool.false_ne_true
theorem Laws.Words.reclaimFence (tag : Word) (asid : BitVec 16) : Statement (.reclaimFence tag asid) := fun h => absurd h Bool.false_ne_true
theorem Laws.Words.scopeTable (nodrain : Bool) (tag : Word) (id : Byte) (pkgs : BitVec 16) (cores : BitVec 256) : Statement (.scopeTable nodrain tag id pkgs cores) := fun h => absurd h Bool.false_ne_true
theorem Laws.Words.channelAllocate (tag : Word) (journaled : Bool) (peer : Byte) (ch : BitVec 16) (result journal : DWord) (jsize : Byte) : Statement (.channelAllocate tag journaled peer ch result journal jsize) := fun h => absurd h Bool.false_ne_true
theorem Laws.Words.channelFree (tag : Word) (mode peer : Byte) (ch : BitVec 16) (result journal : DWord) (jsize : Byte) : Statement (.channelFree tag mode peer ch result journal jsize) := fun h => absurd h Bool.false_ne_true
theorem Laws.Words.timeslice (tag weight : Word) (d t : Byte) : Statement (.timeslice tag weight d t) := fun h => absurd h Bool.false_ne_true
theorem Laws.Words.priority (tag : Word) (prio : Byte) : Statement (.priority tag prio) := fun h => absurd h Bool.false_ne_true
theorem Laws.Words.nopPacket (units : BitVec 16) (tag : Word) : Statement (.nopPacket units tag) := fun h => absurd h Bool.false_ne_true
theorem Laws.Words.waitMet (pkg q : Nat) : Statement (.waitMet pkg q) := fun h => absurd h Bool.false_ne_true
theorem Laws.Words.reclaimFenceMet (pkg q : Nat) : Statement (.reclaimFenceMet pkg q) := fun h => absurd h Bool.false_ne_true
theorem Laws.Words.admissionResumes (pkg q : Nat) : Statement (.admissionResumes pkg q) := fun h => absurd h Bool.false_ne_true
theorem Laws.Words.packetDrainMet (pkg q : Nat) : Statement (.packetDrainMet pkg q) := fun h => absurd h Bool.false_ne_true
theorem Laws.Words.channelFreeComplete (pkg q : Nat) : Statement (.channelFreeComplete pkg q) := fun h => absurd h Bool.false_ne_true
theorem Laws.Words.qctlEnable (pkg fn q : Nat) (v : Word) : Statement (.qctlEnable pkg fn q v) := fun h => absurd h Bool.false_ne_true
theorem Laws.Words.qctlSkip (pkg fn q : Nat) (v : Word) : Statement (.qctlSkip pkg fn q v) := fun h => absurd h Bool.false_ne_true
theorem Laws.Words.qctlDisable (pkg fn q : Nat) (v : Word) : Statement (.qctlDisable pkg fn q v) := fun h => absurd h Bool.false_ne_true
theorem Laws.Words.qbaselWrite (pkg fn q : Nat) (v : Word) : Statement (.qbaselWrite pkg fn q v) := fun h => absurd h Bool.false_ne_true
theorem Laws.Words.qwpWrite (pkg fn q : Nat) (v : Word) : Statement (.qwpWrite pkg fn q v) := fun h => absurd h Bool.false_ne_true
theorem Laws.Words.contextCreate (pkg fn : Nat) (v : Word) : Statement (.contextCreate pkg fn v) := fun h => absurd h Bool.false_ne_true
theorem Laws.Words.contextDestroy (pkg fn : Nat) (v : Word) : Statement (.contextDestroy pkg fn v) := fun h => absurd h Bool.false_ne_true
theorem Laws.Words.rewriteTrapWords (pkg fn : Nat) (v : Word) : Statement (.rewriteTrapWords pkg fn v) := fun h => absurd h Bool.false_ne_true
theorem Laws.Words.trapWordsApplied (pkg fn : Nat) : Statement (.trapWordsApplied pkg fn) := fun h => absurd h Bool.false_ne_true
theorem Laws.Words.ctxcmdReserved (pkg fn : Nat) (v : Word) : Statement (.ctxcmdReserved pkg fn v) := fun h => absurd h Bool.false_ne_true
theorem Laws.Words.tlbInvalidate (pkg fn : Nat) (v : Word) : Statement (.tlbInvalidate pkg fn v) := fun h => absurd h Bool.false_ne_true
theorem Laws.Words.tlbInvalidateComplete (pkg fn : Nat) : Statement (.tlbInvalidateComplete pkg fn) := fun h => absurd h Bool.false_ne_true
theorem Laws.Words.faultRecordPop (pkg fn : Nat) : Statement (.faultRecordPop pkg fn) := fun h => absurd h Bool.false_ne_true
theorem Laws.Words.faultResolved (pkg fn : Nat) (v : Word) : Statement (.faultResolved pkg fn v) := fun h => absurd h Bool.false_ne_true
theorem Laws.Words.faultUnresolvable (pkg fn : Nat) (v : Word) : Statement (.faultUnresolvable pkg fn v) := fun h => absurd h Bool.false_ne_true
theorem Laws.Words.retiredFramePop (pkg : Nat) : Statement (.retiredFramePop pkg) := fun h => absurd h Bool.false_ne_true
theorem Laws.Words.errorRecordPop (pkg fn : Nat) : Statement (.errorRecordPop pkg fn) := fun h => absurd h Bool.false_ne_true
theorem Laws.Words.debugHalt (pkg fn : Nat) (v : Word) : Statement (.debugHalt pkg fn v) := fun h => absurd h Bool.false_ne_true
theorem Laws.Words.debugResume (pkg fn : Nat) (v : Word) : Statement (.debugResume pkg fn v) := fun h => absurd h Bool.false_ne_true
theorem Laws.Words.stepThread (pkg fn : Nat) (v : Word) : Statement (.stepThread pkg fn v) := fun h => absurd h Bool.false_ne_true
theorem Laws.Words.stepGroup (pkg fn : Nat) (v : Word) : Statement (.stepGroup pkg fn v) := fun h => absurd h Bool.false_ne_true
theorem Laws.Words.cancelStep (pkg fn : Nat) (v : Word) : Statement (.cancelStep pkg fn v) := fun h => absurd h Bool.false_ne_true
theorem Laws.Words.dbgcmdReserved (pkg fn : Nat) (v : Word) : Statement (.dbgcmdReserved pkg fn v) := fun h => absurd h Bool.false_ne_true
theorem Laws.Words.stopRecordPop (pkg fn : Nat) : Statement (.stopRecordPop pkg fn) := fun h => absurd h Bool.false_ne_true
theorem Laws.Words.debugDetach (pkg fn : Nat) (v : Word) : Statement (.debugDetach pkg fn v) := fun h => absurd h Bool.false_ne_true
theorem Laws.Words.haltedStateRead (pkg fn : Nat) : Statement (.haltedStateRead pkg fn) := fun h => absurd h Bool.false_ne_true
theorem Laws.Words.haltedStateWrite (pkg fn : Nat) (v : Word) : Statement (.haltedStateWrite pkg fn v) := fun h => absurd h Bool.false_ne_true
theorem Laws.Words.trselWrite (pkg ctrl : Nat) (v : Word) : Statement (.trselWrite pkg ctrl v) := fun h => absurd h Bool.false_ne_true
theorem Laws.Words.registerWrite (pkg fn off bytes : Nat) (v : Word) : Statement (.registerWrite pkg fn off bytes v) := fun h => absurd h Bool.false_ne_true
theorem Laws.Words.powerOn (pkg : Nat) (o : BootOutcome) : Statement (.powerOn pkg o) := fun h => absurd h Bool.false_ne_true
theorem Laws.Words.thermalTrip (pkg die : Nat) : Statement (.thermalTrip pkg die) := fun h => absurd h Bool.false_ne_true
theorem Laws.Words.throttleStep (pkg : Nat) (down power thermal : Bool) : Statement (.throttleStep pkg down power thermal) := fun h => absurd h Bool.false_ne_true
theorem Laws.Words.d3hotEntry (pkg : Nat) : Statement (.d3hotEntry pkg) := fun h => absurd h Bool.false_ne_true
theorem Laws.Words.d0Return (pkg : Nat) : Statement (.d0Return pkg) := fun h => absurd h Bool.false_ne_true
theorem Laws.Words.getMeasurements (pkg idx : Nat) : Statement (.getMeasurements pkg idx) := fun h => absurd h Bool.false_ne_true
theorem Laws.Words.flit (pkg port : Nat) (crcBad authBad : Bool) : Statement (.flit pkg port crcBad authBad) := fun h => absurd h Bool.false_ne_true
theorem Laws.Words.replayRequest (pkg port : Nat) : Statement (.replayRequest pkg port) := fun h => absurd h Bool.false_ne_true
theorem Laws.Words.flitDrop (pkg port : Nat) : Statement (.flitDrop pkg port) := fun h => absurd h Bool.false_ne_true
theorem Laws.Words.linkRetrain (pkg port : Nat) (ok : Bool) : Statement (.linkRetrain pkg port ok) := fun h => absurd h Bool.false_ne_true
theorem Laws.Words.linkDown (pkg port : Nat) : Statement (.linkDown pkg port) := fun h => absurd h Bool.false_ne_true
theorem Laws.Words.keyEvent (pkg port : Nat) : Statement (.keyEvent pkg port) := fun h => absurd h Bool.false_ne_true
theorem Laws.Words.keyStop (pkg port : Nat) : Statement (.keyStop pkg port) := fun h => absurd h Bool.false_ne_true
theorem Laws.Words.queueDiscard (w : QueueSpot) : Statement (.queueDiscard w) := fun h => absurd h Bool.false_ne_true
theorem Laws.Words.gets : Statement .gets := fun h => absurd h Bool.false_ne_true
theorem Laws.Words.getx : Statement .getx := fun h => absurd h Bool.false_ne_true
theorem Laws.Words.tok : Statement .tok := fun h => absurd h Bool.false_ne_true
theorem Laws.Words.absorbBufferDrain (pkg ctrl : Nat) : Statement (.absorbBufferDrain pkg ctrl) := fun h => absurd h Bool.false_ne_true
theorem Laws.Words.eviction (pkg die : Nat) (k : SectorKey) : Statement (.eviction pkg die k) := fun h => absurd h Bool.false_ne_true
theorem Laws.Words.preq : Statement .preq := fun h => absurd h Bool.false_ne_true
theorem Laws.Words.pact : Statement .pact := fun h => absurd h Bool.false_ne_true
theorem Laws.Words.pdeact : Statement .pdeact := fun h => absurd h Bool.false_ne_true
theorem Laws.Words.getsTimeout (pkg die : Nat) (k : SectorKey) : Statement (.getsTimeout pkg die k) := fun h => absurd h Bool.false_ne_true
theorem Laws.Words.broadcastTimeout (pkg die : Nat) (k : SectorKey) : Statement (.broadcastTimeout pkg die k) := fun h => absurd h Bool.false_ne_true
theorem Laws.Words.preqRepeat (pkg die : Nat) (k : SectorKey) : Statement (.preqRepeat pkg die k) := fun h => absurd h Bool.false_ne_true
theorem Laws.Words.pactRepeat (pkg ctrl : Nat) (k : SectorKey) : Statement (.pactRepeat pkg ctrl k) := fun h => absurd h Bool.false_ne_true
theorem Laws.Words.leaseExpiry (pkg die : Nat) (k : SectorKey) : Statement (.leaseExpiry pkg die k) := fun h => absurd h Bool.false_ne_true
theorem Laws.Words.activationTimeout (pkg ctrl : Nat) (k : SectorKey) : Statement (.activationTimeout pkg ctrl k) := fun h => absurd h Bool.false_ne_true
theorem Laws.Words.recreationStart (pkg ctrl : Nat) (k : SectorKey) : Statement (.recreationStart pkg ctrl k) := fun h => absurd h Bool.false_ne_true
theorem Laws.Words.recall : Statement .recall := fun h => absurd h Bool.false_ne_true
theorem Laws.Words.rrep : Statement .rrep := fun h => absurd h Bool.false_ne_true
theorem Laws.Words.recallRepeat (pkg ctrl : Nat) (k : SectorKey) : Statement (.recallRepeat pkg ctrl k) := fun h => absurd h Bool.false_ne_true
theorem Laws.Words.recreationComplete (pkg ctrl : Nat) (k : SectorKey) : Statement (.recreationComplete pkg ctrl k) := fun h => absurd h Bool.false_ne_true
theorem Laws.Words.recallTableExpiry (pkg die : Nat) (k : SectorKey) : Statement (.recallTableExpiry pkg die k) := fun h => absurd h Bool.false_ne_true
theorem Laws.Words.wipeRecreationTimeout (pkg ctrl : Nat) (k : SectorKey) : Statement (.wipeRecreationTimeout pkg ctrl k) := fun h => absurd h Bool.false_ne_true
theorem Laws.Words.scrubPass (pkg ctrl : Nat) : Statement (.scrubPass pkg ctrl) := fun h => absurd h Bool.false_ne_true
theorem Laws.Words.farAtomic : Statement .farAtomic := fun h => absurd h Bool.false_ne_true
theorem Laws.Words.uncachedWrite : Statement .uncachedWrite := fun h => absurd h Bool.false_ne_true
theorem Laws.Words.uncachedReply : Statement .uncachedReply := fun h => absurd h Bool.false_ne_true
theorem Laws.Words.uncachedResend (pkg core txn : Nat) : Statement (.uncachedResend pkg core txn) := fun h => absurd h Bool.false_ne_true
theorem Laws.Words.replyCacheExpiry (pkg ctrl idx : Nat) : Statement (.replyCacheExpiry pkg ctrl idx) := fun h => absurd h Bool.false_ne_true
theorem Laws.Words.storeResend (pkg core : Nat) (k : SectorKey) : Statement (.storeResend pkg core k) := fun h => absurd h Bool.false_ne_true
theorem Laws.Words.deposit : Statement .deposit := fun h => absurd h Bool.false_ne_true
theorem Laws.Words.release : Statement .release := fun h => absurd h Bool.false_ne_true
theorem Laws.Words.rack : Statement .rack := fun h => absurd h Bool.false_ne_true
theorem Laws.Words.short : Statement .short := fun h => absurd h Bool.false_ne_true
theorem Laws.Words.shortfallNotice (pkg src ch : Nat) : Statement (.shortfallNotice pkg src ch) := fun h => absurd h Bool.false_ne_true
theorem Laws.Words.releaseResend (pkg ch : Nat) : Statement (.releaseResend pkg ch) := fun h => absurd h Bool.false_ne_true
theorem Laws.Words.halt : Statement .halt := fun h => absurd h Bool.false_ne_true
theorem Laws.Words.resume : Statement .resume := fun h => absurd h Bool.false_ne_true
theorem Laws.Words.haltRepeat (pkg : Nat) : Statement (.haltRepeat pkg) := fun h => absurd h Bool.false_ne_true
theorem Laws.Words.haltAbsence (pkg peer : Nat) : Statement (.haltAbsence pkg peer) := fun h => absurd h Bool.false_ne_true
theorem Laws.Words.incadv : Statement .incadv := fun h => absurd h Bool.false_ne_true
theorem Laws.Words.incack : Statement .incack := fun h => absurd h Bool.false_ne_true
theorem Laws.Words.incadvRepeat (pkg asid : Nat) : Statement (.incadvRepeat pkg asid) := fun h => absurd h Bool.false_ne_true
theorem Laws.Words.killComplete (pkg asid : Nat) : Statement (.killComplete pkg asid) := fun h => absurd h Bool.false_ne_true
theorem Laws.Words.timeSliceExpiry (pkg : Nat) : Statement (.timeSliceExpiry pkg) := fun h => absurd h Bool.false_ne_true
theorem Laws.Words.drainLimit (pkg unit : Nat) : Statement (.drainLimit pkg unit) := fun h => absurd h Bool.false_ne_true
theorem Laws.Words.saveComplete (pkg unit : Nat) : Statement (.saveComplete pkg unit) := fun h => absurd h Bool.false_ne_true
theorem Laws.Words.dispatch (pkg die : Nat) : Statement (.dispatch pkg die) := fun h => absurd h Bool.false_ne_true
theorem Laws.Words.blockStart (pkg core : Nat) : Statement (.blockStart pkg core) := fun h => absurd h Bool.false_ne_true
theorem Laws.Words.stealRequest (pkg core : Nat) : Statement (.stealRequest pkg core) := fun h => absurd h Bool.false_ne_true
theorem Laws.Words.stealRetry (pkg core : Nat) : Statement (.stealRetry pkg core) := fun h => absurd h Bool.false_ne_true
theorem Laws.Words.park (pkg cluster : Nat) : Statement (.park pkg cluster) := fun h => absurd h Bool.false_ne_true
theorem Laws.Words.fairnessSlice (pkg group : Nat) : Statement (.fairnessSlice pkg group) := fun h => absurd h Bool.false_ne_true
theorem Laws.Words.blockEnd (pkg block : Nat) : Statement (.blockEnd pkg block) := fun h => absurd h Bool.false_ne_true
theorem Laws.Words.commitComplete (pkg cluster : Nat) : Statement (.commitComplete pkg cluster) := fun h => absurd h Bool.false_ne_true
theorem Laws.Words.mmaComplete (pkg core : Nat) (residueBad : Bool) : Statement (.mmaComplete pkg core residueBad) := fun h => absurd h Bool.false_ne_true
theorem Laws.Words.aczrComplete (pkg core : Nat) : Statement (.aczrComplete pkg core) := fun h => absurd h Bool.false_ne_true
theorem Laws.Words.acldComplete (pkg core : Nat) : Statement (.acldComplete pkg core) := fun h => absurd h Bool.false_ne_true
theorem Laws.Words.acdrComplete (pkg core : Nat) : Statement (.acdrComplete pkg core) := fun h => absurd h Bool.false_ne_true
theorem Laws.Words.tldGranuleLands (pkg block idx : Nat) : Statement (.tldGranuleLands pkg block idx) := fun h => absurd h Bool.false_ne_true
theorem Laws.Words.tstComplete (pkg block : Nat) : Statement (.tstComplete pkg block) := fun h => absurd h Bool.false_ne_true
theorem Laws.Words.bxiComplete (pkg bte idx : Nat) : Statement (.bxiComplete pkg bte idx) := fun h => absurd h Bool.false_ne_true
theorem Laws.Words.hangRecord (pkg group : Nat) : Statement (.hangRecord pkg group) := fun h => absurd h Bool.false_ne_true
theorem Laws.Words.stallSample (pkg quad : Nat) : Statement (.stallSample pkg quad) := fun h => absurd h Bool.false_ne_true
theorem Laws.Words.illegalInstruction (w0 : Word) (w1 : Option Word) : Statement (.illegalInstruction w0 w1) := fun h => absurd h Bool.false_ne_true
theorem Laws.Words.fetchFault : Statement .fetchFault := fun h => absurd h Bool.false_ne_true
theorem Laws.Words.uncachedRead : Statement .uncachedRead := fun h => absurd h Bool.false_ne_true
theorem Laws.Words.combiningBufferWrite (pkg core : Nat) (k : SectorKey) : Statement (.combiningBufferWrite pkg core k) := fun h => absurd h Bool.false_ne_true
theorem Laws.Words.clinComplete (pkg group : Nat) : Statement (.clinComplete pkg group) := fun h => absurd h Bool.false_ne_true
theorem Laws.Words.flushCompleteReport : Statement .flushCompleteReport := fun h => absurd h Bool.false_ne_true

end Sys2Proof
end

