-- ==== Sys2Proof/Tests/Slice0.lean ====
section
/-! SUPPORT. Tests/Slice0.lean: ill-formed terms that the checks refuse, words of the spec decoded, the spec's worked examples
run, and for each obligation's hypotheses a concrete state and operands that meet them. -/

open Sys2Proof Sys2Proof.Machine Sys2Proof.Claim

namespace Sys2Proof.Machine.Tests

set_option Elab.async false
/-! ### Ill-formed terms, one for each check of WellFormed.lean -/

/-- A pair named by an odd field (R69). -/
theorem test_wf_pairs : [Instr.jmpi 3, .iadd64 false 1 2 4 .wrapS, .isub64 true 2 3 4 .wrapS, .imad Guard.always 3 1 1 2 .wrapS true, .mov false 2 3 true,
    .sel false Guard.always 2 4 5 true 0 false, .srd false 3 0x018, .swr false 3 0x032, .icmp false Guard.always 1 3 4 .eq false true 0 .none,
    .fcmp Guard.always 1 2 5 .eq 0 .none true, .dadd 1 2 4 .rn, .dmul 2 3 4 .rn, .dfma Guard.always 2 4 6 7 .rn, .dmnx 2 4 5 false, .lmch 1 3 true].all
    (fun i => !i.wf) = true := by decide

/-- Pairs of memory instructions and engines (R69, R91 to R93). -/
theorem test_wf_pointers : [Instr.ld false Guard.always 4 3 .b32 false false 0 0, .ld false Guard.always 5 2 .b64 false false 0 0, .st Guard.always 3 2 .b8 false 0 0,
    .st Guard.always 2 3 .b64 false 0 0, .atom Guard.always 1 3 4 0 .add false .plain 0 0, .atom Guard.always 1 2 4 0 .add true .plain 0 0,
    .red Guard.always 3 2 .add false .plain 0 0, .red Guard.always 2 3 .add true .plain 0 0, .lds Guard.always 3 2 .b64 false false false 0,
    .ldsx Guard.always 3 2 2 .b64 false false false 0, .sts Guard.always 2 3 .b64 false 0, .stsx Guard.always 2 3 2 .b64 false 0, .pft Guard.always 3 false 0,
    .clin Guard.always 3 2 .wb false 0, .deps Guard.always 3 2 2 .b8, .deps Guard.always 2 3 2 .b64, .depa Guard.always 3 2 2 .i32,
    .depa Guard.always 2 3 2 .i64, .depr Guard.always 3 2 2, .tld Guard.always 3 2 4 0 false, .tst Guard.always 0 2 4 5 0 false false, .bxi Guard.always 3,
    .bxw Guard.always 3 2, .acld Guard.always 0 3 .f32, .acdr Guard.always 0 3 0 .f32 .rn false].all (fun i => !i.wf) = true := by decide

/-- Reserved and excluded codes (R81, R95, R110, R112, R115, R116). -/
theorem test_wf_codes : [Instr.imad Guard.always 2 1 1 2 .satS true, .shi false 1 2 false true 3, .srd false 1 0x004, .swr false 1 0x000, .icmp false Guard.always 1 2 4 .eq false false 1 .none,
    .fcmp Guard.always 1 2 4 .eq 3 .none false, .fadd 1 2 3 .rna, .hpmul 1 2 3 .rna, .ffma Guard.always 1 2 3 4 .rna, .frnd 1 2 .rna, .fdiv Guard.always 1 2 3 .rna,
    .dadd 2 4 6 .rna, .dfma Guard.always 2 4 6 8 .rna, .cvt Guard.always 1 2 .f32 .f32 .rn false, .cvt Guard.always 1 2 .e4m3 .i32 .rn false,
    .cvt Guard.always 1 2 .i32 .f32 .rn true, .cvt Guard.always 1 2 .i32 .i16 .rz false, .cvt Guard.always 1 2 .i64 .i32 .rn false,
    .pack Guard.always 1 2 3 4 .i32 .f32 .rn false 0, .pack Guard.always 1 2 3 4 .i16 .f32 .rn false 1, .pack Guard.always 1 2 3 4 .i8 .f32 .rn true 0,
    .unpk Guard.always 1 2 2 .f16 .f32, .unpk Guard.always 1 2 0 .i8 .n32, .scex Guard.always 1 2 .f16, .fdot Guard.always 1 2 3 4 5 .e4m3 0 0 .rna,
    .sgat Guard.always 1 2 .at (.imm 0) 6, .lred Guard.always 1 2 .exch, .lpfx Guard.always 1 2 .cas false].all (fun i => !i.wf) = true := by decide

/-- Codes of memory, matrix and uniform-only instructions (R91 to R93, R372). -/
theorem test_wf_more_codes : [Instr.ld false Guard.always 1 2 .b32 true false 0 0, .ld false Guard.always 1 2 .b32 false false 6 0, .st Guard.always 2 1 .b32 false 6 0,
    .atom Guard.always 1 2 3 4 .add false .plain 0 0, .atom Guard.always 2 2 4 0 .fadd true .plain 0 0, .red Guard.always 2 3 .cas false .plain 0 0, .red Guard.always 2 4 .fmax true .plain 0 0,
    .lds Guard.always 1 2 .b32 false false true 0, .lds Guard.always 1 2 .b32 true false false 0, .fence false Guard.always .plain 2,
    .mmaH Guard.always 0 { a := 1, b := 2, c := 0, k := 0, as := true, bs := false, selA := 0, selB := 0, sp := false, sl := 0 },
    .mmaH Guard.always 0 { a := 2, b := 2, c := 4, k := 0, as := true, bs := false, selA := 0, selB := 0, sp := false, sl := 0 },
    .mmaI8 Guard.always 0 false false { a := 2, b := 2, c := 4, k := 0, as := true, bs := false, selA := 0, selB := 0, sp := true, sl := 0 },
    .mmaBf Guard.always 0 { a := 2, b := 2, c := 0, k := 0, as := true, bs := true, selA := 1, selB := 0, sp := false, sl := 0 },
    .mmaF4 Guard.always 0 { a := 2, b := 2, c := 4, k := 0, as := true, bs := true, selA := 1, selB := 0, sp := false, sl := 1 },
    .tld Guard.always 2 4 6 1 false, .tst Guard.always 2 4 6 8 0 false false, .qcfg 0 0, .qcfg 0 17, .barSync Guard.always 1 2 0 .die, .barWait Guard.always 1 3 .die,
    .acal 0, .acfr 0, .acld Guard.always 0 2 .i8, .acdr Guard.always 0 2 0 .i16 .rn false, .acdr Guard.always 0 2 0 .i8 .rn true].all (fun i => !i.wf) = true := by decide

/-- Packet fields out of range (R48, R49). -/
theorem test_wf_packets : [Instr.launch false 0 0 1 1 1 0 4097 0 0, .depend true 0 1 2 0 0 0 1 0 0, .depend false 0 1 2 0 0 1 0 0 0, .wait false 0 3 0 0 0 0 0, .wait false 0 0 4 0 0 0 0, .wait false 0 0 0 4 0 0 0,
    .wait false 0 0 0 0 0xFE 0 0, .wait false 0 2 0 0 0 4 0, .signal false true 0 0 3 0 0, .signal false false 0 4 0 0 0, .signal false false 0 1 0 4 0, .loop false true 0 1 0, .loop false false 0 1 8,
    .ifPkt false 0 4 0 0 0, .ifPkt false 0 0 2 0 0, .ifPkt false 0 0 1 4 0, .copy false 0 0 4 0 0, .cancel 0 4 0 0, .cancel 0 1 0 5, .killContext false 0 1024 0, .reclaimFence 0 1024,
    .scopeTable false 0 7 0 0, .scopeTable false 0 32 0 0, .channelAllocate 0 false 16 0 0 0 0, .channelAllocate 0 true 1 0 0 0 15, .channelAllocate 0 false 1 4096 0 0 0,
    .channelFree 0 2 1 0 0 0 0, .priority 0 4, .nopPacket 0 0].all (fun i => !i.wf) = true := by decide

/-! ### Words of the spec's worked encodings, and what they stand for -/

/-- Control and integer arithmetic (R83, R84, R97, R314, R350, R352, R354). -/
theorem test_decode_integer : [decode 0x01180003 0, decode 0x03800005 0, decode 0x00800000 0, decode 0x04800000 0, decode 0xB0000000 0, decode 0x08030208 0, decode 0x8B850BFF 0,
    decode 0x0C080820 0, decode 0x4D840C1D 0xE1000001, decode 0x0B8A1401 0] =
    [.bra { g := 1, n := true } 3, .trap 5, .exit, .tret, .ckpt, .iadd false 3 1 2 .wrapS, .iaddi true 5 5 (-1), .iadd64 false 8 4 8 .wrapS,
     .imad Guard.always 4 6 7 8 .wrapU true, .iaddi false 10 10 1] := by decide

/-- Logic and bit operations (R85, R303, R312, R347, R379). -/
theorem test_decode_logic : [decode 0x10030208 0, decode 0x90030208 0, decode 0x10830208 0, decode 0x11030208 0, decode 0x15830800 0, decode 0x54030800 0xE00001A3, decode 0x51830814 0xE0C00096,
    decode 0x53830814 0xE0C00001, decode 0x13080C02 0] =
    [.and false 3 1 2, .and true 3 1 2, .or false 3 1 2, .xor false 3 1 2, .clz 3 4, .bfe false Guard.always 3 4 (.imm 8 3) true, .logt false Guard.always 3 4 5 6 0x96,
     .fshf Guard.always 3 4 5 6 true false, .shi false 8 6 false false 2] := by decide

/-- Moves, comparisons and predicates (R86, R356, R376, R384, R394, R397, R398). -/
theorem test_decode_moves : [decode 0x18855A40 0, decode 0x18859C40 0, decode 0x98850007 0, decode 0x59881431 0xE000000A, decode 0x1A060020 0, decode 0x9A020018 0, decode 0x9A800621 0,
    decode 0x5B010400 0xE0000002, decode 0x5B030818 0xE000015D, decode 0x5B820814 0xE000011A, decode 0x5C01040C 0xE0E00080, decode 0x18090000 0] =
    [.movi false 5 0x5A40, .movi false 5 40000, .movi true 5 7, .sel false Guard.always 8 10 12 true 2 true, .srd false 6 0x020, .srd true 2 0x018, .swr true 3 0x021,
     .icmp false Guard.always 1 2 0 .lt false false 0 .none, .icmp false Guard.always 3 4 6 .ge true true 2 .and, .fcmp Guard.always 2 4 5 .ult 1 .or false,
     .plgt Guard.always 1 2 3 7 0x80, .mov false 9 0 false] := by decide

/-- Floating point and conversion (R87 to R89, R323 to R325, R334, R338, R340, R346, R357, R380, R393, R407). -/
theorem test_decode_float : [decode 0x20030209 0, decode 0x61030208 0xE0800000, decode 0x24030800 0, decode 0x25030803 0, decode 0x63030814 0xE0000000, decode 0x22830802 0,
    decode 0x2A081433 0, decode 0x2B881431 0, decode 0x6B081430 0xE1C00000, decode 0x28030209 0, decode 0x6C050C00 0xE0000583, decode 0x6C830814 0xE0C0418E, decode 0x6D030800 0xE0000C85,
    decode 0x6D830800 0xE0000010, decode 0x6E030814 0xE0C00004, decode 0x6E830814 0xE0C001D0] =
    [.fadd 3 1 2 .rz, .ffma Guard.always 3 1 2 4 .rn, .frcp 3 4, .fsqt 3 4 .ru, .fdiv Guard.always 3 4 5 .rn, .frnd 3 4 .rd, .dadd 8 10 12 .ru, .dmnx 8 10 12 true,
     .dfma Guard.always 8 10 12 14 .rn, .hpadd 3 1 2 .rz, .cvt Guard.always 5 6 .i32 .f32 .rz false, .pack Guard.always 3 4 5 6 .e4m3 .f32 .rn false 1, .unpk Guard.always 3 4 5 .e2m1 .f32,
     .scex Guard.always 3 4 .e2m1, .idot Guard.always 3 4 5 6 false false true false, .fdot Guard.always 3 4 5 6 7 .e4m3 0 1 .rn] := by decide

/-- Operations across lanes and memory (R90, R91, R306, R321, R327, R330, R341, R343, R361, R364, R369, R382, R391, R395, R399, R401, R408). -/
theorem test_decode_memory : [decode 0x70030800 0xE0000006, decode 0x70810400 0xE0000002, decode 0x71030800 0xE000000A, decode 0x71830800 0xE0000010, decode 0x74060800 0xE0060412,
    decode 0x74060800 0xE000FF89, decode 0x74800C28 0xE0060022, decode 0x75050818 0xE0060460, decode 0x75800818 0xE0060440, decode 0x76040400 0xE0000032, decode 0x77040400 0xE1200411,
    decode 0x76800428 0xE0000412, decode 0x77800428 0xE1200002, decode 0x78000000 0xE0060003, decode 0x78800800 0xE0004001, decode 0x79000818 0xE0000006, decode 0x79830814 0xE0000002,
    decode 0x7A000828 0xE2800002, decode 0x7B000C2C 0xE2800000] =
    [.sgat Guard.always 3 4 .hi (.imm 1) 0, .vote Guard.always (.some 1) 2, .lred Guard.always 3 4 .fadd, .lpfx Guard.always 3 4 .add true, .ld false Guard.always 6 4 .b32 false true 6 16,
     .ld false Guard.always 6 4 .b16 true false 0 (-2), .st Guard.always 6 10 .b32 true 6 0, .atom Guard.always 5 4 6 0 .add false .acqrel 6 8, .red Guard.always 4 6 .add false .rel 6 8,
     .lds Guard.always 4 2 .b32 false true true 0, .ldsx Guard.always 4 2 9 .b16 false true false 16, .sts Guard.always 2 10 .b32 true 16, .stsx Guard.always 2 10 9 .b32 false 0,
     .fence false Guard.always .acqrel 6, .pft Guard.always 4 true 256, .clin Guard.always 4 6 .wbi true 0, .feop Guard.always (.test 3) 4 5, .deps Guard.always 4 10 20 .b32,
     .depr Guard.always 6 11 20] := by decide

/-- The matrix engine and the uniform-only instructions (R92, R93, R298 to R302, R309, R315, R319, R359, R360, R372, R385 to R389, R403). -/
theorem test_decode_engines : [decode 0x7C812020 0xEC000022, decode 0x7D033029 0xE8000C25, decode 0x7F000000 0xE0000001, decode 0xAA020600 0, decode 0xAC000003 0, decode 0xAC80000C 0,
    decode 0xEE011800 0xE000000B, decode 0xE0000820 0xE1400011, decode 0xE08E0820 0xE1400020, decode 0xA4010002 0, decode 0xE4802800 0xE0000011, decode 0xE5002A00 0xE0000021,
    decode 0xE8081200 0xE0000053, decode 0xE8000000 0xE0000000, decode 0xB0850C02 0] =
    [.mmaF8 Guard.always 1 false false { a := 16, b := 8, c := 96, k := 2, as := false, bs := true, selA := 0, selB := 0, sp := false, sl := 0 },
     .mmaI8 Guard.always 3 true false { a := 24, b := 10, c := 64, k := 5, as := false, bs := true, selA := 0, selB := 0, sp := true, sl := 1 },
     .ksgn Guard.always 1, .kcfg 2 3, .acal 3, .acfr 12, .acdr Guard.always 1 12 0 .bf16 .rn false, .tld Guard.always 4 8 10 1 true, .tst Guard.always 14 4 8 10 0 false true, .qcfg 1 2,
     .qarv Guard.always 20 1 true, .qwt Guard.always 21 1 false true, .barArv Guard.always 8 9 3 .clu, .barSync Guard.always 0 0 0 .blk, .chnr 5 6 .arr] := by decide

/-- Words that are not instructions (R95): a reserved major, a wrong X bit, an unused field, a uniform form that does not exist. -/
theorem test_decode_refuses : [decode 0x05000000 0, decode 0xA0000000 0, decode 0x00000001 0, decode 0xA4010011 0].all (fun i => i.isIllegal) = true ∧
    decode 0x40000000 0 = .illegalInstruction 0x40000000 (some 0) := by decide

/-- Packets (R47, R48): the LAUNCH header of the spec's example with a body, a CANCEL and a WAIT; and headers that are refused. -/
theorem test_decode_packets :
    decodePacket [0x00030001, 7, 0x100, 0x01000000, 2, 0x00010003, 0x200, 0, 16, 9, 0x40, 0] = .ok (.launch false 7 0x0100000000000100 2 3 1 0x200 16 9 0x40) 3 ∧
    decodePacket [0x00020007, 0, 0xFF010100, 0, 0, 0, 5, 0] = .ok (.wait false 0 0 1 1 0xFF 0 5) 2 ∧
    decodePacket [0x00020003, 0, 1, 2, 0, 0x00010001, 0, 0] = .ok (.depend false 0 1 2 0 0 1 1 0 0) 2 ∧
    decodePacket [0x00010018, 0, 0, 0] = .badOpcode ∧ decodePacket [0x00000000, 0, 0, 0] = .badOpcode ∧ decodePacket [0x00018004, 0, 0, 0] = .malformed ∧
    decodePacket [0x00020004, 0, 0, 0, 0, 0, 0, 0] = .malformed ∧ decodePacket [0x00010005, 0, 1, 0] = .malformed := by decide

/-! ### States in which an issue stands -/

/-- The group of the loaded code issues at its first word: its lanes sel stand there, the others 64 bytes further on; lane n holds
the registers f n. -/
def issuing (sel : Mask) (two : Bool) (f : Nat → Tab Nat Word) (s : State) : State :=
  { s.updGroup 0 0 (fun g => { g with lanes := laneList.map (fun n => { (g.lane n) with
      v := f n, p := BitVec.ofNat 7 (2 * n), pc := if bit sel n then (g.lane n).pc else (g.lane n).pc + 64 }) }) with
    agenda := [], cur := .issue 0 0 (BitVec.ofNat 56 loadVa) sel (0, if two then some 0 else none) }

/-- The loaded program, with its node's descriptor changed. -/
def loaded (f : Desc → Desc) : State := (State.reset.withFetchWord 32 0).updNode 0 0 (fun n => { n with desc := f n.desc })

/-- An issue stands in s, and P holds of it. -/
def standing (s : State) (gd : Guard) (rs : List Nat) (P : Iss → Bool) : Bool :=
  match s.cur with
  | .issue p g a sel w => match s.loc p g with
    | some l =>
      let i : Iss := { loc := l, addr := a, sel := sel, ex := l.grp.exec sel gd, words := w }
      decide (l.p = p) && decide (l.g = g) && decide (i.ex ≠ 0) && decide (∀ r ∈ rs, r < l.node.desc.regs) &&
        decide (∀ r ∈ rs, l.grp.isPending r = false) && decide (s.strikes = []) && decide (s.laneFaults = []) && decide (l.grp.step = none) && P i
    | none => false
  | _ => false

theorem stands_of {s : State} {gd : Guard} {rs : List Nat} (Q : Iss → Prop) [DecidablePred Q]
    (h : standing s gd rs (fun i => decide (Q i)) = true) : ∃ i : Iss, i.Stands gd rs s ∧ Q i := by
  unfold standing at h
  split at h
  · split at h
    · simp only [Bool.and_eq_true, decide_eq_true_eq] at h
      obtain ⟨⟨⟨⟨⟨⟨⟨⟨hp, hg⟩, hx⟩, hr⟩, hs⟩, hc⟩, hf⟩, ht⟩, hq⟩ := h
      subst hp; subst hg
      exact ⟨_, ⟨‹_›, ‹_›, rfl, hx, hr, hs, hc, hf, ht⟩, hq⟩
    · simp at h
  · simp at h

/-- Lanes 0 to 7 and 16 to 19 issue; the guard p2 keeps some of them. -/
def someLanes : Mask := 0x000F00FF
def p2 : Guard := { g := 2, n := false }
def plain : State := issuing someLanes false (fun n => [(1, BitVec.ofNat 32 (n + 1)), (127, BitVec.ofNat 32 (64 * n))]) (loaded id)
def part9632 (s : State) : State := { s with part := .tz9632 }

/-- Every register that a field may name, boundaries included, in a word without and one with a guard: the hypothesis of the
statements about lane instructions. -/
theorem witness_stands : (∃ i : Iss, i.Stands Guard.always (List.range 128) plain ∧ i.loc.role = 0 ∧ i.loc.versioned = false ∧ i.loc.grp.handler = none ∧
      Config.hasF64 plain.part = true ∧ i.loc.grp.fair.slice = false) ∧
    (∃ i : Iss, i.Stands p2 (List.range 128) plain ∧ i.loc.role = 0 ∧ i.ex ≠ i.sel ∧ bit i.sel 31 = false) :=
  ⟨stands_of _ (by decide +kernel), stands_of _ (by decide +kernel)⟩

/-- A part without the FP64 unit (AbsentUnitTraps). -/
theorem witness_absent_unit : (∃ i : Iss, i.Stands Guard.always (List.range 128) (part9632 plain) ∧ Config.hasF64 (part9632 plain).part = false) :=
  stands_of _ (by decide +kernel)

/-- PACK's pairs at their last slot (ConversionResults). -/
theorem witness_pack : packOk .i4 .f32 3 = true ∧ packOk .e5m2 .f32 1 = true ∧ packOk .f16 .f32 0 = true ∧ packOk .i16 .n32 0 = true := by decide

/-- Special registers, of each width and at the last listed id; a handler in force for s.tpc (SpecialRegisterResults). -/
def handled : State := plain.updGroup 0 0 (fun g => { g with handler := some { lanes := someLanes, returned := 0, cause := 0x10, lane := 3, code := 5, tpc := 64, taddr := 7 } })
theorem witness_special : ∃ i : Iss, i.Stands Guard.always (List.range 128) handled ∧ (∃ e ∈ sregs i handled, e.1 = 0x030) ∧ (∃ e ∈ sregPairs i handled, e.1 = 0x034) ∧
    i.loc.grp.handler.isSome = true := stands_of _ (by decide +kernel)

/-- RET and JMPI whose targets are aligned, and the last live lanes leaving (ControlFlowResults). -/
def jumps : State := plain.updGroup 0 0 (fun g => { g with lanes := laneList.map (fun n => { (g.lane n) with
  v := [(8, BitVec.ofNat 32 (0x10000 + 8 * n)), (9, 0x01000000), (127, BitVec.ofNat 32 (4 * n))] }) })
theorem witness_control : ∃ i : Iss, i.Stands Guard.always [127, 8, 9] jumps ∧
    (∀ n < 32, bit i.ex n = true → (i.addr.extractLsb' 32 24 ++ i.g.v n 127).toNat % 4 = 0) ∧
    (∀ n < 32, bit i.ex n = true → (X i n 8).toNat % 4 = 0 ∧ (X i n 8).toNat / 2 ^ 56 = i.loc.fetchRid) ∧ (∀ e ∈ i.loc.blk.kregs, e.2.sigs = []) ∧
    i.loc.versioned = false := stands_of _ (by decide +kernel)

/-- A YIELD with a lane above it, and within a slice whose last issue it is (YieldHandsOff). -/
theorem witness_yield : (∃ i : Iss, i.Stands Guard.always [] plain ∧ i.loc.grp.handler = none ∧ bit i.sel 8 = false ∧ (i.loc.grp.lane 8).live = true ∧ i.addr < (i.loc.grp.lane 8).pc) ∧
    (∃ i : Iss, i.Stands Guard.always [] (plain.updGroup 0 0 (fun g => { g with fair := { len := 64, cnt := 3, slice := true, set := allLanes, n := 1 } })) ∧ i.loc.grp.handler = none ∧ i.loc.grp.fair.n = 1) :=
  ⟨stands_of _ (by decide +kernel), stands_of _ (by decide +kernel)⟩

/-- TRET in and out of a handler, a fetch outside the code region and one of a page that is not there (TrapInstructions). -/
def fetching (b : Bound) : State := (plain.updCtx 0 1 (fun c => { c with bounds := [(1, b)] })).updDie 0 0 (fun d => { d with l2 := [] })
theorem witness_traps : (∃ i : Iss, i.Stands Guard.always [] handled ∧ i.loc.grp.handler.isSome = true) ∧ (∃ i : Iss, i.Stands Guard.always [] plain ∧ i.loc.grp.handler = none) ∧
    (∃ i : Iss, i.Stands Guard.always [] (fetching { loadBound with ex := false }) ∧ ((fetching { loadBound with ex := false }).fetchWord i.loc i.addr).1 = .bad 0x05) ∧
    (∃ i : Iss, i.Stands Guard.always [] (fetching loadBound) ∧ ((fetching loadBound).fetchWord i.loc i.addr).1 = .fault ∧ (∀ o ∈ ((fetching loadBound).pkg i.loc.p).olog, o.gid ≠ i.loc.g) ∧
      ((fetching loadBound).pkg i.loc.p).ologOf i.loc.core < Config.ologEntries) :=
  ⟨stands_of _ (by decide +kernel), stands_of _ (by decide +kernel), stands_of _ (by decide +kernel), stands_of _ (by decide +kernel)⟩

/-- A cause that is delivered; one that is not, without and with a debugger (TrapEntry). -/
def trapping : State := plain.updCtx 0 1 (fun c => { c with trapPc := 0x0100000000020000, trapEn := 0x1FFFE })
def attachedTo (s : State) : State := s.updFn 0 1 (fun f => { f with dbgctl := 0x401 })
theorem witness_trap_entry : ((trapping.loc 0 0).any (fun l => l.p == 0 && l.g == 0 && l.delivers 1 && l.delivers 0x10 && !(trapping.pkg l.p).rewriting l.asid) = true) ∧
    ((plain.loc 0 0).any (fun l => !l.delivers 2 && !(plain.pkg l.p).attached l.asid) = true) ∧
    (((attachedTo plain).loc 0 0).any (fun l => !l.delivers 2 && ((attachedTo plain).pkg l.p).attached l.asid && ((attachedTo plain).pkg l.p).stopw l.asid == 0 && !l.grp.halted &&
      decide (l.ctx.stops.length < Config.stopQueue)) = true) := by decide +kernel

/-- A fatal launch, and idempotent and versioned ones before and at their limit of two (FaultModeDecides). -/
def faulty (mode done : Nat) : State := ((loaded (fun d => { d with fault := mode })).updCluster 0 0 (fun c => { c with relaunches := done, discards := done }))
theorem witness_fault_mode : [(0, 0), (1, 1), (1, 2), (2, 1), (2, 2)].all (fun e => match tget ((faulty e.1 e.2).pkg 0).clusters 0 with
    | some x => decide (x.relaunches = e.2) && decide (x.discards = e.2) && x.committing.isNone && (tget ((faulty e.1 e.2).pkg 0).nodes x.node).any (fun n => n.desc.fault == e.1)
    | none => false) = true := by decide +kernel

/-! ### Memory -/

/-- Lane n names address a n of region 1 in x8, and holds 7 n in v10; v9 is the region. -/
def pointing (rid : Nat) (a : Nat → Nat) : State :=
  issuing someLanes true (fun n => [(8, BitVec.ofNat 32 (a n)), (9, BitVec.ofNat 32 (rid * 2 ^ 24)), (10, BitVec.ofNat 32 (7 * n)), (11, 1)]) (loaded id)
/-- The own die's L2 holds the sectors of these addresses, with all tokens, writable. -/
def holding (vas : List Nat) (s : State) : State :=
  s.updDie 0 0 (fun d => { d with l2 := d.l2 ++ vas.map (fun va => (s.keyOf 0 1 va, { loadSec va with pa := va / 64 * 64 })) })
def sectorAt (s : State) (k : Nat) : L2Sec := (s.l2 0 0 (s.keyOf 0 1 (64 * k))).getD (loadSec 0)

def calmB (i : Iss) (s : State) : Bool :=
  decide (i.loc.grp.pend = []) && decide (∀ q ∈ (s.pkg i.loc.p).pends, q.acc.gid ≠ i.loc.g ∧ q.core ∉ scalarCores i.loc.node.desc.fused i.loc.core ∧ q.core ≠ i.loc.core) && decide (∀ o ∈ (s.pkg i.loc.p).olog, o.gid ≠ i.loc.g) &&
    decide (((s.pkg i.loc.p).core i.loc.core).cb = [] ∧ ∀ c ∈ scalarCores i.loc.node.desc.fused i.loc.core, ((s.pkg i.loc.p).core c).cb = []) && decide (i.loc.versioned = false ∧ i.loc.clu.ver = none ∧ i.loc.clu.committing = none) &&
    decide (bits (s.pkg i.loc.p).plat.smpctl 15 0 = 0) && decide (i.loc.ctx.bp = [])
theorem calm_of {i : Iss} {s : State} (h : calmB i s = true) : Calm i s := by
  simp only [calmB, Bool.and_eq_true, decide_eq_true_eq] at h
  obtain ⟨⟨⟨⟨⟨⟨h1, h2⟩, h3⟩, h4⟩, h5⟩, h6⟩, h7⟩ := h
  exact ⟨h1, h2, h3, h4, h5, h6, h7⟩

/-- P holds of every lane of exec, and of the first n numbers. -/
def everyLane (i : Iss) (P : Nat → Bool) : Bool := laneList.all (fun j => !bit i.ex j || P j)
def below (n : Nat) (P : Nat → Bool) : Bool := (List.range n).all P
theorem lane_of {i : Iss} {P : Nat → Bool} (h : everyLane i P = true) (j : Nat) (hj : j < 32) (hx : bit i.ex j = true) : P j = true := by
  have := List.all_eq_true.mp h j (List.mem_range.mpr hj)
  simpa [hx] using this
theorem below_of {n : Nat} {P : Nat → Bool} (h : below n P = true) (k : Nat) (hk : k < n) : P k = true := List.all_eq_true.mp h k (List.mem_range.mpr hk)

/-- A byte's sector is at hand; a written byte's sector may be written. -/
def handB (i : Iss) (s : State) (write : Bool) (va : Nat) : Bool :=
  decide (s.l2 i.loc.p i.loc.die (keyAt i s va) = some (sectorAt s (va / 64))) && s.l2Ready i.loc.p i.loc.die (keyAt i s va) write && !(sectorAt s (va / 64)).psn &&
    (tget ((s.pkg i.loc.p).core (l1Core i.loc.node.desc.fused i.loc.core va)).l1 (keyAt i s va)).isNone
theorem hand_of {i : Iss} {s : State} {write : Bool} {va : Nat} (h : handB i s write va = true) : atHand i s write va (sectorAt s (va / 64)) := by
  simp only [handB, Bool.and_eq_true, decide_eq_true_eq, Bool.not_eq_true', Option.isNone_iff_eq_none] at h
  exact ⟨h.1.1.1, h.1.1.2, h.1.2, h.2⟩
def putB (i : Iss) (s : State) (va : Nat) : Bool := decide (s.l2 i.loc.p i.loc.die (keyAt i s va) = some (sectorAt s (va / 64))) && (sectorAt s (va / 64)).wr

def isGlobal : Checked → Bool | .ok .global _ => true | _ => false
def isPriv : Checked → Bool | .ok .priv _ => true | _ => false
def isArg : Checked → Bool | .ok .arg _ => true | _ => false
theorem global_of {c : Checked} (h : isGlobal c = true) : ∃ b, c = .ok .global b := by unfold isGlobal at h; split at h <;> simp_all
theorem priv_of {c : Checked} (h : isPriv c = true) : ∃ b, c = .ok .priv b := by unfold isPriv at h; split at h <;> simp_all
theorem arg_of {c : Checked} (h : isArg c = true) : ∃ b, c = .ok .arg b := by unfold isArg at h; split at h <;> simp_all

/-- LD.i64 of the last 8 bytes of sectors, with an offset (LoadResults, global memory). -/
def loads : State := holding [0x20000, 0x20040, 0x20080] (pointing 1 (fun n => 0x20000 + 64 * (n % 3) + 48))
theorem witness_load : ∃ i : Iss, i.Stands Guard.always (r2 8 ++ r2 12) loads ∧ Calm i loads ∧ ∀ j < 32, bit i.ex j = true →
    (∃ b, i.check 8 8 8 .rd j = .ok .global b) ∧
      ∀ k < 8, atHand i loads false (byteVa i (i.ptr 8 8 j) j (i.check 8 8 8 .rd j) k)
        (sectorAt loads (byteVa i (i.ptr 8 8 j) j (i.check 8 8 8 .rd j) k / 64)) ∧
        tget ((loads.pkg i.loc.p).core i.loc.core).scalar (keyAt i loads (byteVa i (i.ptr 8 8 j) j (i.check 8 8 8 .rd j) k)) = none := by
  obtain ⟨i, h, q⟩ : ∃ i : Iss, i.Stands Guard.always (r2 8 ++ r2 12) loads ∧ (calmB i loads && everyLane i (fun j =>
    let c := i.check 8 8 8 .rd j
    isGlobal c && below 8 (fun k => handB i loads false (byteVa i (i.ptr 8 8 j) j c k) && (tget ((loads.pkg i.loc.p).core i.loc.core).scalar (keyAt i loads (byteVa i (i.ptr 8 8 j) j c k))).isNone))) = true := stands_of _ (by decide +kernel)
  rw [Bool.and_eq_true] at q
  refine ⟨i, h, calm_of q.1, fun j hj hx => ?_⟩
  have := lane_of q.2 j hj hx
  rw [Bool.and_eq_true] at this
  refine ⟨global_of this.1, fun k hk => ?_⟩
  have := below_of this.2 k hk
  rw [Bool.and_eq_true, Option.isNone_iff_eq_none] at this
  exact ⟨hand_of this.1, this.2⟩

/-- An access of 4 bytes to a thread's own memory whose words lie in one sector, and one of the arguments at their last word (LoadResults). -/
def ownMem : State := holding [0x40000, 0x40040] ((pointing 0xFE (fun _ => 0)).updCtx 0 1 (fun c => { c with
  bounds := c.bounds ++ [(0xFE, { base := 0x40000, limit := 4096, rd := true, wr := true, ex := false, at_ := false, space := 1, v := true })] }))
def arguments : State := (pointing 0xFF (fun _ => 60)).updNode 0 0 (fun n => { n with args := List.replicate 64 5 })
theorem witness_load_spaces : (∃ i : Iss, i.Stands Guard.always (r2 8 ++ r1 12) ownMem ∧ Calm i ownMem ∧
      ∀ j < 32, bit i.ex j = true → ∃ b, i.check 8 0 4 .rd j = .ok .priv b) ∧
    (∃ i : Iss, i.Stands Guard.always (r2 8 ++ r1 12) arguments ∧ Calm i arguments ∧
      ∀ j < 32, bit i.ex j = true → ∃ b, i.check 8 0 4 .rd j = .ok .arg b) := by
  obtain ⟨i, h, q⟩ : ∃ i : Iss, i.Stands Guard.always (r2 8 ++ r1 12) ownMem ∧ (calmB i ownMem &&
    everyLane i (fun j => isPriv (i.check 8 0 4 .rd j))) = true := stands_of _ (by decide +kernel)
  obtain ⟨i', h', q'⟩ : ∃ i : Iss, i.Stands Guard.always (r2 8 ++ r1 12) arguments ∧ (calmB i arguments &&
    everyLane i (fun j => isArg (i.check 8 0 4 .rd j))) = true := stands_of _ (by decide +kernel)
  rw [Bool.and_eq_true] at q q'
  exact ⟨⟨i, h, calm_of q.1, fun j hj hx => priv_of (lane_of q.2 j hj hx)⟩, ⟨i', h', calm_of q'.1, fun j hj hx => arg_of (lane_of q'.2 j hj hx)⟩⟩

/-- ST.rel.i64 into sectors that the L2 may write (StoreResults). -/
theorem witness_store : ∃ i : Iss, i.Stands Guard.always (r2 8 ++ r2 10) loads ∧ Calm i loads ∧ loads.released i.loc 6 = true ∧
    ∀ j < 32, bit i.ex j = true → (∃ b, i.check 8 8 8 .wr j = .ok .global b) ∧
      ∀ k < 8, let va := byteVa i (i.ptr 8 8 j) j (i.check 8 8 8 .wr j) k
        va / 64 ∈ [0x800, 0x801, 0x802] ∧ loads.l2 i.loc.p i.loc.die (keyAt i loads va) = some (sectorAt loads (va / 64)) ∧ (sectorAt loads (va / 64)).wr = true := by
  obtain ⟨i, h, q⟩ : ∃ i : Iss, i.Stands Guard.always (r2 8 ++ r2 10) loads ∧ (calmB i loads && (loads.released i.loc 6 && everyLane i (fun j =>
    let c := i.check 8 8 8 .wr j
    isGlobal c && below 8 (fun k => decide (byteVa i (i.ptr 8 8 j) j c k / 64 ∈ [0x800, 0x801, 0x802]) && putB i loads (byteVa i (i.ptr 8 8 j) j c k))))) = true := stands_of _ (by decide +kernel)
  rw [Bool.and_eq_true, Bool.and_eq_true] at q
  refine ⟨i, h, calm_of q.1, q.2.1, fun j hj hx => ?_⟩
  have := lane_of q.2.2 j hj hx
  rw [Bool.and_eq_true] at this
  refine ⟨global_of this.1, fun k hk => ?_⟩
  have := below_of this.2 k hk
  simpa only [putB, Bool.and_eq_true, decide_eq_true_eq] using this

/-- ATOM and RED on the last word of sectors that the home itself has (AtomicResults), several lanes at each location. -/
theorem witness_atomic : ∃ i : Iss, i.Stands Guard.always (r2 8 ++ r2 10 ++ r2 14 ++ r2 12) loads ∧ Calm i loads ∧ loads.released i.loc 6 = true ∧
    ∀ j < 32, bit i.ex j = true → (∃ b, i.check 8 8 8 .atom j = .ok .global b) ∧
      atHand i loads true (vaOf (i.ptr 8 8 j)) (sectorAt loads (vaOf (i.ptr 8 8 j) / 64)) ∧ (keyAt i loads (vaOf (i.ptr 8 8 j))).home = i.loc.p := by
  obtain ⟨i, h, q⟩ : ∃ i : Iss, i.Stands Guard.always (r2 8 ++ r2 10 ++ r2 14 ++ r2 12) loads ∧ (calmB i loads && (loads.released i.loc 6 && everyLane i (fun j =>
    isGlobal (i.check 8 8 8 .atom j) && (handB i loads true (vaOf (i.ptr 8 8 j)) && decide ((keyAt i loads (vaOf (i.ptr 8 8 j))).home = i.loc.p))))) = true :=
    stands_of _ (by decide +kernel)
  rw [Bool.and_eq_true, Bool.and_eq_true] at q
  refine ⟨i, h, calm_of q.1, q.2.1, fun j hj hx => ?_⟩
  have := lane_of q.2.2 j hj hx
  rw [Bool.and_eq_true, Bool.and_eq_true, decide_eq_true_eq] at this
  exact ⟨global_of this.1, hand_of this.2.1, this.2.2⟩

/-- Operands of one location in ascending lane order, at the ends of the lane range (ReadModifyWrite). -/
theorem witness_rmw : ([(0, (5, 6)), (31, (2 ^ 64 - 1, 0))] : Tab Nat (DWord × DWord)).Pairwise (fun x y => x.1 < y.1) ∧ (2 ^ 32 - 1 : Nat) < 2 ^ 32 := by decide

/-! ### The scratchpad -/

/-- A block of 1,024 bytes with a sister in its cluster; lane n names offset 16 n in v8, rank n mod 2 in v9, v10 data. -/
def scratchy : State := ((issuing someLanes true (fun n => [(8, BitVec.ofNat 32 (16 * n)), (9, BitVec.ofNat 32 (n % 2)), (10, BitVec.ofNat 32 n)])
    (loaded (fun d => { d with scratch := 1024, cluster := 2 }))).updBlock 0 0 (fun b => { b with full := List.range 64, scratch := [(5, 7)] })).updPkg 0 (fun k => { k with
  blocks := k.blocks ++ [(1, { loadBlock with rank := 1, idx := 1, full := List.range 64 })], clusters := tmod k.clusters 0 (fun c => { c with blocks := [0, 1] }) })
def spBlockOf (i : Iss) (s : State) (c : Option Reg) (j : Nat) : Nat := (spBlk i s c j).getD 99
def spOf (i : Iss) (s : State) (c : Option Reg) (j : Nat) : Block := (s.block? i.loc.p (spBlockOf i s c j)).getD loadBlock

/-- LDS and STS of the last 8 bytes of a granule, in the own block and at a rank (ScratchResults, ScratchpadCompletes). -/
theorem witness_scratch (c : Option Reg) (hc : c = none ∨ c = some 9) : ∃ i : Iss, i.Stands p2 (r1 8 ++ r1 9 ++ r2 12 ++ r2 10) scratchy ∧ i.g.hold? i.addr = none ∧
    (scratchy.orderWait i.loc.p i.loc.g = false ∧ scratchy.released i.loc scClu = true) ∧ (∀ e ∈ (scratchy.pkg i.loc.p).groups, ∀ h ∈ e.2.holds, h.kind ≠ .fe) ∧
    ∀ j < 32, bit i.ex j = true → SpOk i scratchy c 8 j (((V i j 8).toNat : Int) + 8) (spBlockOf i scratchy c j) (spOf i scratchy c j) ∧
      (((V i j 8).toNat : Int) + 8).toNat / 16 ∈ (spOf i scratchy c j).full := by
  obtain ⟨i, h, h1, h2, h3, q⟩ : ∃ i : Iss, i.Stands p2 (r1 8 ++ r1 9 ++ r2 12 ++ r2 10) scratchy ∧ (i.g.hold? i.addr = none ∧
    (scratchy.orderWait i.loc.p i.loc.g = false ∧ scratchy.released i.loc scClu = true) ∧ (∀ e ∈ (scratchy.pkg i.loc.p).groups, ∀ h ∈ e.2.holds, h.kind ≠ .fe) ∧ ∀ c ∈ [none, some 9], ∀ j < 32, bit i.ex j = true →
      (spBlk i scratchy c j = some (spBlockOf i scratchy c j) ∧ scratchy.block? i.loc.p (spBlockOf i scratchy c j) = some (spOf i scratchy c j) ∧
        (((V i j 8).toNat : Int) + 8) % 8 = 0 ∧ 0 ≤ ((V i j 8).toNat : Int) + 8 ∧ ((V i j 8).toNat : Int) + 8 + 8 ≤ i.loc.node.desc.scratch) ∧
      (((V i j 8).toNat : Int) + 8).toNat / 16 ∈ (spOf i scratchy c j).full) := stands_of _ (by decide +kernel)
  refine ⟨i, h, h1, h2, h3, fun j hj hx => ?_⟩
  have := q c (by rcases hc with rfl | rfl <;> simp) j hj hx
  exact ⟨⟨this.1.1, this.1.2.1, this.1.2.2.1, this.1.2.2.2⟩, this.2⟩

/-- FEOP on ranges of length 0 and 1 (ScratchResults, ScratchpadCompletes). -/
theorem witness_full_empty : ∃ i : Iss, i.Stands p2 (r1 8 ++ r1 9) scratchy ∧ scratchy.block? i.loc.p i.loc.grp.blk = some i.loc.blk ∧
    (∀ j < 32, bit i.ex j = true → 0 < (V i j 9).toNat → (V i j 8).toNat + (V i j 9).toNat ≤ i.loc.node.desc.scratch) ∧ (scratchy.released i.loc scClu = true ∧ scratchy.orderWait i.loc.p i.loc.g = false) ∧ i.g.hold? i.addr = none ∧
    ∀ e ∈ (scratchy.pkg i.loc.p).groups, ∀ h ∈ e.2.holds, h.kind ≠ .fe :=
  stands_of _ (by decide +kernel)

/-! ### Order -/

/-- FENCE.acqrel at pod scope, PFT and CLIN of a range (OrderResults). -/
theorem witness_order : (∃ i : Iss, i.Stands Guard.always (r2 8 ++ r1 10) loads ∧ i.loc.versioned = false ∧ (∀ o ∈ (loads.pkg i.loc.p).olog, o.gid ≠ i.loc.g) ∧
      (loads.pkg i.loc.p).pendsOf i.loc.core < Config.otEntries ∧ loads.cbClear i.loc.p i.loc.asid (i.loc.drainCores 6) = true ∧ i.loc.node.desc.fused = false ∧
      (∀ j < 32, bit i.ex j = true → i.clinBad true 8 10 j = none) ∧ (∀ q ∈ (loads.pkg i.loc.p).pends, q.acc.gid ≠ i.loc.g)) := stands_of _ (by decide +kernel)

/-- A CLIN that waits: its group stands with the wait, and nothing of its scope is on its way (OrderResults). -/
def clining : State := loads.updGroup 0 0 (fun g => { g with holds := [{ kind := .clin, addr := BitVec.ofNat 56 loadVa, lanes := someLanes, since := 0, counted := none, wdog := 0, hung := false, data := [2, 1, 6, 8, 10, someLanes.toNat] }] })
theorem witness_clin : (clining.loc 0 0).any (fun l => ((l.grp.holds.find? (fun h => h.kind == .clin)).any (fun h => h.data == [ClinOp.code .wbi, 1, 6, 8, 10, someLanes.toNat])) &&
    l.grp.step.isNone && (clining.scopeCores l 6).all (fun c => decide (((clining.pkg c.1).core c.2).cb = [] ∧ (clining.pkg c.1).pends = [])) && decide (clining.strikes = [] ∧ clining.laneFaults = [] ∧ (clining.pkg 0).pends = []) &&
    (clining.pkg 0).groupResident 0 && clining.messages.isEmpty) = true := by decide +kernel

/-- The accesses of one instruction in a launch without and with versions, whose version has room for just what an instruction may add; a
CLIN with nothing to drain (GlobalMemoryCompletes). -/
def versioned (quotaKiB : Nat) : State := (loads.updNode 0 0 (fun n => { n with desc := { n.desc with fault := 2, quotaKiB := quotaKiB } })).updCluster 0 0 (fun c => { c with ver := some { secs := [], log := [] } })
theorem witness_memory_completes : [(loads, false), (versioned 4, true)].all (fun e => let s := e.1
    standing s Guard.always [8, 9, 10, 11, 12, 13, 14, 15] (fun i => i.loc.versioned == e.2 && (s.pkg i.loc.p).pends.all (fun q => q.acc.gid != i.loc.g) && (s.pkg i.loc.p).olog.all (fun o => o.gid != i.loc.g) &&
      decide ((s.pkg i.loc.p).pendsOf i.loc.core + 64 ≤ Config.otEntries) && below 4 (fun n => !bit (tgetD i.loc.ctx.bp (64 + 8 * n) 0) 0) && s.cbClear i.loc.p i.loc.asid (i.loc.drainCores (if e.2 then 3 else 6)) &&
      (if e.2 then i.loc.clu.committing.isNone && i.loc.clu.ver.any (fun v => decide (v.bytes + 4096 = i.loc.node.desc.quota)) else i.loc.clu.ver.isNone) &&
      everyLane i (fun j => [Perm.rd, .wr, .atom].all (fun r => isGlobal (i.check 8 8 8 r j)) && below 8 (fun k => let va := vaOf (i.ptr 8 8 j) + k
        handB i s true va && putB i s va && s.sectorClear i.loc (keyAt i s va)) && (i.clinBad true 8 10 j).isNone) &&
      i.loc.grp.holds.isEmpty && (s.scopeCores i.loc 6).all (fun c => decide (((s.pkg c.1).core c.2).cb = [] ∧ (s.pkg c.1).pends = [])) && s.messages.isEmpty && (s.pkg i.loc.p).groupResident i.loc.g)) = true := by decide +kernel

/-! ### Synchronization within a launch -/

/-- Operands in v8 to v13, the same in every lane. -/
def operands (v : List Nat) (s : State) : State := issuing someLanes true (fun _ => (v.zipIdx).map (fun e => (8 + e.2, BitVec.ofNat 32 e.1))) s
def slot (full ph : Bool) (arr tgt : Nat) : RingSlot := { full := full, ph := ph, arr := arr, tgt := tgt }
/-- Ring 3 with one slot; v8 names it with a count of 3. -/
def ringed (x : RingSlot) : State := (operands [3 * 16] (loaded id)).updBlock 0 0 (fun b => b.setRing 3 { slots := [x], inflight := 0 })

/-- QCFG of an idle ring; a first arrival, the one that completes and a consumer's; QWT of a slot that is full, and one that waits
(RingResults, MeetingCompletes). -/
theorem witness_ring : (standing (ringed (slot false false 0 1)) Guard.always [] (fun i => (i.loc.blk.ring 3).slots.all (fun x => !x.full && x.arr == 0) && (i.loc.blk.ring 3).inflight == 0)) = true ∧
    [slot false false 0 1, slot false true 2 3, slot true true 2 3].all (fun x => standing (ringed x) Guard.always [8] (fun i =>
      let w := (V i i.leader 8).toNat
      decide (w < 1024) && (i.loc.blk.ring 3).slots[w % 16]? == some x && w / 16 % 64 == 3 && (x.arr == 0 || x.tgt == 3) && (ringed x).released i.loc scBlk &&
        ((ringed x).pkg i.loc.p).groups.all (fun e => e.2.holds.isEmpty) && (i.g.hold? i.addr).isNone)) = true := by decide +kernel

/-- Two groups of one block of a die slice. -/
def twoGroups : State := (operands [3, 1] (loaded (fun d => { d with groups := 2, dieres := true }))).updPkg 0 (fun k => { k with
  groups := k.groups ++ [(1, { loadGroup with gidx := 1, slot := 1 })],
  slices := [(0, { node := 0, die := 0, first := 0, count := 1, clusters := [0], bar := { ph := 0, mem := [], arr := [] } })] })
/-- The other member has arrived at barrier n already. -/
def arrived (lvl : BarLvl) (n : Nat) : State := match twoGroups.loc 0 0 with | some l => twoGroups.setBar l lvl n { ph := 7, mem := [0, 1], arr := [1] } | none => twoGroups

/-- Arrivals that do and do not complete a barrier of each level, with and without an operand; a wait at its phase and past it; a
BAR.sync and a KSGN whose wait is over (GroupsMeet, MeetingCompletes). -/
def metAt (kind : WaitKind) (data : List Nat) : State := twoGroups.updGroup 0 0 (fun g => { g with holds := [{ kind := kind, addr := BitVec.ofNat 56 loadVa, lanes := someLanes, since := 0, counted := none, wdog := 0, hung := false, data := data }] })
theorem witness_barrier : [BarLvl.blk, .clu, .die].all (fun lvl => [twoGroups, arrived lvl 0].all (fun s => standing s Guard.always [0, 8, 9] (fun i =>
      let b := i.loc.bar (s.pkg i.loc.p) lvl 0
      decide (i.loc.versioned = false) && decide ((s.pkg i.loc.p).sliceOf i.loc.blk.cluster = some (0, (tget (s.pkg i.loc.p).slices 0).getD { node := 0, die := 0, first := 0, count := 0, clusters := [], bar := { ph := 0, mem := [], arr := [] } })) &&
        decide (i.loc.members (s.pkg i.loc.p) lvl none = some [0, 1]) && decide (i.loc.g ∉ b.arr) && (b.arr.isEmpty || decide (b.mem = [0, 1])) && s.released i.loc (BarLvl.scope lvl) &&
        (i.g.hold? i.addr).isNone && decide (V i i.leader 9 ≠ b.ph)))) = true ∧
    standing twoGroups Guard.always [8] (fun i => decide (i.loc.members (twoGroups.pkg i.loc.p) .blk (some (V i i.leader 8).toNat) = some [0, 1])) = true ∧
    standing (metAt .bar (barIn .blk 2 5)) Guard.always [0, 8] (fun i => (i.g.hold? i.addr).any (fun h => h.kind == .bar && h.data == barIn .blk 2 5) && decide ((i.loc.bar ((metAt .bar []).pkg 0) .blk 2).ph ≠ 5)) = true ∧
    standing ((metAt .ksgn [2, 7, 1]).updNode 0 0 (fun n => { n with desc := { n.desc with matrix := true, groups := 4 } })) Guard.always [] (fun i => i.loc.role == 2 && (i.g.hold? i.addr).any (fun h => h.kind == .ksgn && h.data == [2, 7, 1])) = true := by decide +kernel

/-- A matrix group of four, with its convergence register 2 naming it alone and the lanes that others signed (ConvergenceResults). -/
def matrix (f : Desc → Desc) : State := loaded (fun d => f { d with matrix := true, groups := 4, acc := 4, scratch := 65536 })
def converging (signed : Iss → List Sig) : State :=
  let s := operands [1] (matrix id)
  match s.loc 0 0, s.cur with
  | some l, .issue _ _ a sel w => s.updBlock 0 0 (fun b => { b with kregs := [(2, { set := 1, sigs := signed { loc := l, addr := a, sel := sel, ex := sel, words := w } })] })
  | _, _ => s
def others (i : Iss) : List Sig := (Mask.lanes (~~~ i.ex)).map (plainSig i)
theorem witness_convergence : (standing (converging (fun _ => [])) Guard.always [8] (fun i => ((i.loc.blk.kreg 3).sigs == []) && decide ((V i i.leader 8).toNat < 2 ^ i.loc.node.desc.groups))) = true ∧
    [fun _ => [], others].all (fun f => standing (converging f) Guard.always [] (fun i =>
      let kr := i.loc.blk.kreg 2
      i.loc.role == 2 && (i.g.hold? i.addr).isNone && kr.set == laneBit i.loc.grp.gidx && decide (((converging f).pkg 0).setGroups i.loc.grp.blk kr.set = [(i.loc.g, i.loc.grp)]) &&
        i.loc.grp.live == allLanes && kr.sigs.all (fun x => sameSigning x.words i.words && x.gid == i.loc.g && !bit i.ex x.lane) &&
        decide (((converging f).pkg i.loc.p |>.core i.loc.core).eng = Engine.mk none [] false) && i.loc.grp.holds.isEmpty)) = true := by decide +kernel

/-! ### The matrix engine -/

def mayForkB (i : Iss) (s : State) (gs : List Nat) : Bool := s.cbClear i.loc.p i.loc.asid (scalarCores i.loc.node.desc.fused i.loc.core) && gs.all (fun g => !s.orderWait i.loc.p g &&
  (s.pkg i.loc.p).olog.all (fun o => !(o.gid == g && o.write)) && (s.pkg i.loc.p).pends.all (fun q => !(q.acc.gid == g && q.write)))
def mmaOps : MmaOps := { a := 8, b := 10, c := 0, k := 3, as := true, bs := true, selA := 0, selB := 0, sp := false, sl := 0 }
/-- Four matrix groups whose tile 1 is bound; k3 names all of them, with the signatures sigs. -/
def signing (sigs : List Sig) : State := (operands [0x100, 0x01000100, 0x200, 0x01000100] (matrix id)).updPkg 0 (fun k => { k with
  groups := k.groups ++ [(1, { loadGroup with gidx := 1 }), (2, { loadGroup with gidx := 2 }), (3, { loadGroup with gidx := 3 })],
  blocks := tmod k.blocks 0 (fun b => { b with kregs := [(3, { set := 15, sigs := sigs })], tiles := [(1, [])] }) })
/-- The signatures of every lane but those that issue. -/
def allOthers : List Sig := match (signing []).loc 0 0 with
  | some l => ((List.range 128).filter (fun k => !(decide (k < 32) && bit someLanes k))).map (fun k =>
      { gid := k / 32, lane := k % 32, pc := 5, words := (0, some 0), ptrs := [l.grp.x 0 8, l.grp.x 0 10], regs := [] })
  | none => []
/-- MMA.H before the last signing and at it (MmaSigning). -/
theorem witness_mma : [[], allOthers].all (fun sigs => standing (signing sigs) Guard.always [8, 9, 10, 11] (fun i => match mmaOf (.mmaH Guard.always 1 mmaOps) with
    | some m =>
      let s := signing sigs
      let kr := i.loc.blk.kreg 3
      let ps := m.ptrs i.g 0
      mmaOps.wf m.fmt.scaled && i.loc.role == 2 && (i.g.hold? i.addr).isNone && kr.set == i.loc.node.desc.matrixSet && kr.set != 0 && !(s.pkg i.loc.p).exitedIn i.loc.grp.blk kr.set &&
        !kr.freed && i.loc.blk.bound m.t && kr.sigs.all (fun z => sameSigning z.words i.words && z.ptrs == ps && !(z.gid == i.loc.g && bit i.ex z.lane)) &&
        everyLane i (fun n => m.ptrs i.g n == ps) && decide (m.regs = [8, 9, 10, 11]) && ((s.pkg i.loc.p).setGroups i.loc.grp.blk kr.set).length == 4 &&
        decide (((s.pkg i.loc.p).core i.loc.core).eng = Engine.mk none [] false) && mayForkB i s [0, 1, 2, 3] && (s.pkg i.loc.p).groups.all (fun e => e.2.holds.isEmpty) && ps.all (fun p => !tpBad p 128) && (m.tilesOf ps).all (fun y => decide (y.1 + 127 * tpPitch y.2 + 128 ≤ i.loc.node.desc.scratch))
    | none => false)) = true := by decide +kernel

/-- ACAL with room for two tiles and its next issue; ACFR of bound and swapped tiles; MWT with an idle tile and one in use; the tile
instructions on lines that end with the scratchpad (AccumulatorInstructions). -/
def tiled (o : Option EngOp) : State := ((operands [0, 0x02000200] (matrix id)).updBlock 0 0 (fun b => { b with tiles := [(0, []), (1, [])], swapped := [(2, [])] })).updCore 0 0 (fun c => { c with
  eng := { run := o, queue := [], stopped := false } })
def clearing (blk : Nat) (kind : EngKind) : EngOp := { blk := blk, tile := 1, gid := 0, lane := 3, pc := 9, kind := kind, k := 0, mismatches := 0, started := 0, id := 4 }
def granted : State := (operands [] (matrix id)).updGroup 0 0 (fun g => { g with holds := [{ kind := .acal, addr := BitVec.ofNat 56 loadVa, lanes := someLanes, since := 0, counted := none, wdog := 0, hung := false, data := [5, 1] }] })
theorem witness_accumulators : (standing (operands [] (matrix id)) Guard.always [] (fun i => i.loc.role == 2 && !i.loc.blk.bound 0 && !i.loc.blk.bound 3 && decide (i.loc.blk.boundCount + 4 ≤ i.loc.node.desc.acc) &&
      i.loc.grp.holds.isEmpty && residentState i.loc.blk.state && i.loc.blk.core == i.loc.core && decide (4 + i.loc.blk.swapped.length ≤ ((operands [] (matrix id)).pkg i.loc.p).freeTiles i.loc.core))) = true ∧
    (standing granted Guard.always [] (fun i => i.loc.role == 2 && (i.g.hold? i.addr).any (fun h => h.kind == .acal && h.data == [5, 1]))) = true ∧
    (standing (tiled none) Guard.always [8, 9, 12] (fun i => i.loc.role == 2 && i.loc.blk.bound 0 && i.loc.blk.bound 1 && i.loc.blk.bound 2 && i.loc.blk.held == [] && i.loc.blk.kregs == [] &&
      decide (((tiled none).pkg 0 |>.core i.loc.core).eng = Engine.mk none [] false) && mayForkB i (tiled none) [i.loc.g] && i.loc.grp.holds.isEmpty && decide (((tiled none).pkg 0).opsOf i.loc.grp.blk = []) && !tpBad (X i i.leader 8) (16 * Ty.width .f32) &&
      decide (tpOffset (X i i.leader 8) + 127 * tpPitch (X i i.leader 8) + 16 * Ty.width .f32 ≤ i.loc.node.desc.scratch))) = true ∧
    (standing (tiled (some (clearing 0 .aczr))) Guard.always [] (fun i => i.loc.blk.bound 1 && ((tiled (some (clearing 0 .aczr))).pkg 0 |>.core i.loc.core).eng.ops == [clearing 0 .aczr])) = true := by decide +kernel

/-- Engine operations whose clocks have passed, their sources full (EngineCompletion). -/
def running (kind : EngKind) : State := ((matrix id).updPkg 0 (fun k => { k with aclk := 21000 * 128, blocks := tmod k.blocks 0 (fun b => { b with tiles := [(1, [])], full := (clearing 0 kind).sources }) })).updCore 0 0 (fun c => { c with
  eng := { run := some (clearing 0 kind), queue := [], stopped := false } })
theorem witness_engine (kind : EngKind) : EngAlone (running kind) 0 ∧
    EngRuns (running kind) 0 0 128 (clearing 0 kind) { loadBlock with tiles := [(1, [])], full := (clearing 0 kind).sources } := by
  have hg : ((running kind).pkg 0).groups = [(0, loadGroup)] := rfl
  refine ⟨⟨?_, ?_, rfl⟩, ⟨rfl, rfl, rfl, ?_, (by decide : 0 + 128 ≤ 21000 * 128 / 21000)⟩⟩
  · show ∀ n ∈ [(0, _)], _; simp [loadNode]
  · rw [hg]; simp [loadGroup]
  · intro g hg; simpa [Block.isFull] using hg
theorem witness_engine_kinds : tpBad 0x0200020000000000 (16 * Ty.width .f32) = false ∧ (mmaOf (decode 0x7E810410 0xE0000033)).isSome = true := by decide

/-- An I8 product of lines at the ends of the operand range, whose sums stay below 2^49 (MmaIntegerExact). -/
theorem witness_mma_exact : let m : Mma := { fmt := .i8 false true, t := 0, o := mmaOps }
    m.fmt = .i8 false true ∧ (128 * 128 * 255 : Int) < 2 ^ 49 := by decide

/-! ### The tile streamer and the bulk transfer engines -/

def rowb32 : Nat := 32 + 3 * 65536 + 64 * 2 ^ 32 + 2 * 2 ^ 58
def spTile : Nat := 0x100 + 48 * 2 ^ 32
/-- A copy group with a ring; x8 global, x10 tile pointer, x12 geometry of four rows of 32 bytes, x14 flag address. -/
def copying (v : List Nat) : State := (operands v (loaded (fun d => { d with copy := true, groups := 4, scratch := 65536 }))).updBlock 0 0 (fun b =>
  b.setRing 3 { slots := [slot false false 0 1], inflight := 0 })
def copyOps : List Nat := [0x20040, 0x01000000, spTile % 2 ^ 32, spTile / 2 ^ 32, rowb32 % 2 ^ 32, rowb32 / 2 ^ 32, 0x20400, 0x01000000]
def copyOkB (i : Iss) (m : Copy2D) : Bool :=
  bits m.geo 15 13 == 0 && decide (16 ≤ geoRowb m.geo) && decide (geoRowb m.geo ≤ 4096) && geoRowb m.geo % 16 == 0 && geoPitch m.geo % 16 == 0 && vaOf m.gptr % 16 == 0 &&
    !tpBad m.sptr (geoRowb m.geo) && (List.range (geoRows m.geo)).all (fun r => rowOk i.loc.ctx i.loc.node m.store (m.row r) (geoRowb m.geo)) &&
    decide (tpOffset m.sptr + (geoRows m.geo - 1) * tpPitch m.sptr + geoRowb m.geo ≤ i.loc.node.desc.scratch) &&
    (m.ring.all (fun q => decide (geoSlot m.geo < (i.loc.blk.ring q).slots.length) && decide (1 ≤ geoCnt m.geo) && decide (geoCnt m.geo ≤ 32))) &&
    (m.flag.all (fun f => !i.loc.versioned && vaOf f % 4 == 0 && coversGlobal i.loc.ctx i.loc.node f 4 .wr)) && decide (i.loc.blk.stream.length < Config.streamerOps)
/-- TLD.arv and TST.arv.flag (EngineIssue). -/
theorem witness_tile_copy : standing (copying copyOps) Guard.always [8, 9, 10, 11, 12, 13, 14, 15] (fun i => i.loc.role == 1 && mayForkB i (copying copyOps) [i.loc.g] &&
    copyOkB i { store := false, gptr := X i i.leader 8, sptr := X i i.leader 10, geo := X i i.leader 12, ring := some 3, flag := none } &&
    copyOkB i { store := true, gptr := X i i.leader 8, sptr := X i i.leader 10, geo := X i i.leader 12, ring := some 3, flag := some (X i i.leader 14) }) = true := by decide +kernel

/-- A control block: one row of 24 bytes, its record at 0x20200 with tag 0x1234. -/
def controlBlock (rowb flags : Nat) : List Byte := leBytes 8 (2 ^ 56 + 0x20008) ++ leBytes 8 (2 ^ 56 + 0x20100) ++ leBytes 4 rowb ++ leBytes 4 1 ++ leBytes 4 0 ++ leBytes 4 0 ++
  leBytes 8 (2 ^ 56 + 0x20200) ++ leBytes 4 0x1234 ++ leBytes 4 flags ++ leBytes 16 0
def transferring (args : List Byte) : State := (copying [0, 0xFF000000, 0x1234]).updPkg 0 (fun k => { k with
  nodes := tmod k.nodes 0 (fun n => { n with args := args }),
  btes := (List.range 8).map (fun e => (e, if e = 7 then [] else [{ id := 90 + e, asid := 1, inc := 1, blk := none, node := none, gid := 0, lane := 0, ccb := [], die := 0, cancelled := false, done := 0, wait := none }])) })
/-- BXI whose control block lies in the arguments, on a die of whose engines the last is idle; BXW of a record that has its tag
and status, and of one that has not (EngineIssue). -/
theorem witness_bulk_issue : (standing (transferring (controlBlock 24 0)) Guard.always [8, 9] (fun i =>
      let s := transferring (controlBlock 24 0)
      let ptr := X i i.leader 8
      let w := wordsOf ((i.loc.node.args.drop (vaOf ptr)).take 64)
      i.loc.role == 1 && !i.loc.versioned && vaOf ptr % 64 == 0 && rowOk i.loc.ctx i.loc.node false ptr 64 && ridOf ptr == 0xFF && vaOf (ccbRecord w) % 16 == 0 &&
        coversGlobal i.loc.ctx i.loc.node (ccbRecord w) 16 .wr && mayForkB i s [i.loc.g] && decide (7 / 8 = i.loc.die) && decide (((s.pkg 0).bte 7).length < Config.bteQueue) &&
        (List.range 7).all (fun e => decide (((s.pkg 0).bte 7).length < ((s.pkg 0).bte e).length)))) = true ∧
    [leBytes 4 0x1234 ++ leBytes 4 1, leBytes 8 0].all (fun r => standing (transferring (r ++ leBytes 8 0)) Guard.always [8, 9, 10] (fun i =>
      let ptr := X i i.leader 8
      vaOf ptr % 16 == 0 && rowOk i.loc.ctx i.loc.node false ptr 16 && ridOf ptr == 0xFF && (i.g.hold? i.addr).isNone && !(transferring (r ++ leBytes 8 0)).orderWait i.loc.p i.loc.g)) = true := by decide +kernel

/-- One granule of a copy to do, its words in the L2 (StreamerCompletion). -/
def streamOp (store : Bool) (ring : Option Nat) (todo : List Nat) (flag : Option DWord) : StreamOp :=
  { id := 5, store := store, gid := 0, lane := 0, pc := 0, gptr := 0x0100000000020040, sptr := BitVec.ofNat 64 spTile, geo := BitVec.ofNat 64 rowb32, ring := ring, flag := flag, todo := todo }
def streaming (o : StreamOp) : State := holding [0x20040, 0x20080, 0x200C0, 0x20100, 0x20400] ((copying []).updBlock 0 0 (fun b => (b.setRing 3 { slots := [slot false false 1 2], inflight := 1 }).setFull 16 |> fun b => { b with stream := [o] }))
def aloneB (s : State) (p : Nat) : Bool := (s.pkg p).nodes.all (fun n => !n.2.cancelled) &&
  (s.pkg p).groups.all (fun e => e.2.holds.all (fun h => h.kind != .acal && h.kind != .fe)) && s.strikes.isEmpty
def wordsB (s : State) (p : Nat) (x : Block) (n : Node) (c : Cluster) (write : Bool) (ws : List (Nat × DWord)) : Bool :=
  c.ver.isNone && c.committing.isNone && ws.all (fun w => ridOf w.2 != 0xFF && vaOf w.2 % 4 == 0 && s.l2Ready p (dieOfCore x.core) (s.keyOf p n.asid (vaOf w.2)) write &&
    (s.l2 p (dieOfCore x.core) (s.keyOf p n.asid (vaOf w.2))).all (fun e => !e.psn && (write || decide (s.forwarded p x.core n.desc.fused (s.keyOf p n.asid (vaOf w.2)) e.data = e.data))))
theorem witness_streamer : [streamOp false none [16, 17] none, streamOp false (some 3) [16] none, streamOp true none [16] (some 0x0100000000020400)].all (fun o =>
    let s := streaming o
    match s.streamAt 0 0 with
    | some (x, n, c) => aloneB s 0 && x.stream == [o] && (s.pkg 0).olog.isEmpty && o.todo.all (fun g => wordsB s 0 x n c o.store (o.words g) && (o.words g).all (fun w => vaOf w.2 % 8 == 0)) &&
        (Ring.arrive { x.ring 3 with inflight := (x.ring 3).inflight - 1 } (geoSlot o.geo) (geoCnt o.geo) false).isSome && n.desc.fault != 2 && (s.pkg 0).groups.all (fun e => e.2.holds.isEmpty) &&
        (!o.store || (decide (16 ∈ x.full) && o.flag.all (fun f => wordsB s 0 x n c true [(0, f)])))
    | none => false) = true := by decide +kernel

/-- A transfer that is legal, its sectors in the L2 of the engine's die, one without a row and one that is cancelled; its record lies in a
page that the controllers know (BulkCompletion). -/
def mapped (s : State) : State := s.updPkg 0 (fun k => { k with ctrls := (List.range 32).map (fun c => (c, { k.ctrl c with
  tlb := [{ asid := 1, vbase := 0x20000, size := 65536, pabase := 0x100000, wr := true, nc := false }] })) })
def bteOp (rowb flags : Nat) (cancelled : Bool) : BteOp := { id := 9, asid := 1, inc := 1, blk := some 0, node := none, gid := 0, lane := 0, ccb := wordsOf (controlBlock rowb flags), die := 0, cancelled := cancelled, done := 0, wait := none }
def moving (o : BteOp) : State := holding [0x20000, 0x20100] (mapped ((loaded id).updPkg 0 (fun k => { k with btes := [(2, [o])] })))
theorem witness_bulk_end : [(bteOp 24 0 false, true, false), (bteOp 0 0 false, false, false), (bteOp 24 0 true, true, true)].all (fun e =>
    let s := moving e.1
    let w := e.1.ccb
    aloneB s 0 && ((s.pkg 0).bte 2)[0]? == some e.1 && (s.pkg 0).olog.isEmpty && (s.pkg 0).nodes.all (fun n => n.2.kind != .copy) && ccbOk w == e.2.1 && e.1.cancelled == e.2.2 && !e.1.unread &&
    (tget (s.pkg 0).ctxs 1).any (fun c => cpBound c (ccbRecord w) 16 .wr && cpBound c (ccbSrc w) 24 .rd && cpBound c (ccbDst w) 24 .wr) && ccbRows w == 1 && decide (vaOf (ccbSrc w) % 64 + 24 ≤ 64) &&
    decide (vaOf (ccbDst w) % 64 + 24 ≤ 64) && (s.pkg 0).nodes.all (fun n => !n.2.desc.fused) &&
    [(0x20008, false), (0x20100, true)].all (fun f => s.l2Ready 0 0 (s.keyOf 0 1 f.1) f.2 && (s.l2 0 0 (s.keyOf 0 1 f.1)).any (fun x => !x.psn) && (s.keyOf 0 1 f.1).home == 0) &&
    (match s.vaWrite 0 1 (vaOf (addOff (ccbRecord w) 8)) (leBytes 8 24) with
      | (.ok [], s1) => (match s1.vaWrite 0 1 (vaOf (ccbRecord w)) (leBytes 4 (ccbTag w) ++ leBytes 4 1) with | (.ok [], s2) => aloneB s2 0 && decide ((s2.pkg 0).nodes = (s.pkg 0).nodes) | _ => false)
      | _ => false)) = true := by decide +kernel

/-! ### Deposits and counted releases -/

def sender (seq ack sent : Nat) (j : Option Nat) : Snd :=
  { asid := 1, inc := 1, peer := 1, sent := sent, seq := seq, ack := ack, gen := 3, brk := false, jptr := 0x0100000000020000, jsize := j, jhead := 0, jtail := 0, jwait := none, kept := [] }
/-- Lane n names channel n and address 0x20000 + 8 n. -/
def depositing (y : Snd) : State := (mapped (issuing someLanes true (fun n => [(8, BitVec.ofNat 32 (0x20000 + 8 * n)), (9, 0x01000000), (10, BitVec.ofNat 32 n), (12, BitVec.ofNat 32 n)]) (loaded id))).updPkg 0
  (fun k => { k with chan := { k.chan with snd := (List.range 32).map (fun n => (n, y)) } })
/-- DEPS, DEPA, DEPR and CHNR of channels with and without a journal, at the last interval before the sequence wraps
(DepositInstructions). -/
theorem witness_deposits : [sender 65535 65535 (2 ^ 20 - 2) none, sender 0 65535 0 (some 16)].all (fun y => standing (depositing y) Guard.always [8, 9, 10, 11, 12, 20] (fun i =>
    let s := depositing y
    !i.loc.versioned && !s.acqLogged i.loc.p i.loc.g && s.released i.loc scPod && everyLane i (fun n => decide ((V i n 12).toNat < 4096) && s.snd i.loc.p (V i n 12).toNat == some y && y.asid == i.loc.asid && !y.brk &&
      decide (seqDiff y.seq y.ack < 2) && vaOf (X i n 8) % 8 == 0 && coversGlobal i.loc.ctx i.loc.node (X i n 8) 8 .wr && coversGlobal i.loc.ctx i.loc.node (X i n 8) 8 .atom &&
      naming i 12 (V i n 12).toNat == 1 && decide (y.sent + 1 < 2 ^ 20) && y.jsize.all (fun z => decide (y.used + 1 ≤ 2 ^ (z - 5))) && (s.journalFault i.loc.p y 1).isNone) &&
    (s.snd i.loc.p (bits (V i i.leader 12) 11 0)).any (fun z => z.asid == i.loc.asid))) = true := by decide +kernel

def receiver : Rcv := { asid := 1, inc := 1, journaled := true, last := 65535, gen := 3, cur := 2, next := 1, mapc := [4, 5], mapn := [0], tadopt := none, shn := true, unr := true, held := [], heldAt := 0, lastShort := 0 }
/-- A message of package 1's channel unit at this one's. -/
def arriving (b : Body) (s : State) : State :=
  let m : Msg := { src := .chan 1, dst := .chan 0, asid := 1, inc := 1, key := noKey, pa := 0, body := b, check := 0, scope := 0, hops := 0, since := 0 }
  { s with cur := .message { m with check := m.code } }
def receiving (r : Rcv) (s : State) : State := (mapped s).updPkg 0 (fun k => { k with chan := { k.chan with rcv := [(4096 + 7, r)] } })
def messageB (s : State) (P : Msg → Bool) : Bool := match s.cur with | .message m => !s.stale m && m.checkOk && P m | _ => false
/-- Deposits of the current and the next interval, late, doubled, of the next generation and of another (DepositArrival): each stands
as a message whose channel is known, and the store at its address is performed. -/
theorem witness_deposit_arrival : [(0, 9, 3), (1, 9, 3), (2, 9, 3), (0, 4, 3), (0, 9, 0), (0, 9, 1)].all (fun e =>
    let s := arriving (.deposit 7 1 2 0x20010 5 e.1 e.2.1 e.2.2) (receiving receiver (loaded id))
    messageB s (fun m => s.rcv m.dst.pkg m.src.pkg 7 == some receiver) && (match s.depositStore 0 1 0x20010 (.atom 0x20010 .add false [(0, (5, 0))]) with
      | .done t => t.rcv 0 1 7 == some receiver | _ => false)) = true := by decide +kernel

/-- Releases that are held, that complete and that come again, and a RACK that acknowledges (ReleaseArrival). -/
theorem witness_release : [(0, 3), (0, 2), (65535, 2)].all (fun e =>
      let s := arriving (.release 7 e.1 e.2 3 0x20020 77) (receiving receiver (loaded id))
      messageB s (fun m => s.rcv m.dst.pkg m.src.pkg 7 == some receiver) && decide ((s.pkg 0).flagsHeld < Config.flagBuffer) && (s.pkg 0).chan.deps.isEmpty &&
        (match s.depositStore 0 1 0x20020 (.write 0x20020 (leBytes 4 77)) with | .done t => decide ((t.pkg 0).chan = (s.pkg 0).chan) | _ => false)) = true ∧
    (let y := { sender 2 0 0 (some 16) with kept := [{ seq := 1, cnt := 4, gen := 3, va := 0, val := 0, sent := 0 }, { seq := 2, cnt := 5, gen := 3, va := 0, val := 0, sent := 0 }] }
     let s := arriving (.rack 7 1) ((loaded id).updPkg 0 (fun k => { k with chan := { k.chan with snd := [(7, y)] } }))
     messageB s (fun _ => s.snd 0 7 == some y) && seqAhead 1 y.ack && !seqAhead 0 y.ack) = true := by decide +kernel

/-- A held release that has waited, its repetition, a SHORT of a channel with and without a journal, a release kept for two lifetime
bounds (ShortfallRecovery); HALT, its repetition and its absence (HaltedPeers). -/
def late (s : State) : State := { s with now := 10 * Config.lifetime }
def keptOne : Rls := { seq := 0, cnt := 3, gen := 3, va := 0x20020, val := 77, sent := 0 }
theorem witness_shortfall : (let r := { receiver with held := [keptOne], shn := false }
     let s := late (receiving r (loaded id))
     s.rcv 0 1 7 == some r && (r.held.find? (fun h => seqDiff h.seq r.last == 1)).any (fun h => r.cur != h.cnt) && decide (r.heldAt + Config.lifetime ≤ s.now) && decide (r.lastShort + 2 * Config.lifetime ≤ s.now) &&
       !thas (s.pkg 0).chan.halted 1) = true ∧
    [none, some 16].all (fun j =>
      let y := { sender 0 65535 0 j with kept := [keptOne] }
      let s := arriving (.short 7 0 3 2 false) (late ((loaded id).updPkg 0 (fun k => { k with chan := { k.chan with snd := [(7, y)], halted := [(2, 0)], lastHalt := 0 }, halted := true })))
      messageB s (fun m => m.dst.pkg == 0 && s.snd 0 7 == some y) && seqAhead 0 y.ack && (y.kept.find? (fun r => r.seq == 0)).any (fun r => decide (2 ≤ r.cnt)) && (j.isNone || (s.journalStop 0 y).isNone) &&
        decide (keptOne.sent + 2 * Config.lifetime ≤ s.now) && !thas (s.pkg 0).chan.halted y.peer && tget (s.pkg 0).chan.halted 2 == some 0 && (s.pkg 0).halted &&
        decide ((s.pkg 0).chan.lastHalt + Config.lifetime ≤ s.now)) = true := by decide +kernel

/-- Two usable ports toward the peer, the second with the shorter egress queue (MessageRouting). -/
def joined : State := (loaded id).updPkg 0 (fun k => { k with ports := [(0, { Port.fresh with up := true, peer := 1, peerPort := 0, egress := [{ src := .chan 0, dst := .chan 1, asid := 0, inc := 0, key := noKey, pa := 0, body := .halt, check := 0, scope := 0, hops := 1, since := 0 }] }), (1, { Port.fresh with up := true, peer := 1, peerPort := 1 })] })
theorem witness_routing : (joined.portsTo 0 1 == [0, 1] && joined.usable 0 0 && joined.usable 0 1 && decide (((joined.pkg 0).port 1).bytes < ((joined.pkg 0).port 0).bytes)) = true := by decide +kernel

/-! ### Packets -/

/-- Queue 5 of the loaded context reads a packet of three units that ends at 2^32 and begins below. -/
def idleQueue : Queue := { (State.reset.pkg 0).queue 5 with ctl := 5, wp := 5, rp := 0xFFFFFFFE, rd := 0xFFFFFFFE, state := 1, ord := 6, pOrd := 2, jOrd := 1, pnum := 4, jnum := 3, gnum := 2, prio := 2, lcnt := 9, gcnt := 8, pcnt := 7, jcnt := 6 }
def node5 (q ord : Nat) : Node := { loadNode with nid := ord, q := q, ord := ord, label := BitVec.ofNat 32 (100 + ord) }
def packetAt (x : Queue) (ns : List Node) (s : State) : State := { (s.updPkg 0 (fun k => { k with nodes := ns.map (fun n => (n.nid, n)), groups := [], blocks := [], clusters := [] })).updQueue 0 5 (fun _ => x) with
  agenda := [], cur := .packet 0 5 3 }
def putAt (va : Nat) (bs : List Byte) (s : State) : State := (s.vaWrite 0 1 va bs).2
def ptrTo (va : Nat) : DWord := BitVec.ofNat 64 (2 ^ 56 + va)
def paged : State := mapped (loaded id)
def readsB (s : State) (x : Queue) : Bool := decide (s.cur = .packet 0 5 3) && decide ((s.pkg 0).queue 5 = x) && thas s.pkgs 0 &&
  (tget (s.pkg 0).ctxs (bits x.ctl 11 2)).any (fun c => !c.error && !c.killed) && x.skip.isNone && x.graph.isNone
def drainedB (s : State) : Bool := (s.pkg 0).nodes.all (fun e => !(e.2.q == 5 && e.2.status.isNone))
/-- A queue with and without a node under way, at the end of the ring's count and with no phase open (PlainPackets). -/
theorem witness_plain_packets : [[], [node5 4 3], [node5 5 3]].all (fun ns => let s := packetAt idleQueue ns paged
    readsB s idleQueue && drainedB s == ns.all (fun n => n.q != 5) && idleQueue.openG.isEmpty && idleQueue.openP.isEmpty && idleQueue.openJ.isEmpty &&
    (ns.all (fun n => n.q != 5) || ns.any (fun n => n.q == 5 && n.status.isNone && decide (n.ord ≤ idleQueue.ord)))) = true := by decide +kernel

/-- Seven blocks open already; a LOOP with one iteration left and with more; an IF; each kind of stretch that is skipped
(ControlPackets). -/
def nested (ns : List Nest) : Queue := { idleQueue with nest := List.replicate 6 (.ifBlk true) ++ ns }
def readsAtB (s : State) (va n : Nat) : Bool := (tget (s.pkg 0).ctxs 1).any (fun c => cpBound c (ptrTo va) n .rd) && (match s.vaRead 0 1 (n + 1) va n with | (.ok _, _) => true | _ => false)
theorem witness_control_packets : [[], [Nest.loopBlk 7 1 3], [.loopBlk (2 ^ 32 - 1) 2 3], [.ifBlk false]].all (fun ns => let s := packetAt (nested ns) [] (putAt 0x20008 [3, 0, 0, 0] paged)
    readsB s (nested ns) && drainedB s && decide ((nested ns).nest.length < 8) && readsAtB s 0x20008 4 && readsAtB s 0x20008 8) = true ∧
  [SkipTo.elseOrEnd 0, .endIf 0, .loopEnd 0, .jobEnd].all (fun k => let x := { nested [.ifBlk false] with skip := some k }
    let s := packetAt x [] paged
    decide (s.cur = .packet 0 5 3) && decide ((s.pkg 0).queue 5 = x) && thas s.pkgs 0 && thas (s.pkg 0).ctxs 1 && decide (x = { nested [.ifBlk false] with skip := x.skip })) = true := by decide +kernel

/-- A word that a WAIT reads, and a SIGNAL's with and without an earlier value; an address outside every region (MemoryPackets). -/
theorem witness_memory_packets : (let s := packetAt idleQueue [] (putAt 0x20008 [3, 0, 0, 0] paged)
    readsB s idleQueue && drainedB s && readsAtB s 0x20008 4 && readsAtB s 0x20008 8 && bits ((s.pkg 0).queue 5).ctl 11 2 == 1 &&
    (tget (s.pkg 0).ctxs 1).any (fun c => cpBound c (ptrTo 0x20008) 8 .wr && !cpBound c (BitVec.ofNat 64 (2 ^ 57)) 8 .wr) &&
    [4, 8].all (fun n => match s.vaWrite 0 1 0x20008 (leBytes n 5) with | (.ok [], _) => true | _ => false)) = true := by decide +kernel

/-! ### Nodes, graphs, channels -/

/-- A descriptor of one group, eight registers a lane, legal for the grid. -/
def descBytes (groups : Byte) : List Byte := leBytes 8 (2 ^ 56 + 0x10000) ++ [groups, 1, 0, 0] ++ leBytes 2 8 ++ [0, 0] ++ List.replicate 48 0
def node6 (q ord : Nat) (kind : NodeKind) : Node := { node5 q ord with kind := kind }
/-- The descriptor at 0x20000, a misshapen one at 0x20040, a grid at 0x20080, arguments at 0x200C0, a control block at 0x20100. -/
def supplied : State := putAt 0x20000 (descBytes 1) (putAt 0x20040 (descBytes 33) (putAt 0x20080 [2, 0, 0, 0, 3, 0, 1, 0] (putAt 0x200C0 [1, 2, 3, 4] (putAt 0x20100 (controlBlock 24 0) paged))))
def bytesAt (s : State) (va n : Nat) : List Byte := match s.vaRead 0 1 (n + 1) va n with | (.ok bs, _) => bs | _ => []
def loadedCtx : Ctx := (tget (supplied.pkg 0).ctxs 1).getD loadCtx
def roomB (s : State) (bytes : Nat) : Bool := (tget (s.pkg 0).nodes 0).isNone && decide ((s.pkg 0).lehrUsed < Config.lehrNodes) &&
  decide (loadedCtx.schedUsed + bytes ≤ loadedCtx.schedKiB * 1024) && (s.pkg 0).nodes.all (fun e => e.2.kind != .copy)
/-- A queue with and without a node of its own under way; a descriptor that is legal and one that is not (NodePackets). -/
theorem witness_node_packets : [[], [node6 5 3 .launch], [node6 4 3 .launch, node6 5 5 .launch]].all (fun ns => let s := packetAt idleQueue ns supplied
    readsB s idleQueue && roomB s 128 && readsAtB s 0x20000 64 && readsAtB s 0x20080 8 && readsAtB s 0x200C0 4 && readsAtB s 0x20100 64 && bytesAt s 0x20000 64 == descBytes 1 && bytesAt s 0x20080 8 == [2, 0, 0, 0, 3, 0, 1, 0] &&
    (s.pkg 0).launchStatus s.part (descBytes 1) 2 3 1 == 0 && (s.pkg 0).launchStatus s.part (descBytes 33) 2 3 1 == 9 && !(Desc.ofBytes (descBytes 1)).dieres && !idleQueue.failed && idleQueue.got.isEmpty && idleQueue.parts.isEmpty &&
    (s.pkg 0).nodes.all (fun e => decide (e.1 < Config.lehrNodes) && e.2.kind == .launch && (e.2.edges.isEmpty && e.2.waitsFor.isEmpty) && !e.2.depends (Config.lehrNodes + (s.pkg 0).seq)) && (s.pkg 0).blocks.isEmpty &&
    ((s.pkg 0).shortestBte s.part 0).isSome) = true := by decide +kernel

/-- A graph with two launches, and one of three empty nodes in a chain (GraphPackets). -/
def drafted1 (kind : NodeKind) (label : Nat) (es : List Edge) : Node := { loadNode with kind := kind, q := 5, label := BitVec.ofNat 32 label, waitsFor := [], edges := es, started := [], report := 0x01000000000200C0, tag := 55 }
def inGraph (ns : List Node) : Queue := { idleQueue with graph := some { conc := false, nodes := ns } }
def edgeFrom (i : Nat) : Edge := { prod := i, tile := none }
theorem witness_graph_packets : [[drafted1 .launch 1 [], drafted1 .launch 2 []], [drafted1 .empty 1 [edgeFrom 4095], drafted1 .empty 2 [edgeFrom 0], drafted1 .empty 2 [edgeFrom 1, edgeFrom 0]]].all (fun ns => let s := packetAt (inGraph ns) [] supplied
    decide (s.cur = .packet 0 5 3) && decide ((s.pkg 0).queue 5 = inGraph ns) && thas s.pkgs 0 && drainedB s && decide (ns.length ≤ Config.lehrNodes) && (inGraph ns).got.isEmpty && (inGraph ns).parts.isEmpty && (ns.any (fun n => n.kind == .launch) || ns.all (fun n => n.kind == .empty && n.status.isNone && n.asid == 1 && !n.edges.isEmpty)) &&
    (ns.findIdx? (fun n => n.label == 1)).isSome && (s.pkg 0).nodes.isEmpty && decide (loadedCtx.schedUsed ≤ loadedCtx.schedKiB * 1024)) = true := by decide +kernel

/-- A node without and with a report record, one that others wait for (NodeEnd). -/
def ending (rep : DWord) : State := packetAt idleQueue [{ node6 5 3 .launch with report := rep }, { node6 4 4 .launch with waitsFor := [3, 9] }, node6 4 9 .launch] paged
theorem witness_node_end : [0, ptrTo 0x20010].all (fun rep => let s := ending rep
    (tget (s.pkg 0).nodes 3).any (fun n => n.status.isNone && n.report == rep) && (s.pkg 0).nodes.all (fun e => e.2.kind == .launch) && (s.pkg 0).blocks.isEmpty &&
    (s.pkg 0).nodes.map (fun e => e.1) == [3, 4, 9] && (rep == 0 || (cpBound loadedCtx rep 16 .wr && (match s.vaWrite 0 1 0x20010 (leBytes 16 0) with | (.ok [], _) => true | _ => false)))) = true := by decide +kernel

/-- One node of the queue bears label 103, the other nodes of the queue do not, and none waits for it (CancelPacket). -/
def cancelling : State := (packetAt idleQueue [{ node6 5 3 .launch with graph := 2, phase := 4, job := 3 }, node6 4 4 .launch, node6 5 5 .launch] paged).updPkg 0 (fun k => { k with blocks := [(0, { loadBlock with node := 3 }), (1, { loadBlock with node := 4 }), (2, { loadBlock with node := 3, state := .saved })], groups := [(0, loadGroup)] })
theorem witness_cancel : (readsB cancelling idleQueue && ((cancelling.pkg 0).nodes.filter (fun e => e.2.q == 5)).map (fun e => (e.2.label == 103, e.2.graph == 2, e.2.phase == 4, e.2.job == 3)) == [(true, true, true, true), (false, false, false, false)] &&
    decide (idleQueue.pOrd < idleQueue.ord) && decide (idleQueue.jOrd < idleQueue.ord) && ((cancelling.pkg 0).btes.isEmpty && (cancelling.pkg 0).pends.isEmpty && cancelling.cbClear 0 1 ((cancelling.pkg 0).buffersOf [0, 2]) && (cancelling.pkg 0).live 0 && ((cancelling.pkg 0).groupsOf 0).contains 0 && idleQueue.got.isEmpty && (cancelling.pkg 0).nodes.all (fun e => e.2.drains.isEmpty)) && (cancelling.pkg 0).cores.all (fun e => e.2.eng.run.isNone) && (cancelling.pkg 0).nodes.all (fun e => !e.2.cancelled && e.2.kind == .launch && !e.2.depends 3)) = true := by decide +kernel

/-- Both packages run the context; the first two channels are taken (ChannelPackets). -/
def channelled (snds : Tab Nat Snd) : State := let c := { loadedCtx with pkgs := 3 }
  (packetAt idleQueue [] supplied).updPkg 0 (fun k => { k with ctxs := [(1, c)], chan := { k.chan with snd := snds } }) |>.updPkg 1 (fun k => { k with ctxs := [(1, c)] })
theorem witness_channels : (let s := channelled [(0, sender 0 0 0 none), (1, sender 0 0 0 none)]
     readsB s idleQueue && (s.snd 0 4095).isNone && (s.snd 0 2).isNone && below 2 (fun m => (s.snd 0 m).isSome) && (tget (s.pkg 1).ctxs 1).any (fun c => !c.killed && decide (c.schedUsed + 16 + 262144 ≤ c.schedKiB * 1024) && bit c.pkgs 1) &&
       (match s.vaWrite 0 1 0x20010 (leBytes 4 5) with | (.ok [], _) => true | _ => false)) = true ∧
    [(sender 3 1 0 none, false), (sender 3 1 1 (some 16), true)].all (fun e => let s := channelled [(7, e.1)]
     readsB s idleQueue && s.snd 0 7 == some e.1 && e.1.asid == 1 && !e.1.brk && ((e.1.sent == 0 && e.1.kept.isEmpty) != e.2) && (s.pkg 1).chan.deps.isEmpty && (s.snd 0 8).isNone) = true := by decide +kernel

/-! ### Kills and held packets -/

/-- Queue 5's context 1 kills context 2 of its function; context 3 belongs to another one (KillPackets). -/
def killing (pend : Bool) : State := (packetAt { idleQueue with own := 1 } [] paged).updPkg 0 (fun k => { k with ctxs := [(1, loadCtx), (2, { loadCtx with inc := 255, pkgs := 3 }), (3, { loadCtx with fn := 2 })], reclaim := [(1, { owner := 1, cnt := 4, inc := 1, pending := false }), (2, { owner := 1, cnt := 4, inc := 255, pending := pend }), (3, { owner := 2, cnt := 4, inc := 1, pending := false })] })
theorem witness_kill : [false, true].all (fun pend => let s := killing pend
    readsB s { idleQueue with own := 1 } && (s.pkg 0).ownerFn 2 == 1 && (s.pkg 0).ownerFn 3 != 1 && ((s.pkg 0).recl 2).pending == pend && thas (s.pkg 0).ctxs 2 && idleQueue.hold.isNone) = true ∧
  (let s := packetAt { idleQueue with own := 1, hold := some (.fence 2 3), state := 2 } [] (killing false)
   ((s.pkg 0).recl 2).cnt == 4 && ((s.pkg 0).queue 5).hold == some (.fence 2 3)) = true := by decide +kernel

/-- A kill under way, all of its answers in, one missing (KillSequence). -/
def killed (all : Bool) : State :=
  let s := killing true
  let as := if all then asked s 1 else (asked s 1).drop 1
  { s.updPkg 0 (fun k => { k with kills := [(2, { inc := 1, preserve := false, report := 0, tag := 7, rq := 5, pkgs := 1, acks := as, reports := as, lastAdv := 0, quiet := 0 })] }) with now := 10 * Config.lifetime }
theorem witness_kill_sequence : [true, false].all (fun all => let s := killed all
    (tget (s.pkg 0).kills 2).any (fun x => decide (x.lastAdv + 16384 * Config.tickCp ≤ s.now) && decide (x.quiet + Config.lifetime ≤ s.now) && x.report == 0 && (!all || (x.acks == asked s x.pkgs && x.reports == x.acks)))) = true ∧
  (let s := killed true
   [Agent.core 0 3, .cp 0, .slice 0 40].all (fun a => s.agentInc a 2 != some 9 && s.agentInc a 2 == some 255)) = true := by decide +kernel

/-- The packet at the head of queue 5's ring, with the queue held there (HeldPackets). -/
def ringed5 (i : Instr) (h : QHold) : State := let x := { idleQueue with ctl := 0xC005, basel := 0x20000, baseh := 0x01000000, rp := 0, rd := 0, wp := 8, hold := some h, state := 2, own := 1 }
  packetAt x [] (putAt 0x20000 ((encode i).map (leBytes 4 ·.toNat)).flatten paged)
def heldB (i : Instr) (h : QHold) : Bool := let s := ringed5 i h
  let x := (s.pkg 0).queue 5
  x.hold == some h && x.state == 2 && !(s.pkg 0).plat.d3hot && (tget (s.pkg 0).ctxs 1).any (fun c => !c.error && !c.killed) && (match s.ringPacket 0 5 with | .run j 2 => decide (j = i) | _ => false) && (pktOf i).isSome
theorem witness_held : (heldB (.wait false 77 0 0 0 0xFF 0 9) .wait && heldB (.wait true 77 0 0 0 0xFF 0 9) .drain && heldB (.wait true 77 0 0 0 0xFF 0 9) .admission) = true := by decide +kernel

/-! ### The host window, the debugger, the platform -/

/-- The package's windows answer; queue 5 belongs to function 1 with the control word c and the read pointer at the ring's end. -/
def ready (s : State) : State := { s.updPkg 0 (fun k => { k with plat := { k.plat with ready := true, stage := 4 } }) with agenda := [], cur := .none }
def ringQueue (ctl : Word) (st err : Nat) (h : Option QHold) : Queue := { idleQueue with ctl := ctl, basel := 0x20000, baseh := 0x01000000, rp := 0xFFFFFFFE, rd := 0xFFFFFFFE, wp := 2, hold := h, state := st, err := err, own := 1 }
def owned (x : Queue) : State := ready ((packetAt x [] paged).updPkg 0 (fun k => { k with ctxs := [(1, loadCtx), (2, { loadCtx with killed := true })] }))
/-- Rings of the smallest and the largest size and of one beyond; contexts that stand, are killed or absent; queues that read, stand
and are stopped (QueueRegisters). -/
theorem witness_queue_registers : [(ringQueue 0xC004 0 0 none, 0xC005), (ringQueue 0xC004 3 2 none, 0xC007), (ringQueue 0xC005 2 0 (some .wait), 0xC009), (ringQueue 0x10004 3 3 none, 0x10007), (ringQueue 0xC004 0 0 none, 0xC009), (ringQueue 0xB004 0 0 none, 0xB00D)].all (fun e =>
    let s := owned e.1
    let ctl : Word := e.2 &&& 0x1FFFF
    thas s.pkgs 0 && (s.pkg 0).plat.ready && !(s.pkg 0).plat.d3hot && decide (5 < Config.queues) && decide ((s.pkg 0).queue 5 = e.1) && e.1.own == 1 && vaOf (e.1.baseh ++ e.1.basel) % 2 ^ bits ctl 16 12 == 0 &&
      ((tget (s.pkg 0).ctxs (bits ctl 11 2)).isNone || decide (bits ctl 11 2 ≤ 2)) && (bits ctl 16 12 != 12 || (s.ringRead 0 5 (16 * (e.1.rd.toNat % 256)) 16).isSome)) = true := by decide +kernel

/-- A descriptor of 256 bytes at the physical address 0x100000, for a context of one package, with and without encryption. -/
def ctxDesc (flags : Nat) (pkgs : Byte) : List Byte := leBytes 8 0x200000 ++ leBytes 8 0x201000 ++ leBytes 8 0x220000 ++ leBytes 8 0x300000 ++ leBytes 4 64 ++ leBytes 4 0 ++ leBytes 8 0x10000000 ++ leBytes 8 0 ++ leBytes 4 7 ++ leBytes 4 0 ++
  leBytes 8 0x10040 ++ leBytes 4 0x17F3E ++ leBytes 4 flags ++ [pkgs] ++ List.replicate 175 0
def described (bs : List Byte) : State := let s := (owned idleQueue).updPkg 0 (fun k => { (k.updFn 1 (fun f => { f with ctxdpl := 0x100000 })) with ctxs := [(1, { loadCtx with killed := true })] })
  { s with mem := writeBytes s.mem (cellOf 0 0x100000) bs }
theorem witness_context_commands : [(ctxDesc 0 1, true), (ctxDesc 1 1, true), (ctxDesc 0 4, false), (ctxDesc 2 1, false)].all (fun e => let s := described e.1
    let d := CtxDesc.ofBytes (s.readPhys 0 0x100000 256).1
    !(s.readPhys 0 0x100000 256).2.1 && !(s.readPhys 0 d.bounds 4096).2.1 && !(s.readPhys 0 d.places 1024).2.1 &&
        thas s.pkgs 0 && (s.pkg 0).plat.ready && !(s.pkg 0).plat.d3hot && !((s.pkg 0).fn 1).busy && (tget (s.pkg 0).ctxs 1).any (fun c => c.killed && c.fn == 1) && !((s.pkg 0).recl 1).pending && areaOk s.part 0x100000 256 &&
      decide (d.flags = (if e.1 == ctxDesc 1 1 then 1 else d.flags)) && d.ok s.part (s.pkgs.map (fun e => e.1)) 0 ((s.pkg 0).coresInService s.part).length == e.2) = true := by decide +kernel
/-- A rewriting of the trap words that no handler holds up; an invalidation by the owner and by another function
(WindowCommandsComplete). -/
def rewriting (en : Word) : State := let s := ((ready paged).updPkg 0 (fun k => k.updFn 1 (fun f => { f with ctxdpl := 0x100000, busy := true, ctxcmd := 6, tlbBusy := true, tlbia := 1, tlbivl := 2 }))).updPkg 0 (fun k => k.updFn 2 (fun f => { f with tlbBusy := true, tlbia := 1 }))
  { s with mem := writeBytes s.mem (cellOf 0 0x100040) (leBytes 8 0x10040 ++ leBytes 4 en.toNat) }
theorem witness_window_commands : [(0x17F3E, true), (0x17F3F, false)].all (fun e => let s := rewriting e.1
    bits ((s.pkg 0).fn 1).ctxcmd 1 0 == 2 && ((s.pkg 0).fn 1).busy && (tget (s.pkg 0).ctxs (bits ((s.pkg 0).fn 1).ctxcmd 11 2)).any (fun c => c.fn == 1 && !c.killed) && areaOk s.part 0x100040 12 &&
      (s.pkg 0).groups.all (fun g => g.2.handler.isNone) && (wordOf ((s.readPhys 0 0x100040 12).1.drop 8) &&& 0xFFFE0001 == 0) == e.2 && !(s.readPhys 0 0x100040 12).2.1 && (s.pkg 0).ownerFn 1 == 1 && ((s.pkg 0).fn 2).tlbBusy) = true := by decide +kernel

/-- A page that an access of a resident, or of a saved, group waits for (FaultQueues). -/
def faultEntry : OLog := { id := 5, asid := 1, gid := 0, core := 0, kind := .notPresent, page := 3, write := false, waiting := true, accs := [{ id := 8, gid := 0, lane := 2, pc := 0x10000, words := (0, none), op := .store 5, bytes := 4, ptr := 0x0100000000030010, va := 0x30010, priv := false, acq := false, rel := false, scope := 0, sample := false, replayed := false }] }
def faulted (st : BlkState) (ok : Nat) : State := ((ready (loaded id)).updBlock 0 0 (fun b => { b with state := st })).updPkg 0 (fun k => { k.updFn 1 (fun f => { f with fltres := BitVec.ofNat 32 (2 + ok), fltrpl := 3 }) with olog := [faultEntry] })
theorem witness_fault_queues : [(BlkState.resident, 0), (.saved, 1), (.parked, 1)].all (fun e => let s := faulted e.1 e.2
    (s.pkg 0).olog == [faultEntry] && decide (faultEntry.gid ≤ noGroup) && (tget (s.pkg 0).ctxs 1).any (fun c => c.fn == 1) && bits ((s.pkg 0).fn 1).fltres 10 1 == 1 && (s.loc 0 0).any (fun l => l.grp.alive) && (s.pkg 0).cpWrites.isEmpty && (s.pkg 0).chan.deps.isEmpty && (s.pkg 0).queues.isEmpty && (s.pkg 0).chan.snd.isEmpty && (s.pkg 0).btes.isEmpty) = true := by decide +kernel

/-- One wait that has lasted, with its record written or not (HangsAndStalls); the same group in quadrant 0 for a stall sample. -/
def waiting (k : WaitKind) (hung : Bool) : State := ((ready (loaded id)).updPkg 0 (fun k => { k with aclk := 10 ^ 12, plat := { k.plat with wdctl := 1, smpctl := 0x10000, prbase := 0x400000, prsize := 12 } })).updGroup 0 0 (fun g => { g with holds := [{ kind := k, addr := 0x10000, lanes := 0xFF, since := 0, counted := none, wdog := 0, hung := hung, data := [] }] })
theorem witness_hangs : [(WaitKind.bar, true), (.table, false), (.pending, false)].all (fun e => let s := waiting e.1 e.2
    (s.loc 0 0).any (fun l => !l.grp.halted && l.grp.alive && l.blk.state == .resident && l.grp.core == 0 && l.grp.slot == 0 && l.grp.select.2.1 == 0x10000 && (s.pkg 0).olog.isEmpty && decide (65536 ≤ (s.pkg 0).arith) && decide (tgetD ((s.pkg 0).core 0).stalls 0 0 + 64 ≤ (s.pkg 0).arith)) &&
      decide (((s.pkg 0).plat.prwp.toNat + 32 + 2 ^ 32 - (s.pkg 0).plat.prrp.toNat) % 2 ^ 32 ≤ 2 ^ (s.pkg 0).plat.prsize.toNat) && decide (physOf s.part ((s.pkg 0).plat.prbase.toNat + 0) = .frame 0x400000)) = true := by decide +kernel

/-- A debugger attached to context 1 names thread 31 of the group, halted or not, with a stop already queued. -/
def debugged (halt busy : Bool) (item idx : Nat) : State := ((ready (loaded id)).updPkg 0 (fun k => { k.updFn 1 (fun f => { f with dbgctl := 0x401, dbgtgt := { n0 := 1, n1 := 0, n2 := 31 }, dbgBusy := busy, dbgsel := BitVec.ofNat 32 (65536 * item + idx) }) with
  ctxs := [(1, { loadCtx with stops := [{ name := Name3.zero, cause := 1, pc := 0, lanes := 1 }] })] })).updGroup 0 0 (fun g => { g with halted := halt, lanes := g.lanes.map (fun l => { l with v := [(127, 9)], p := 0x55, ff := 3 }), handler := some { lanes := 1, returned := 0, cause := 0x10, lane := 3, code := 5, tpc := 0x0001000000000040, taddr := 0x0200000000000007 } })
def attachedB (s : State) : Bool := thas s.pkgs 0 && (s.pkg 0).plat.ready && !(s.pkg 0).plat.d3hot && bit ((s.pkg 0).fn 1).dbgctl 10 && bits ((s.pkg 0).fn 1).dbgctl 9 0 == 1 && (tget (s.pkg 0).ctxs 1).any (fun c => c.fn == 1)
def targetB (s : State) : Bool := let t := ((s.pkg 0).fn 1).dbgtgt
  match (s.pkg 0).groups with
  | [(0, x)] => (tget (s.pkg 0).blocks x.blk).any (fun b => (tget (s.pkg 0).nodes b.node).any (fun m => m.asid == 1) && BitVec.ofNat 32 b.lid == t.n0 && b.idx == t.n1.toNat % 2 ^ 24 && bits t.n2 9 0 == 32 * x.gidx + 31 && bits t.n2 13 10 == 0) && x.alive && (x.lane 31).live && x.holds.isEmpty
  | _ => false
theorem witness_debug : [(true, false), (false, false), (true, true)].all (fun e => let s := debugged e.1 e.2 1 127
    attachedB s && targetB s && ((s.pkg 0).fn 1).dbgBusy == e.2 && (tget (s.pkg 0).groups 0).any (fun x => x.halted == e.1) && (tget (s.pkg 0).ctxs 1).any (fun c => !c.stops.isEmpty && decide (c.stops.length < Config.stopQueue) && c.haltedSince.isNone) && !(s.pkg 0).halted) = true := by decide +kernel
theorem witness_halted_state : [(1, 127), (1, 128), (2, 0), (3, 0), (3, 1), (4, 0), (0x0A, 1), (0x0A, 5)].all (fun e => let s := debugged true false e.1 e.2
    attachedB s && targetB s && bits ((s.pkg 0).fn 1).dbgsel 23 16 == e.1 && bits ((s.pkg 0).fn 1).dbgsel 15 0 == e.2 && (s.pkg 0).groups.all (fun g => g.2.halted && g.2.handler.isSome) && thas (s.pkg 0).clusters 0 && thas (s.pkg 0).nodes 0) = true := by decide +kernel

/-- Function 0 and another; an enabled and a disabled queue of the function; an invalidation in progress or not (WindowWrites). -/
theorem witness_window_writes : (let s := owned (ringQueue 0xC005 1 0 none)
    thas s.pkgs 0 && (s.pkg 0).plat.ready && !(s.pkg 0).plat.d3hot && !((s.pkg 0).fn 1).tlbBusy && !bit ((s.pkg 0).fn 1).dbgctl 10 && ((s.pkg 0).queue 5).own == 1 && ((s.pkg 0).queue 6).own != 1 && decide (31 < Config.controllers s.part)) = true := by decide +kernel

/-- A package with a die at 110 degrees and one at 109 (PlatformEvents). -/
theorem witness_platform : (let s := (loaded id).updPkg 0 (fun k => { k with plat := { k.plat with teltmp := 0x6D6E6D6E } })
    thas s.pkgs 0 && bits (s.pkg 0).plat.teltmp 7 0 == 110 && bits (s.pkg 0).plat.teltmp 15 8 == 109 && decide (1 < Config.computeDies s.part) && Memory.wf s.mem) = true := by decide +kernel

/-! ### Links -/

def packet1 (hops since : Nat) : Msg := { src := .chan 1, dst := .chan 0, asid := 1, inc := 1, key := noKey, pa := 0, body := .halt, check := 0, scope := 0, hops := hops, since := since }
/-- Port 0 of package 0 leads to port 0 of package 1; port 1 likewise; each end as a and b change it. -/
def linked (a b : Port → Port) : State := let s := (ready (loaded id)).updPkg 1 (fun k => { k with plat := { k.plat with ready := true, stage := 4 } })
  let e := { Port.fresh with up := true, peer := 1, peerPort := 0 }
  { (s.updPkg 0 (fun k => { k with ports := [(0, a e), (1, { e with peerPort := 1 })] })).updPkg 1 (fun k => { k with ports := [(0, b { e with peer := 0 }), (1, { e with peer := 0, peerPort := 1 })] }) with now := 10 ^ 9 }
def ends (s : State) : Port × Port := ((s.pkg 0).port 0, (s.pkg 1).port 0)
def linkedB (s : State) : Bool := match tget (s.pkg 0).ports 0, tget (s.pkg 1).ports 0 with
  | some a, some b => a.peer == 1 && a.peerPort == 0 && b.peer == 0 && b.peerPort == 0
  | _, _ => false
def flit1 (sq : Nat) : Flit := { seq := sq, slot := false, marker := false, replay := false, ack := 0, credits := 0, iv := 0, pkts := [] }
/-- A flit at the last sequence number, with and without encryption (LinkEvents). -/
theorem witness_flit : [false, true].all (fun enc => let s := linked (fun a => { a with enc := enc, rxSeq := 2 ^ 24 - 1 }) (fun b => { b with enc := enc, txSeq := 2 ^ 24 - 1, lkcnt := 0xFFFFFFFE, egress := [packet1 1 0] })
    linkedB s && (ends s).1.up && (ends s).2.unsent == 0 && (ends s).2.replay.isEmpty && (ends s).2.egress == [packet1 1 0] && (ends s).2.part == 0 && decide ((packet1 1 0).bytes ≤ 228) && !(ends s).2.switching && (ends s).1.rxSeq == (ends s).2.txSeq && !(ends s).1.wantReplay) = true := by decide +kernel
/-- A replay asked for, a flit that has failed eight times, a link with empty queues, one that is down after two failed trainings,
between equal parts and unequal ones, one of 2^31 flits, one of 2^32 - 1 whose packet can take another port. -/
def replayAsked : State := linked (fun a => { a with replay := [flit1 3, flit1 4], unsent := 1, repl := 0xFFFFFFFE }) (fun b => { b with wantReplay := true, fails := 8, rxSeq := 2 ^ 24 - 1 })
def fallen : State := linked (fun a => { a with up := false, train := 2 }) (fun b => { b with up := false })
def worn (n : Nat) (m : List Msg) : State := linked (fun a => { a with enc := true, lkcnt := n, egress := m }) (fun b => { b with enc := true })
theorem witness_links : (linkedB replayAsked && decide ((ends replayAsked).1.unsent < (ends replayAsked).1.replay.length) && decide (8 ≤ (ends replayAsked).2.fails) && (ends replayAsked).1.replay.all (fun f => !f.marker) &&
    linkedB (linked id id) && (ends (linked id id)).1.egress.isEmpty && (ends (linked id id)).2.egress.isEmpty && linkedB fallen && !(ends fallen).1.up && (ends fallen).1.train == 2 && ((fallen.pkg 1).plat.ready && (fallen.pkg 0).plat.ready) && (ends fallen).1.egress.isEmpty && !(ends fallen).1.inReset && !(ends fallen).1.retired && !(ends fallen).2.inReset && !(ends fallen).2.retired &&
    (fallen.pkg 0).part == (fallen.pkg 1).part && (let s := fallen.updPkg 1 (fun k => { k with part := .tz9632 })
      linkedB s && (s.pkg 0).part != (s.pkg 1).part) &&
    linkedB (worn (2 ^ 31) []) && !(ends (worn (2 ^ 31) [])).1.nxv && !(ends (worn (2 ^ 31) [])).1.kreq && linkedB (worn 0xFFFFFFFF [{ packet1 1 0 with dst := .chan 1 }]) && (ends (worn 0 [])).1.part == 0 && decide (1 < Config.ports (worn 0 []).part) && (tget ((worn 0 []).pkg 0).ports 1).any (fun a => a.peer == 1 && a.up && !a.enc && a.egress.isEmpty && !a.inReset && !a.retired)) = true := by decide +kernel
theorem witness_discard : (decide ((packet1 1 0).since + 65536 * Config.tickPort < (linked id id).now) && decide (¬ (packet1 1 (10 ^ 9)).since + 65536 * Config.tickPort < (linked id id).now) &&
    decide ((packet1 1 0).since + 65536 * Config.tickCp < (linked id id).now)) = true := by decide +kernel

/-! ### Coherence -/

def ck : SectorKey := { home := 0, asid := 1, sec := 0x800 }
def cpa : Nat := 0x100000
def dk : L2Sec := { cnt := 64, own := true, ser := 15, dv := true, dirty := true, wr := true, psn := false, pa := cpa, data := 0x1234 }
/-- A message between the home of the sector and the slice of die 2, with the die as f leaves it. -/
def talk (src dst : Agent) (b : Body) (s : State) : State :=
  let m : Msg := { src := src, dst := dst, asid := 1, inc := 1, key := ck, pa := cpa, body := b, check := 0, scope := 3, hops := 1, since := 0 }
  { s with cur := .message { m with check := m.code } }
/-- Every controller knows the page of these sectors, cacheable or not. -/
def known (nc : Bool) (s : State) : State := s.updPkg 0 (fun k => { k with ctrls := (List.range 32).map (fun c => (c, { k.ctrl c with
  tlb := [{ asid := 1, vbase := 0x20000, size := 65536, pabase := cpa, wr := true, nc := nc }] })) })
def coherentAt (nc : Bool) (f : Die → Die) (g : Ctrl → Ctrl) (h : HomeSec) : State := { (((known nc ((loaded id).updDie 0 2 f)).updCtrl 0 (ctrlOf cpa) g).updPkg 0 (fun k => (k.setHome cpa h))).updPkg 0 (fun k => { k with aclk := 10 ^ 16, plat := { k.plat with scrubAct := true } }) with agenda := [], now := 10 ^ 18 }
def coherent : (Die → Die) → (Ctrl → Ctrl) → HomeSec → State := coherentAt false
/-- The page of the sector is where its home translates it (Mapped). -/
def mappedB (s : State) (nc : Bool) : Bool := match s.translate 0 1 (keyVa ck) false with
  | (.frame _ lin _ u, t) => lin / 64 == cpa / 64 && u == nc && decide (t = s)
  | _ => false
def homeFull : HomeSec := { mts := 1, ser := 15, psn := false, cnt := 64 }
def atSlice (f : Die → Die) (b : Body) : State := talk (homeAt ck cpa) (slice 0 2 ck) b (coherent f id homeFull)
def atSliceB (s : State) : Bool := messageB s (fun m => decide (m.dst = slice 0 2 ck)) && thas s.pkgs 0 && s.strikes.isEmpty && (tget ((s.pkg 0).die 2).reqs ck).isNone && (s.pkg 0).pends.isEmpty
def leaseOf (act : Nat) : Lease := { act := act, req := .die 0 1 5, write := true, since := 0, inc := 1 }
def req1 (step : Nat) (write : Bool) : Req := { write := write, step := step, since := 0, num := 6, inc := 1, pa := cpa, wr := true, responders := [], scope := 2, act := none }
def tokB (cnt : Nat) (own : Bool) (ser : BitVec 4) (data : Option SectorData) : Body := .tok cnt own own ser data true true
/-- A TOK of one and of all tokens where the die has none, has some and has those of another serial; GETS at two tokens; PACT for
another die and for this one; RECALL (SliceMessages). -/
theorem witness_slice : [(fun x => x, tokB 1 false 15 none), (fun (x : Die) => { x with l2 := [(ck, { dk with cnt := 2 })] }, tokB 62 true 15 (some 7)), (fun x => { x with l2 := [(ck, { dk with cnt := 2 })] }, tokB 64 true 14 (some 7)),
      (fun x => { x with l2 := [(ck, { dk with cnt := 2 })] }, Body.gets (.die 1 3 4) 5), (fun x => { x with l2 := [(ck, { dk with cnt := 1 })] }, .getx .home 5), (fun x => { x with leases := [(ck, leaseOf 8)] }, .pact (.die 1 3 4) true 8),
      (fun x => { x with leases := [(ck, leaseOf 8)] }, .pact (mine 0 2 ck) true 9), (fun x => { x with l2 := [(ck, dk)] }, .recall 0 false), (fun x => { x with recalls := [(ck, { ser := 0, wipe := false, since := 0 })] }, .recall 0 false)].all (fun e => atSliceB (atSlice e.1 e.2)) = true ∧
    (messageB (atSlice (fun x => { x with reqs := [(ck, req1 3 false)], leases := [(ck, leaseOf 8)] }) (.pact (mine 0 2 ck) true 9)) (fun m => decide (m.dst = slice 0 2 ck))) = true := by decide +kernel
/-- A die whose request, at each of its steps, with an access that waits for it, lease and recall entry are of age (SliceTimers); a TOK
of an incarnation that has gone. -/
def waiting1 : Pend := { acc := { id := 8, gid := 0, lane := 2, pc := 0x10000, words := (0, none), op := .load 4 1 true false, bytes := 4, ptr := 0x0100000000020040, va := 0x20040, priv := false, acq := false, rel := false, scope := 0, sample := false, replayed := false }, core := 128, die := 2, key := { ck with sec := 0x801 }, pa := cpa + 64, write := false, txn := none, sent := 0, sends := 1, fenced := none }
def aged (step : Nat) : State := (fun s => s.updPkg 0 (fun k => { k with pends := [waiting1] })) <| coherent (fun x => { x with l2 := [(ck, dk)], reqs := [({ ck with sec := 0x801 }, { req1 step true with pa := cpa + 64 })], leases := [({ ck with sec := 0x802 }, leaseOf 3)], recalls := [({ ck with sec := 0x803 }, { ser := 3, wipe := true, since := 0 })] }) id homeFull
def staleTok : State := match (atSlice id (tokB 3 true 2 (some 7))).cur with | .message m => { atSlice id (tokB 3 true 2 (some 7)) with cur := .message { m with inc := 200, check := { m with inc := 200 }.code } } | _ => aged 1
theorem witness_slice_timers : [1, 2, 3].all (fun n => let s := aged n
    (tget ((s.pkg 0).die 2).l2 ck).isSome && (tget ((s.pkg 0).die 2).leases ck).isNone && (tget ((s.pkg 0).die 2).reqs { ck with sec := 0x801 }).any (fun r => r.act.isNone && r.step == n && decide (r.since + 32768 ≤ (s.pkg 0).arith)) &&
    (tget ((s.pkg 0).die 2).leases { ck with sec := 0x802 }).any (fun l => decide (l.since + 8192 ≤ (s.pkg 0).arith)) && (tget ((s.pkg 0).die 2).recalls { ck with sec := 0x803 }).any (fun r => decide (r.since + 2 * Config.lifetime ≤ s.now)) &&
    (s.pkg 0).waitingAt 2 { ck with sec := 0x801 } == [waiting1] && decide (s.retarget 0 waiting1 = s) && (match (s.translate 0 1 0x20040 false).1 with | .frame _ lin _ _ => lin / 64 * 64 == cpa + 64 | _ => false) && s.strikes.isEmpty) = true ∧
    (match staleTok.cur with | .message m => staleTok.stale m && m.checkOk | _ => false) = true := by decide +kernel

def atHome (g : Ctrl → Ctrl) (h : HomeSec) (b : Body) : State := talk (slice 0 2 ck) (homeAt ck cpa) b (coherent id g h)
def atHomeB (s : State) : Bool := messageB s (fun m => decide (m.dst = homeAt ck cpa) && m.src != .none) && thas s.pkgs 0 && s.strikes.isEmpty && s.dramErrs.isEmpty && !bit (s.pkg 0).plat.trctl 0
def asking (d : Nat) (w : Bool) : PReq := { req := .die 0 d (keySlice ck), write := w, inc := 1, scope := 0 }
def active1 (a : PReq) : PSec := { key := ck, pa := cpa, active := some a, act := 4, started := 0, lastPact := 0, lastRefresh := 0, round := [], queue := [], consol := false, own := 3, ownOwner := true }
def recr1 (wipe : Bool) (stage : Nat) (rs : List (Nat × Nat)) (d : Option SectorData) (held : Bool) : Recr := { key := ck, pa := cpa, wipe := wipe, ser := 0, held := held, stage := stage, started := 0, lastRecall := 0, replied := rs, newest := d, psn := false, inc := 1 }
/-- The messages of a home with all, some and none of the tokens, with and without an activation, and in a recreation
(HomeMessages). -/
theorem witness_home : [(homeFull, tokB 1 false 14 none), ({ homeFull with mts := 2, cnt := 63 }, tokB 1 false 15 none), ({ homeFull with mts := 0, cnt := 0 }, tokB 63 false 15 none), ({ homeFull with mts := 0, cnt := 0 }, tokB 64 true 15 (some 9)),
      (homeFull, .gets (.die 0 2 5) 7), ({ homeFull with mts := 3, cnt := 1 }, .getx (.die 0 2 5) 7), ({ homeFull with mts := 0, cnt := 0 }, .preq (.die 0 2 5) true)].all (fun e => atHomeB (atHome id e.1 e.2) && ((atHome id e.1 e.2).pkg 0).homeSec cpa == e.1 && mappedB (atHome id e.1 e.2) false && decide ((atHome id e.1 e.2).partialUsed 0 (ctrlOf cpa) < Config.pttEntries)) = true ∧
    [Body.preq (.die 0 3 1) true, .preq (asking 1 true).req false, .pdeact (asking 1 true).req 4].all (fun b => let s := atHome (fun t => { t with psecs := [active1 (asking 1 true)] }) { homeFull with mts := 0, cnt := 0 } b
      atHomeB s && mappedB s false && ((s.pkg 0).ctrl (ctrlOf cpa)).psecs == [active1 (asking 1 true)]) = true ∧
    [[], [(0, 0), (0, 1), (0, 3)]].all (fun rs => let s := atHome (fun t => { t with recrs := [recr1 false 1 rs none false] }) { homeFull with mts := 0, cnt := 0 } (.rrep 0 2 0 false (some 5) false)
      atHomeB s && (s.domainDies 0 1).all (fun e => decide (e ∈ rs ++ [(0, 2)])) == !rs.isEmpty) = true := by decide +kernel
/-- Activations and recreations of age, at each stage; a TOK in the absorb buffer (HomeTimers). -/
def held1 : List Msg := [{ src := slice 0 2 ck, dst := homeAt ck cpa, asid := 1, inc := 1, key := ck, pa := cpa + 8, body := .gets (.die 0 2 5) 7, check := 0, scope := 0, hops := 0, since := 0 }]
def homeAged (ps : List PSec) (rs : List Recr) (ab : List Absorbed) : State := coherent id (fun t => { t with psecs := ps, recrs := rs, absorb := ab, wipeReqs := held1 }) { homeFull with mts := 2, cnt := 5 }
theorem witness_home_timers : (let s := homeAged [active1 (asking 1 true)] [] []
      thas s.pkgs 0 && s.strikes.isEmpty && s.dramErrs.isEmpty && decide (0 + 524288 ≤ s.memClk) && (tget ((s.pkg 0).ctrl (ctrlOf cpa)).lastRecr (cpa / 64)).isNone && decide (ctrlOf cpa < Config.controllers s.part) && (s.pkg 0).plat.scrubAct &&
      decide (0 + (s.pkg 0).plat.scrub * 3600 * 750000000 ≤ s.memClk)) = true ∧
    [recr1 false 1 [(0, 1)] none false, recr1 false 2 [] (some 3) false, recr1 false 2 [] none true, recr1 false 2 [] none false, recr1 true 1 [(0, 0), (0, 1), (0, 2), (0, 3)] (some 3) false, recr1 true 1 [(0, 0), (0, 1), (0, 2), (0, 3)] none false].all (fun r => let s := homeAged [] [r] []
      ((s.pkg 0).ctrl (ctrlOf cpa)).recrs == [r] && decide (r.started + 3 * Config.lifetime ≤ s.now) && decide (r.lastRecall + 16384 ≤ s.memClk) && (!r.wipe || (s.domainDies 0 1).all (fun e => decide (e ∈ r.replied))) && held1.all (fun m => m.pa / 64 == cpa / 64)) = true ∧
    (let s := homeAged [] [] [{ msg := { (held1.headD (packet1 0 0)) with pa := cpa, body := tokB 3 false 15 none }, write := true }]
     ((s.pkg 0).homeSec cpa).count + 3 != 64 && ((s.pkg 0).homeSec cpa).mts != 0) = true := by decide +kernel

def kept1 : ReplyEnt := { pkg := 1, core := 3, txn := 9, result := [5], st := 0, since := 0 }
/-- Uncached accesses and far atomics from a core of another package, to an uncached and to a cacheable page, clean and poisoned, and to
the host with and without AtomicOps; one answered already (UncachedAtHome). -/
def fromFar (nc psn : Bool) (pa : Nat) (b : Body) (rs : List ReplyEnt) : State := let s := (coherentAt nc id (fun t => { t with replies := rs }) { homeFull with psn := psn }).updPkg 0 (fun k => { k with plat := { k.plat with rootAtomics := psn } })
  let m : Msg := { src := .core 1 3, dst := .ctrl 0 (ctrlOf cpa), asid := 1, inc := 1, key := ck, pa := pa, body := b, check := 0, scope := 3, hops := 1, since := 0 }
  { s with cur := .message { m with check := m.code }, mem := writeBytes (writeBytes s.mem (cellOf 0 cpa) (List.replicate 64 3)) (hostCell (2 ^ 40 + 64)) [9, 8, 7, 6, 5, 4, 3, 2] }
theorem witness_uncached : [(cpa, true, false), (cpa, false, true), (2 ^ 40 + 64, false, true), (2 ^ 40 + 64, false, false)].all (fun e => [Body.uncachedRead 3 9 0x20008 4, .uncachedWrite 3 9 0x20008 [1, 2, 3], .farAtomic 3 9 0x20008 .add true [(0, (5, 0)), (31, (7, 0))] true].all (fun b => let s := fromFar e.2.1 e.2.2 e.1 b []
    messageB s (fun m => decide (m.dst = .ctrl 0 (ctrlOf cpa)) && m.src.pkg == 1) && thas s.pkgs 0 && !bit (s.pkg 0).plat.trctl 0 && s.strikes.isEmpty && s.dramErrs.isEmpty && ((s.pkg 0).ctrl (ctrlOf cpa)).waits.isEmpty && ((s.pkg 0).homeSec cpa).mts == 1 && ((s.pkg 0).homeSec cpa).psn == e.2.2 && (s.pkg 0).plat.rootAtomics == e.2.2 && mappedB s e.2.1 && ((s.pkg 0).ctrl (ctrlOf cpa)).psecs.isEmpty && ((s.pkg 0).ctrl (ctrlOf cpa)).recrs.isEmpty && ((s.pkg 0).ctrl (ctrlOf cpa)).replies.isEmpty &&
      decide (physOf s.part cpa = .frame cpa) && decide (physOf s.part (2 ^ 40 + 64) = .host (2 ^ 40 + 64)))) = true ∧
  (let s := fromFar false false cpa (.uncachedWrite 3 9 0x20008 [1]) [kept1]
   messageB s (fun m => m.src.pkg == kept1.pkg) && ((s.pkg 0).ctrl (ctrlOf cpa)).replies == [kept1] && decide (kept1.since + 2 * Config.lifetime ≤ s.now)) = true := by decide +kernel

/-- An access of core 0 that waits for transaction 9: its reply comes, is missing for the sixteenth time, or is not expected
(CoreTransactions). -/
def access (op : AccOp) : Acc := { id := 8, gid := 0, lane := 2, pc := 0x10000, words := (0, none), op := op, bytes := 4, ptr := 0x010000000002003C, va := 0x2003C, priv := false, acq := false, rel := false, scope := 0, sample := false, replayed := false }
def pend1 (op : AccOp) (sends : Nat) : Pend := { acc := access op, core := 0, die := 0, key := ck, pa := cpa, write := false, txn := some 9, sent := 0, sends := sends, fenced := none }
def atCore (qs : List Pend) (txn : Nat) : State := talk (homeAt ck cpa) (.core 0 0) (.uncachedReply txn [1, 2, 3, 0x84] 0) ((coherentAt true id id homeFull).updPkg 0 (fun k => { k with pends := qs }))
theorem witness_core_transactions : [pend1 (.load 4 1 true false) 1, pend1 (.load 4 0 true false) 16, pend1 (.store 5) 17].all (fun q => let s := atCore [q] 9
    messageB s (fun m => decide (m.dst = .core 0 0)) && (s.pkg 0).pends == [q] && ((s.pkg 0).core 0).cb.isEmpty && (s.loc 0 0).any (fun l => l.clu.ver.isNone && l.clu.committing.isNone) && decide (q.acc.va % 64 + q.acc.bytes ≤ 64) &&
      decide (q.sent + 16384 ≤ (s.pkg 0).arith) && (s.homeOf 0 q.key.asid q.acc.va).isSome && decide (s.retarget 0 q = s) && (s.pkg 0).cores.all (fun e => e.2.cb.isEmpty)) = true ∧ messageB (atCore [] 9) (fun m => decide (m.dst = .core 0 0)) = true := by decide +kernel
def cbOf (bad : Bool) (sent : Option Nat) : CbSec := let x : CbSec := { key := ck, pa := cpa, mask := 0xFF, data := 0x1122334455667788, poisoned := false, sent := sent, check := 0 }
  { x with check := if bad then x.code 1 + 1 else x.code 1 }
def buffered (x : CbSec) : State := (coherent id id homeFull).updPkg 0 (fun k => { k with cores := [(3, { k.core 3 with cb := [x] })], dies := [(0, { k.die 0 with l2 := [(ck, dk)] })] })
theorem witness_combining_buffer : [(true, none), (true, some 0), (false, none), (false, some 0)].all (fun e => let x := cbOf e.1 e.2
    let s := buffered x
    decide (x.check = x.code (s.ctxInc 0 1)) == !e.1 && ((s.pkg 0).core 3).cb == [x] && s.strikes.isEmpty && (s.pkg 0).pends.isEmpty && tget ((s.pkg 0).die 0).l2 ck == some dk && dk.cnt == 64 && dk.dv && dk.wr && (tget ((s.pkg 0).die 0).leases ck).isNone && (tget ((s.pkg 0).die 0).recalls ck).isNone && decide (1024 ≤ (s.pkg 0).arith)) = true := by decide +kernel

/-! ### Scheduling -/

/-- The loaded unit alone in its package: its node, cluster and block, and its group where one runs. -/
def unit (f : Node → Node) (x : Cluster → Cluster) (b : Block → Block) (gs : Tab Nat Group) (s : State) : State := { s.updPkg 0 (fun k => { k with
  nodes := [(0, f loadNode)], clusters := [(0, x loadCluster)], blocks := [(0, b loadBlock)], groups := gs, slices := [] }) with agenda := [] }
def oneUnitB (s : State) : Bool := (s.pkg 0).clusters.map (fun e => (e.1, e.2.blocks, e.2.node)) == [(0, [0], 0)] && (s.pkg 0).blocks.map (fun e => (e.1, e.2.cluster, e.2.node)) == [(0, 0, 0)] &&
  (tget (s.pkg 0).nodes 0).any (fun n => n.asid == 1) && (s.pkg 0).nodes.all (fun e => e.1 == 0 || e.2.asid != 1) && (s.pkg 0).slices.isEmpty && thas (s.pkg 0).ctxs 1 && s.strikes.isEmpty
def idleB (s : State) : Bool := (s.pkg 0).pends.isEmpty && (s.pkg 0).olog.isEmpty && (s.pkg 0).blocks.all (fun b => ((s.pkg 0).core b.2.core).cb.isEmpty && b.2.stream.isEmpty && b.2.held.isEmpty) &&
  (s.pkg 0).nodes.all (fun n => !n.2.desc.fused) && (s.pkg 0).cores.all (fun e => e.2.eng.queue.isEmpty && e.2.eng.run.isNone) && (s.pkg 0).btes.all (fun e => e.2.isEmpty) && !(s.pkg 0).depositLeaves 1
/-- Another context of the package with a node that is ready. -/
def rival : Node := { loadNode with nid := 1, asid := 2, ord := 1, started := [] }
def sliced (r fault : Nat) (two : Bool) : State := let s := unit (fun n => { n with desc := { n.desc with fault := fault }, rsum := 4000, rcnt := 4 }) id (fun b => { b with r := r }) [(0, loadGroup)] (loaded id)
  { s.updPkg 0 (fun k => { k with served := some 1, aclk := 10 ^ 12, ctxs := if two then [(1, loadCtx), (2, loadCtx)] else [(1, loadCtx)], nodes := if two then k.nodes ++ [(1, rival)] else k.nodes }) with now := 10 ^ 12 }
/-- A slice that has ended with and without another context: a unit past and short of its drain threshold, young and not; units that
drain and are saved (TimeSlices). -/
theorem witness_time_slice : [sliced 3600 2 true, sliced 100 1 true, sliced 1000 1 true, sliced 100 0 true].all (fun s =>
    oneUnitB s && (s.pkg 0).served == some 1 && decide ((s.pkg 0).sliceAt + loadCtx.weight * Config.tickCp ≤ s.now) && (s.pkg 0).nextServed (some 1) == some 2 && (s.pkg 0).blocks.all (fun b => b.2.state == .resident) && (s.pkg 0).clusters.all (fun c => !c.2.endCommit) &&
      (s.pkg 0).groups.all (fun g => !g.2.halted && g.2.alive && g.2.blk == 0)) = true ∧ (oneUnitB (sliced 0 0 false) && ((sliced 0 0 false).pkg 0).ctxs.map (fun e => e.1) == [1]) = true := by decide +kernel
def leaving (st : BlkState) : State := (unit id id (fun b => { b with state := st }) [(0, loadGroup)] (loaded id)).updPkg 0 (fun k => { k with aclk := 10 ^ 12 })
theorem witness_leaving : [BlkState.draining, .saving].all (fun st => oneUnitB (leaving st) && idleB (leaving st) && decide (65536 ≤ ((leaving st).pkg 0).arith) && ((leaving st).pkg 0).clusters.all (fun c => c.2.committing.isNone && decide (c.2.decided = 0))) = true := by decide +kernel

/-- An unstarted launch of the served context, of one block and of many; a block that is queued on its core, with no group and with
32 (DispatchAndStart). -/
def dispatching (nx : Nat) (f : Desc → Desc) : State := ready ((loaded id).updPkg 0 (fun k => { k with nodes := [(0, { loadNode with started := [], nx := nx, desc := f loadNode.desc })], clusters := [], blocks := [], groups := [], served := some 1 }))
theorem witness_dispatch : [dispatching 1 id, dispatching 65535 (fun d => { d with groups := 32, scratch := 393216, cluster := 1, fault := 1 })].all (fun s => (s.pkg 0).served == some 1 && (tget (s.pkg 0).ctxs 1).any (fun c => !c.error && !c.killed && c.haltedSince.isNone) && (s.pkg 0).plat.ready &&
    (s.pkg 0).plat.deadDies.isEmpty && s.strikes.isEmpty && (s.pkg 0).cores.isEmpty && (s.pkg 0).slices.isEmpty && (s.pkg 0).nodes.all (fun e => e.2.asid == 1 && e.2.kind == .launch && e.2.status.isNone && !e.2.cancelled && e.2.waitsFor.isEmpty && e.2.edges.isEmpty && e.2.started.isEmpty &&
      decide (1 ≤ e.2.desc.groups) && decide (e.2.desc.groups ≤ 32) && decide (e.2.desc.scratch ≤ Config.scratchBytes) && e.2.desc.fault != 2 && !e.2.desc.dieres) && decide (3 < Config.computeDies s.part)) = true := by decide +kernel
def starting (groups : Nat) : State := (unit (fun n => { n with desc := { n.desc with groups := groups, fair := 64 } }) id (fun b => { b with state := .queued, core := 65 }) [] (loaded id)).updPkg 0 (fun k => { k with cores := [(65, { k.core 65 with queue := [0] })] })
theorem witness_start : [1, 32].all (fun n => let s := starting n
    oneUnitB s && idleB s && ((s.pkg 0).core 65).queue == [0] && ((s.pkg 0).core 65).retiredQuads.isEmpty && (s.pkg 0).groups.isEmpty && (s.pkg 0).blocks.all (fun b => b.2.state == .queued && b.2.tiles.isEmpty && b.2.core == 65)) = true := by decide +kernel

/-- Core 1's victim has two blocks queued, or one, or has been retired; a fused launch has a block of its own in the octet (Steals). -/
def victimOf (s : State) (core : Nat) : Nat := let x1 := lfsrStep ((s.pkg 0).core core).lfsr
  core / 64 * 64 + (if x1.toNat % 64 = core % 64 then lfsrStep x1 else x1).toNat % 64
def stealing (two wait : Bool) : State := let s := unit id id (fun b => { b with state := .queued, core := 5 }) [] (loaded id)
  let v := victimOf s 1
  s.updPkg 0 (fun k => { k with cores := [(v, { k.core v with queue := if two then [7, 0] else [0] })] ++ (if wait then [(1, { k.core 1 with stealing := true })] else []), blocks := [(0, { loadBlock with state := .queued, core := v }), (7, { loadBlock with state := .queued, core := v })] })
theorem witness_steal : [stealing true false, stealing false false, stealing false true].all (fun s => let y := (s.pkg 0).core 1
    victimOf s 1 != 1 && !y.retired && y.queue.isEmpty && y.retiredQuads.isEmpty && (s.pkg 0).blocks.all (fun e => e.2.core != 1 && e.2.state == .queued && e.2.tiles.isEmpty) && (s.pkg 0).groups.isEmpty && ((s.pkg 0).core (victimOf s 1)).queue.getLast? == some 0 && thas (s.pkg 0).nodes 0 &&
      (s.pkg 0).plat.deadDies.isEmpty && decide (y.stealAt ≤ (s.pkg 0).arith) && decide (loadNode.desc.cluster ≤ 1)) = true ∧
    (let s := stealing true false
     let t := (s.updCore 0 (victimOf s 1) (fun c => { c with retired := true })).updPkg 0 (fun k => { k with
       nodes := tmod k.nodes 0 (fun n => { n with desc := { n.desc with fused := true } }), blocks := k.blocks ++ [(8, { loadBlock with state := .queued, core := 5 })] })
     ((t.pkg 0).core (victimOf s 1)).retired && ((t.pkg 0).core (victimOf s 1)).queue.length == 2 && (t.pkg 0).blocks.all (fun e => e.2.core / 8 != 0 || e.2.node == 0) && (t.pkg 0).nodes.any (fun e => e.2.desc.fused) &&
       (t.pkg 0).blocks.any (fun e => e.2.core / 8 == 0)) = true := by decide +kernel

/-- A unit whose group has waited for long, with room in the pool and without; a hold that counts toward a slice for other lanes, outside of a
slice and in one that the highest lanes have (ParkingAndFairness). -/
def heldGroup (k : WaitKind) (len cnt : Nat) : Group := { loadGroup with lanes := (List.range 32).map (fun n => { (loadGroup.lane n) with pc := BitVec.ofNat 56 (loadVa + 64 * (n / 8)) }), fair := { len := len, cnt := cnt, slice := false, set := 0, n := 0 }, holds := [{ kind := k, addr := BitVec.ofNat 56 loadVa, lanes := 0xFF, since := 0, counted := some 10, wdog := 0, hung := false, data := [] }] }
def parking (pool len cnt clk : Nat) : State := let s := unit id id id [(0, heldGroup .bxw len cnt)] (loaded id)
  s.updPkg 0 (fun k => { k with aclk := clk * 21000, ctxs := [(1, { loadCtx with poolKiB := pool })] })
theorem witness_parking : [parking 917 0 0 200000, parking 916 64 3 200000, parking 916 64 3 170].all (fun s => oneUnitB s && idleB s && (match (s.pkg 0).groups with
    | [(0, gr)] => gr.alive && !gr.halted && gr.handler.isNone && !gr.fair.slice && gr.select.2.1 == BitVec.ofNat 56 loadVa && (gr.live &&& ~~~ gr.select.2.2) == 0xFFFFFF00
    | _ => false) && (s.pkg 0).blocks.all (fun b => b.2.state == .resident) && (s.pkg 0).groups.all (fun g => g.2.select.1 == g.2) && (s.pkg 0).clusters.all (fun c => decide (c.2.parkTest ≤ (s.pkg 0).arith)) && (tget (s.pkg 0).nodes 0).any (fun n => !n.desc.dieres)) = true ∧
    (let gr := { heldGroup .bar 64 3 with fair := { len := 64, cnt := 3, slice := true, set := 0xFF000000, n := 5 }, holds := ((heldGroup .bar 64 3).holds.map (fun h => { h with addr := BitVec.ofNat 56 (loadVa + 192), lanes := 0xFF000000 })) }
     let s := unit id id id [(0, gr)] (loaded id)
     oneUnitB s && gr.select.1 == gr && gr.holds.all (fun h => gr.select.2.1 == h.addr) && (gr.live &&& ~~~ gr.select.2.2) == 0x00FFFFFF && below 24 (fun n => decide ((gr.lane n).pc ≤ gr.select.2.1))) = true := by decide +kernel

/-- A block whose group has ended, the last one of its node and not; a commit with nothing left (BlockAndCommitEnd). -/
def ended (nx : Nat) (com : Bool) : State := unit (fun n => { n with nx := nx, done := [5] }) (fun c => { c with committing := if com then some { secs := [], log := [] } else none, discards := 3 }) (fun b => { b with r := 70 })
  [(0, { loadGroup with lanes := loadGroup.lanes.map (fun l => { l with live := com }) })] (loaded id)
theorem witness_block_end : [(2, false), (3, false), (3, true)].all (fun e => let s := ended e.1 e.2
    oneUnitB s && idleB s && (s.pkg 0).nodes.length == 1 && (s.pkg 0).groups.all (fun g => g.2.alive == e.2 && !g.2.halted && g.2.deferred.isEmpty) && (s.pkg 0).nodes.all (fun n => !n.2.cancelled && n.2.status.isNone && n.2.report == 0 && !n.2.done.contains 0 && n.2.kind == .launch && n.2.desc.fault != 2) && (s.pkg 0).clusters.all (fun c => c.2.committing.isSome == e.2 && !c.2.endCommit && c.2.discardAfter.isNone) && ((s.pkg 0).queue 0).openP.isEmpty && ((s.pkg 0).queue 0).openJ.isEmpty && ((s.pkg 0).queue 0).openG.isEmpty) = true := by decide +kernel

/-! ### The machine -/

/-- What a fetch reads at a word of the code. -/
def fetchB (s : State) (l : Loc) (a : Addr) : Bool := match boundOf l.ctx l.node l.fetchRid with
  | some (.global, b) => b.ex && decide (b.base ≤ a.toNat) && decide (a.toNat + 3 ≤ b.limit) && (s.l2 l.p l.die (s.keyOf l.p l.asid a.toNat)).any (fun e => e.dv && !e.psn)
  | _ => false
def calmPod (s : State) : Bool := s.pkgs.all (fun e => (s.pkg e.1).calm)
/-- The state of the host's loader runs a word of one and of two (StepRunsDecoded), at the last words of a sector as well. -/
def moved (s : State) : State := s.updGroup 0 0 (fun g => { g with lanes := g.lanes.map (fun l => { l with pc := l.pc + 60 }) })
theorem witness_step_issue : [(State.reset.withFetchWord 32 0x08030208).loc 0 0, (moved (State.reset.withFetchWord 32 0)).loc 0 0].all (fun o => o.any (fun l => l.blk.state == .resident && !l.grp.halted && !l.ctx.error && !l.ctx.killed && l.grp.step.isNone && l.grp.deferred.isEmpty &&
    l.grp.holds.isEmpty && !l.grp.fair.slice && l.ctx.bp.isEmpty && l.grp.eligible == allLanes && calmPod (State.reset.withFetchWord 32 0x08030208) && !(State.reset.withFetchWord 32 0x08030208).elder l && !(((State.reset.withFetchWord 32 0).pkg 0).core l.grp.core).retiredQuads.contains (l.grp.slot / 8) && fetchB (State.reset.withFetchWord 32 0x08030208) l (l.grp.lane 5).pc)) = true := by decide +kernel
/-- A queue that reads a packet of two units at the end of its ring (StepRunsDecoded). -/
def reading : State := let x := { ringQueue 0xC005 1 0 none with rp := 254, rd := 254, wp := 0x101 }
  { owned x with mem := (putAt (0x20000 + 16 * 254) (((encode (.wait false 77 0 0 0 0xFF 0 9)).map (leBytes 4 ·.toNat)).flatten) paged).mem, agenda := [.packet 0 5] }
theorem witness_step_packet : (let x := (reading.pkg 0).queue 5
    calmPod reading && decide (reading.background = reading) && thas reading.pkgs 0 && bit x.ctl 0 && x.state == 1 && x.hold.isNone && x.rd != x.wp && (tget (reading.pkg 0).ctxs 1).any (fun c => !c.error && !c.killed) && (reading.pkg 0).plat.ready && !(reading.pkg 0).plat.d3hot && (match reading.ringRead 0 5 (16 * 254) 16, reading.ringRead 0 5 (16 * 254) 32 with
      | some hd, some body => hd.isPrefixOf body && (wordOf hd).toNat / 2 ^ 16 == 2 && (match decodePacket ((List.range 8).map (fun j => wordOf (body.drop (4 * j)))) with | .ok (.wait ..) 2 => true | _ => false)
      | _, _ => false)) = true := by decide +kernel
theorem witness_step_message : ({ linked id id with fabric := [packet1 1 0, packet1 2 0], agenda := [.deliver 1] }.fabric[1]?).isSome = true := by decide +kernel

/-- Well-formed instructions of one and of two words, and packets (DecodeEncodesBack, PacketsEncodeBack). -/
theorem witness_encode : ([Instr.ffma { g := 2, n := true } 127 0 1 127 .rz, .lds { g := 7, n := false } 4 126 .b16 true false false (-512), .barSync { g := 0, n := false } 127 0 15 .clu, .exit].all (fun i => i.isInstr && i.wf)) = true := by decide +kernel
theorem witness_packets_encode : ([Instr.depend true 0xFFFFFFFF 1 2 3 4 5 6 (-7) 8, .nopPacket 3 9, .killContext true 5 1023 (2 ^ 63 + 1), .priority 0 3].all (fun i => !i.isInstr && !i.isIllegal && !(encode i).isEmpty && i.wf)) = true := by decide +kernel
/-- A memory in its canonical form from which a step stores (MemoryStaysCanonical). -/
theorem witness_canonical : (Memory.wf (paged.mem) && Memory.wf (reading.mem) && (match step reading with | .next t => Memory.wf t.mem | _ => false)) = true := by decide +kernel
/-- A value between two neighbours, half way between two, and past the largest finite one, with their exponents (RoundingIsR109). -/
theorem witness_rounding : ((2 : ℚ) ^ (24 : Int) ≤ |real true (2 ^ 24 + 1) 0| ∧ |real true (2 ^ 24 + 1) 0| < (2 : ℚ) ^ ((24 : Int) + 1)) ∧
    ((2 : ℚ) ^ (128 : Int) ≤ |real false 1 128| ∧ |real false 1 128| < (2 : ℚ) ^ ((128 : Int) + 1)) ∧ f32 ∈ [f64, f32, f16, bf16, e4m3, e5m2, e2m1, fa64] := by
  refine ⟨⟨?_, ?_⟩, ⟨?_, ?_⟩, by simp⟩ <;> norm_num [real, abs_of_nonneg, abs_of_neg]
/-- A guard that no selected lane meets (EmptyExecOnlyAdvances). -/
def never : Guard := { g := 2, n := false }
def guardedOff : State := { plain.updGroup 0 0 (fun g => { g with lanes := g.lanes.map (fun l => { l with p := 0 }) }) with laneFaults := [] }
theorem witness_empty_exec : (match guardedOff.cur, guardedOff.loc 0 0 with
    | .issue 0 0 _ sel _, some l => l.grp.exec sel never == 0 && sel != 0 && l.grp.step.isNone && l.p == 0 && l.g == 0 && [0, 1, 2, 126].all (fun r => decide (r + 1 < l.node.desc.regs))
    | _, _ => false) = true := by decide +kernel

/-! ### The spec's worked examples: a word, its operands and what it leaves in lane 0 -/

/-- Lane 0 after the words have run with these registers in every lane. -/
def ran (w0 w1 : Word) (rs : Tab Nat Word) : Lane := match exec (decode w0 w1) (issuing someLanes (twoWords w0) (fun _ => rs) (loaded id)) with
  | .next t => match tget (t.pkg 0).groups 0 with
    | some g => g.lane 0
    | none => Lane.dead
  | _ => Lane.dead
/-- Register r, and the flags NV 1, DZ 2, OF 4, UF 8, NX 16. -/
def left1 (r : Nat) (l : Lane) : Word × BitVec 5 := (tgetD l.v r 0, l.ff)
/-- spec/15 R299, R312: `clz v3, v4`, `brev v3, v4`, `bfe.sx v3, v4, 8, 4` of 0xA50. -/
theorem test_bits : [left1 3 (ran 0x15830800 0 [(4, 0xA50)]), left1 3 (ran 0x16030800 0 [(4, 0xA50)]), left1 3 (ran 0x54030800 0xE00001A3 [(4, 0xA50)])] = [(20, 0), (0x0A500000, 0), (0xFFFFFFFA, 0)] := by decide +kernel
/-- spec/15: `cvt.rz.i32.f32 v5, v6` of -7.9 and of 3.0e9. -/
theorem test_cvt_integer : [left1 5 (ran 0x6C050C00 0xE0000583 [(6, 0xC0FCCCCD)]), left1 5 (ran 0x6C050C00 0xE0000583 [(6, 0x4F32D05E)])] = [(0xFFFFFFF9, 16), (0x7FFFFFFF, 1)] := by decide +kernel
/-- spec/05 R114: `cvt.rn.e4m3.f32 v4, v3` of 17, 460, 500, 2^-10 and minus infinity; the .nosat form of 500. -/
theorem test_cvt_e4m3 : [0x41880000, 0x43E60000, 0x43FA0000, 0x3A800000, 0xFF800000].map (fun x => left1 4 (ran 0x6C040600 0xE000018E [(3, x)])) = [(0x58, 16), (0x7E, 16), (0x7E, 20), (0, 24), (0xFE, 1)] ∧
    left1 4 (ran 0x6C040600 0xE000218E [(3, 0x43FA0000)]) = (0x7F, 20) := by decide +kernel
/-- spec/16 R350: `fdot.rn.e4m3 v3, v4, v5, v6, v7, 0, 1`, rounded once. -/
theorem test_fdot : left1 3 (ran 0x6E830814 0xE0C001D0 [(4, 0x3838), (5, 0x3838), (6, 0x4B800000), (7, 0x7F7F)]) = (0x4B800001, 0) := by decide +kernel
/-- spec/16 R352: `fshf.r v3, v4, v5, v6` by 8 and by 40. -/
theorem test_fshf : [8, 40].map (fun x => left1 3 (ran 0x53830814 0xE0C00001 [(4, 0x89ABCDEF), (5, 0x01234567), (6, x)])) = [(0x6789ABCD, 0), (0x6789ABCD, 0)] := by decide +kernel
/-- spec/17: `imad.wide.n32 x4, v6, v7, x8` and its signed form. -/
theorem test_imad_wide : (let rs : Tab Nat Word := [(6, 0xFFFFFFFF), (7, 0xFFFFFFFF), (8, 1)]
    [left1 4 (ran 0x4D840C1D 0xE1000001 rs), left1 5 (ran 0x4D840C1D 0xE1000001 rs), left1 4 (ran 0x4D840C1C 0xE1000001 rs), left1 5 (ran 0x4D840C1C 0xE1000001 rs)]) = [(2, 0), (0xFFFFFFFE, 0), (2, 0), (0, 0)] := by decide +kernel
/-- spec/17: `idot.i8.n8 v3, v4, v5, v6` with both sums, and its .sat form. -/
theorem test_idot : [(0xE0C00004, 100), (0xE0C00004, 0x7FFFFFFF), (0xE0C0000C, 0x7FFFFFFF)].map (fun e => left1 3 (ran 0x6E030814 e.1 [(4, 0xFF02FF01), (5, 0x04030201), (6, e.2)])) = [(101, 0), (0x80000000, 0), (0x7FFFFFFF, 0)] := by decide +kernel
/-- spec/18: `movi v5, 40000` and `movh v5, 0`. -/
theorem test_movi : [left1 5 (ran 0x18859C40 0 []), left1 5 (ran 0x19050000 0 [(5, 0xFFFF9C40)])] = [(0xFFFF9C40, 0), (0x9C40, 0)] := by decide +kernel
/-- spec/18: `pack.rn.e4m3.f32 v3, v4, v5, v6, 1` with 17 and 460, and with 17 and 500. -/
theorem test_pack : [0x43E60000, 0x43FA0000].map (fun x => left1 3 (ran 0x6C830814 0xE0C0418E [(4, 0x41880000), (5, x), (6, 0x11223344)])) = [(0x7E583344, 16), (0x7E583344, 20)] := by decide +kernel
/-- spec/19: `scex.e2m1 v3, v4` of 100, -0 and 2^-130; `unpk.f32.e2m1 v3, v4, 5`. -/
theorem test_scales : [0x42C80000, 0x80000000, 0x00080000].map (fun x => left1 3 (ran 0x6D830800 0xE0000010 [(4, x)])) = [(0x83, 0), (0, 0), (0, 0)] ∧ left1 3 (ran 0x6D030800 0xE0000C85 [(4, 0x0B700000)]) = (0x40C00000, 0) := by decide +kernel
/-- spec/17: `lmch v3, v4` over lanes that hold 5, 7, 5 and 5. -/
theorem test_lmch : (match exec (decode 0x32030800 0) (issuing 0xF false (fun n => [(4, if n = 1 then 7 else 5)]) (loaded id)) with
    | .next t => (tget (t.pkg 0).groups 0).map (fun g => (List.range 5).map (fun n => g.v n 3)) | _ => none) = some [0xD, 2, 0xD, 0xD, 0] := by decide +kernel
/-- spec/18: `ptov.mask v3, p2` and `ptov v3, p2`, p2 true in lanes 0, 2 and 5 of exec and outside it. -/
def voters : State := (issuing 0xFF false (fun _ => []) (loaded id)).updGroup 0 0 (fun g => { g with lanes := laneList.map (fun n => { (g.lane n) with p := if n ∈ [0, 2, 5, 9] then 4 else 0 }) })
theorem test_ptov : [0x1C830401, 0x1C830400].map (fun w => match exec (decode w 0) voters with | .next t => (tget (t.pkg 0).groups 0).map (fun g => (List.range 9).map (fun n => g.v n 3)) | _ => none) =
    [some [0x25, 0x25, 0x25, 0x25, 0x25, 0x25, 0x25, 0x25, 0], some [1, 0, 1, 0, 0, 1, 0, 0, 0]] := by decide +kernel
/-- spec/11 R244: the handler of `trap 5` reads cause 0x10 and code 5, in the lowest lane of exec. -/
theorem test_trap : (match exec (decode 0x03800005 0) ((issuing 0xF0 false (fun _ => []) (loaded id)).updCtx 0 1 (fun c => { c with trapPc := BitVec.ofNat 64 (2 ^ 56 + 0x400), trapEn := 0x00010000 })) with
    | .next t => (tget (t.pkg 0).groups 0).bind (fun g => g.handler.map (fun h => (h.cause, h.code, h.lane, h.lanes))) | _ => none) = some (0x10, 5, 4, 0xF0) := by decide +kernel
/-- spec/15 R205: lanes 0 to 3 add 1, 2, 3 and 4 to a word that holds 10. -/
theorem test_atom : (rmw .add 32 10 [(0, (1, 0)), (1, (2, 0)), (2, (3, 0)), (3, (4, 0))]).1 = 20 := by decide +kernel

end Sys2Proof.Machine.Tests
end

section
/-! PROOF. The one rounding of the model is that of R109. A finite value is written as a whole number of
spacings and a fraction of one; `nearby` and `roundInt` choose the same neighbour of it, and the flags follow from the fraction. -/

namespace Sys2Proof.Machine

open Sys2Proof.Claim

/-! ### A real number in units of a spacing -/

theorem real_eq_sign_mul (n : Bool) (m : Nat) (e : Int) : real n m e = (if n then -1 else 1) * real false m e := by
  simp [real]

theorem real_false_nonneg (m : Nat) (e : Int) : 0 ≤ real false m e := by
  simp only [real, Bool.false_eq_true, if_false]; positivity

theorem abs_real (n : Bool) (m : Nat) (e : Int) : |real n m e| = real false m e := by
  have := real_false_nonneg m e
  cases n <;> simp [real_eq_sign_mul true, abs_of_nonneg this]

theorem two_zpow_eq_of_le {e e' : Int} (h : e' ≤ e) : (2 : ℚ) ^ e = 2 ^ (e - e').toNat * 2 ^ e' := by
  rw [← zpow_natCast, ← zpow_add₀ two_ne_zero]; congr 1; omega

/-- A larger exponent is a power of two in the significand. -/
theorem real_eq_of_le (n : Bool) (m : Nat) {e e' : Int} (h : e' ≤ e) :
    real n m e = real n (m * 2 ^ (e - e').toNat) e' := by
  simp only [real, two_zpow_eq_of_le h]; push_cast; ring

theorem real_false_lt_iff (m m' : Nat) (e : Int) : real false m e < real false m' e ↔ m < m' := by
  have : (0 : ℚ) < 2 ^ e := by positivity
  simp [real, this]

theorem gtScaled_iff (m : Nat) (e : Int) (m' : Nat) (e' : Int) :
    gtScaled m e m' e' = true ↔ real false m' e' < real false m e := by
  unfold gtScaled
  split
  case isTrue h => simp [real_eq_of_le false m h, real_false_lt_iff]
  case isFalse h => simp [real_eq_of_le false m' (le_of_not_ge h), real_false_lt_iff]

/-- The exponent of a nonzero value is that of its leading bit. -/
theorem exponent_unique {m : Nat} (hm : m ≠ 0) {e E : Int} (hlo : (2 : ℚ) ^ E ≤ real false m e)
    (hhi : real false m e < (2 : ℚ) ^ (E + 1)) : E = m.log2 + e := by
  have hpow (k : Nat) : (2 : ℚ) ^ ((k : Int) + e) = real false (2 ^ k) e := by simp [real, zpow_add₀]
  have hlog : (2 : ℚ) ^ ((m.log2 : Int) + e) ≤ real false m e := by
    rw [hpow, ← not_lt, real_false_lt_iff, not_lt]; exact Nat.log2_self_le hm
  have hlog' : real false m e < (2 : ℚ) ^ (((m.log2 + 1 : Nat) : Int) + e) := by
    rw [hpow, real_false_lt_iff]; exact Nat.lt_log2_self
  have h1 := (zpow_lt_zpow_iff_right₀ (one_lt_two (α := ℚ))).1 (hlo.trans_lt hlog')
  have h2 := (zpow_lt_zpow_iff_right₀ (one_lt_two (α := ℚ))).1 (hlog.trans_lt hhi)
  omega

/-! ### The parts of a value: whole spacings and the rest -/

/-- The whole spacings 2^q in m · 2^e. -/
def wholePart (m : Nat) (e q : Int) : Nat := if q ≤ e then m * 2 ^ (e - q).toNat else m / 2 ^ (q - e).toNat

/-- What is left of m · 2^e past the whole spacings, in units of 2^e. -/
def restPart (m : Nat) (e q : Int) : Nat := if q ≤ e then 0 else m % 2 ^ (q - e).toNat

theorem restPart_lt (m : Nat) (e q : Int) : restPart m e q < 2 ^ (q - e).toNat := by
  unfold restPart
  split
  · positivity
  · exact Nat.mod_lt _ (by positivity)

theorem real_eq_parts (m : Nat) (e q : Int) :
    real false m e = (wholePart m e q + restPart m e q / 2 ^ (q - e).toNat) * (2 : ℚ) ^ q := by
  unfold wholePart restPart
  split
  case isTrue h => rw [real_eq_of_le false m h]; simp [real]
  case isFalse h =>
    have hdiv : (m : ℚ) = 2 ^ (q - e).toNat * (m / 2 ^ (q - e).toNat : Nat) + (m % 2 ^ (q - e).toNat : Nat) := by
      exact_mod_cast (Nat.div_add_mod m _).symm
    rw [two_zpow_eq_of_le (le_of_not_ge h), ← mul_assoc, add_mul, div_mul_cancel₀ _ (by positivity),
      mul_comm _ (2 ^ (q - e).toNat : ℚ), ← hdiv]
    simp [real]

/-! ### The neighbour that a mode chooses -/

/-- The neighbour that a mode chooses for k + r spacings, 0 < r < 1. -/
def chosen (mode : Rm) (k : Int) (r : ℚ) : Int := match mode with
  | .rn => if r < 1 / 2 then k else if 1 / 2 < r then k + 1 else if k % 2 = 0 then k else k + 1
  | .rna => if r < 1 / 2 then k else if 1 / 2 < r then k + 1 else if 0 ≤ k then k + 1 else k
  | .rz => if 0 ≤ k then k else k + 1
  | .rd => k
  | .ru => k + 1

/-- Of two neighbouring integers the upper one is the larger in magnitude from 0 on. -/
theorem abs_lt_abs_add_one_iff (k : Int) : |(k : ℚ)| < |(k : ℚ) + 1| ↔ 0 ≤ k := by
  rw [← sq_lt_sq]
  constructor
  · intro h
    have : (0 : ℚ) < 2 * k + 1 := by linarith [add_sq (k : ℚ) 1]
    have : 0 < 2 * k + 1 := by exact_mod_cast this
    omega
  · intro h
    have : (0 : ℚ) ≤ k := by exact_mod_cast h
    nlinarith

/-- A multiple of the spacing stays in every mode. -/
theorem nearby_multiple (mode : Rm) {q : ℚ} (hq : 0 < q) (k : Int) : nearby mode (k * q) q = k * q := by
  have hfloor : ⌊k * q / q⌋ = k := by rw [mul_div_cancel_right₀ _ hq.ne', Int.floor_intCast]
  simp only [nearby, hfloor, mul_comm q, if_true]

/-- Between two multiples of the spacing the distances and magnitudes of R109 depend on k and r alone. -/
theorem nearby_between (mode : Rm) {q r : ℚ} (hq : 0 < q) (hr : 0 < r) (hr1 : r < 1) (k : Int) :
    nearby mode ((k + r) * q) q = chosen mode k r * q := by
  have hfloor : ⌊(k + r) * q / q⌋ = k := by
    rw [mul_div_cancel_right₀ _ hq.ne', Int.floor_eq_iff]; constructor <;> linarith
  have hne : (k + r) * q ≠ q * k := by nlinarith
  have hlt : (k + r) * q - q * k < q * k + q - (k + r) * q ↔ r < 1 / 2 := by
    constructor <;> intro h <;> nlinarith
  have hgt : q * k + q - (k + r) * q < (k + r) * q - q * k ↔ 1 / 2 < r := by
    constructor <;> intro h <;> nlinarith
  have habs : |q * k| < |q * k + q| ↔ 0 ≤ k := by
    rw [← abs_lt_abs_add_one_iff, ← mul_add_one, abs_mul, abs_mul, mul_lt_mul_iff_right₀ (abs_pos.2 hq.ne')]
  cases mode with
  | rn | rna | rz => simp only [nearby, hfloor, if_neg hne, hlt, hgt, habs, chosen]; split_ifs <;> push_cast <;> ring
  | rd | ru => simp only [nearby, hfloor, if_neg hne, chosen]; push_cast; ring

section Halves
variable {rem sh : Nat} (h0 : rem ≠ 0) (h1 : rem < 2 ^ sh)
include h0 h1

theorem two_pow_eq_two_mul_half : (2 : ℚ) ^ sh = 2 * (2 ^ (sh - 1) : Nat) := by
  cases sh with
  | zero => omega
  | succ j => simp [pow_succ']

theorem half_lt_fraction_iff : (1 / 2 : ℚ) < rem / 2 ^ sh ↔ 2 ^ (sh - 1) < rem := by
  rw [lt_div_iff₀ (by positivity), two_pow_eq_two_mul_half h0 h1, one_div, inv_mul_cancel_left₀ two_ne_zero, Nat.cast_lt]

theorem fraction_lt_half_iff : (rem / 2 ^ sh : ℚ) < 1 / 2 ↔ rem < 2 ^ (sh - 1) := by
  rw [div_lt_iff₀ (by positivity), two_pow_eq_two_mul_half h0 h1, one_div, inv_mul_cancel_left₀ two_ne_zero, Nat.cast_lt]

/-- Of a positive value the lower neighbour is the smaller in magnitude, n. -/
theorem chosen_pos (mode : Rm) (n : Nat) : chosen mode n (rem / 2 ^ sh) = roundInt mode false n rem sh := by
  have hlt := fraction_lt_half_iff h0 h1
  have hgt := half_lt_fraction_iff h0 h1
  cases mode with
  | rn | rna | rz => simp only [chosen, roundInt, h0, hlt, hgt, if_false]; split_ifs <;> omega
  | rd | ru => simp [chosen, roundInt, h0]

/-- Of a negative value the lower neighbour is the larger in magnitude, n + 1. -/
theorem chosen_neg (mode : Rm) (n : Nat) :
    chosen mode (-(n + 1)) (1 - rem / 2 ^ sh) = -(roundInt mode true n rem sh : Int) := by
  have hlt : (1 - rem / 2 ^ sh : ℚ) < 1 / 2 ↔ 2 ^ (sh - 1) < rem := by
    rw [← half_lt_fraction_iff h0 h1]; constructor <;> intro h <;> linarith
  have hgt : (1 / 2 : ℚ) < 1 - rem / 2 ^ sh ↔ rem < 2 ^ (sh - 1) := by
    rw [← fraction_lt_half_iff h0 h1]; constructor <;> intro h <;> linarith
  cases mode with
  | rn | rna | rz => simp only [chosen, roundInt, h0, hlt, hgt, if_false]; split_ifs <;> omega
  | rd | ru => simp [chosen, roundInt, h0]
end Halves

theorem roundInt_ge (mode : Rm) (neg : Bool) (n rem sh : Nat) : n ≤ roundInt mode neg n rem sh := by
  unfold roundInt
  cases mode <;> simp only <;> split_ifs <;> omega

/-! ### The value of the rounding -/

/-- The exponent of the spacing at m · 2^e in a format (q of R109 is 2 to this power). -/
def spacingExp (f : Fmt) (m : Nat) (e : Int) : Int := max (m.log2 + e) f.emin - f.mw

/-- The significand of the rounded value, in units of the spacing 2^q. -/
def roundedSig (mode : Rm) (n : Bool) (m : Nat) (e q : Int) : Nat :=
  roundInt mode n (wholePart m e q) (restPart m e q) (q - e).toNat

theorem fraction_pos {m : Nat} {e q : Int} (h : restPart m e q ≠ 0) : (0 : ℚ) < restPart m e q / 2 ^ (q - e).toNat := by
  have : (0 : ℚ) < restPart m e q := by exact_mod_cast Nat.pos_of_ne_zero h
  positivity

theorem fraction_lt_one (m : Nat) (e q : Int) : (restPart m e q / 2 ^ (q - e).toNat : ℚ) < 1 := by
  rw [div_lt_one (by positivity)]; exact_mod_cast restPart_lt m e q

/-- y of R109 is the significand that the model rounds to, at the spacing. -/
theorem nearby_real (mode : Rm) (n : Bool) (m : Nat) (e q : Int) :
    nearby mode (real n m e) ((2 : ℚ) ^ q) = real n (roundedSig mode n m e q) q := by
  have hq : (0 : ℚ) < 2 ^ q := by positivity
  have hv := real_eq_parts m e q
  by_cases h0 : restPart m e q = 0
  · have hsig : roundedSig mode n m e q = wholePart m e q := by simp [roundedSig, roundInt, h0]
    have hmul : real n m e = ((if n then -(wholePart m e q : Int) else wholePart m e q : Int) : ℚ) * 2 ^ q := by
      rw [real_eq_sign_mul, hv, h0]; cases n <;> simp
    rw [hmul, nearby_multiple mode hq, hsig]; cases n <;> simp [real]
  · have hr := fraction_pos h0
    have hr1 := fraction_lt_one m e q
    cases n with
    | false =>
      rw [hv, ← Int.cast_natCast (wholePart m e q), nearby_between mode hq hr hr1, chosen_pos h0 (restPart_lt m e q)]
      simp [real, roundedSig]
    | true =>
      have hneg : real true m e = ((-(wholePart m e q + 1) : Int) + (1 - restPart m e q / 2 ^ (q - e).toNat)) * (2 : ℚ) ^ q := by
        rw [real_eq_sign_mul, hv]; push_cast; simp; ring
      rw [hneg, nearby_between mode hq (by linarith) (by linarith), chosen_neg h0 (restPart_lt m e q)]
      simp [real, roundedSig]

/-- The rounding keeps a value exactly where nothing is left past the whole spacings. -/
theorem real_roundedSig_eq_iff (mode : Rm) (n : Bool) (m : Nat) (e q : Int) :
    real n (roundedSig mode n m e q) q = real n m e ↔ restPart m e q = 0 := by
  have hq : (0 : ℚ) < 2 ^ q := by positivity
  rw [real_eq_sign_mul n m, real_eq_sign_mul n (roundedSig ..), mul_right_inj' (by cases n <;> simp),
    real_eq_parts m e q]
  constructor
  · intro h
    by_contra h0
    have hr := fraction_pos h0
    have hr1 := fraction_lt_one m e q
    have hsum : (roundedSig mode n m e q : ℚ) = wholePart m e q + restPart m e q / 2 ^ (q - e).toNat := by
      simpa [real, hq.ne'] using h
    have hlo : wholePart m e q < roundedSig mode n m e q := by
      exact_mod_cast (by linarith : (wholePart m e q : ℚ) < roundedSig mode n m e q)
    have hhi : roundedSig mode n m e q < wholePart m e q + 1 := by
      exact_mod_cast (by linarith : (roundedSig mode n m e q : ℚ) < wholePart m e q + 1)
    omega
  · intro h0
    simp [real, roundedSig, roundInt, h0]

/-! ### Tininess after rounding -/

section Spacing
variable (f : Fmt) (mode : Rm) (n : Bool) {m : Nat} (hm : m ≠ 0) (e : Int) {q : Int} (hq : q = spacingExp f m e)
include hm hq

/-- Past the least exponent a rounded value keeps its leading bit. -/
theorem two_pow_mw_le_roundedSig (h : q ≠ f.emin - f.mw) : 2 ^ f.mw ≤ roundedSig mode n m e q := by
  have hlog := Nat.log2_self_le hm
  have hlead : q = m.log2 + e - f.mw := by unfold spacingExp at hq; omega
  refine le_trans ?_ (roundInt_ge ..)
  unfold wholePart
  split
  case isTrue hle =>
    calc 2 ^ f.mw = 2 ^ m.log2 * 2 ^ (e - q).toNat := by rw [← pow_add]; congr 1; omega
      _ ≤ m * 2 ^ (e - q).toNat := Nat.mul_le_mul_right _ hlog
  case isFalse hle =>
    rw [Nat.le_div_iff_mul_le (by positivity)]
    calc 2 ^ f.mw * 2 ^ (q - e).toNat = 2 ^ m.log2 := by rw [← pow_add]; congr 1; omega
      _ ≤ m := hlog

/-- The model's tininess is that of R109: below 2^emin after rounding. -/
theorem tiny_iff : (roundedSig mode n m e q = 0 ∨ (q = f.emin - f.mw ∧ roundedSig mode n m e q < 2 ^ f.mw)) ↔
    real false (roundedSig mode n m e q) q < (2 : ℚ) ^ f.emin := by
  have hmin : (2 : ℚ) ^ f.emin = real false (2 ^ f.mw) (f.emin - f.mw) := by
    simp [real, zpow_sub₀, mul_div_cancel₀]
  have hpos : 0 < 2 ^ f.mw := by positivity
  rw [hmin]
  by_cases h : q = f.emin - f.mw
  · rw [h, real_false_lt_iff]; omega
  · have hsig := two_pow_mw_le_roundedSig f mode n hm e hq h
    have hle : f.emin - f.mw ≤ q := by unfold spacingExp at hq; omega
    have hscaled := Nat.le_mul_of_pos_right (roundedSig mode n m e q)
      (show 0 < 2 ^ (q - (f.emin - f.mw)).toNat by positivity)
    rw [real_eq_of_le false _ hle, real_false_lt_iff]
    omega

/-! ### The rounding as a whole -/

/-- The rounding of a nonzero value, in the terms of R109: y is the neighbour, 2^q the spacing. -/
theorem roundTo_fin :
    roundTo f mode (.fin n m e) =
      if real false f.maxM f.maxE < |nearby mode (real n m e) ((2 : ℚ) ^ q)| then (ovf f mode n, ffOf ||| ffNx)
      else (.fin n (roundedSig mode n m e q) q,
        if nearby mode (real n m e) ((2 : ℚ) ^ q) = real n m e then 0
        else if |nearby mode (real n m e) ((2 : ℚ) ^ q)| < (2 : ℚ) ^ f.emin then ffUf ||| ffNx else ffNx) := by
  have hparts : (if q ≤ e then (m * 2 ^ (e - q).toNat, false)
      else (roundInt mode n (m / 2 ^ (q - e).toNat) (m % 2 ^ (q - e).toNat) (q - e).toNat, m % 2 ^ (q - e).toNat != 0)) =
      (roundedSig mode n m e q, restPart m e q != 0) := by
    simp only [roundedSig, wholePart, restPart]
    split <;> simp [roundInt]
  have hmax : max ((m.log2 : Int) + e) f.emin - f.mw = q := hq.symm
  simp only [nearby_real, real_roundedSig_eq_iff, abs_real, ← tiny_iff f mode n hm e hq]
  simp only [roundTo, if_neg hm, hmax, hparts, gtScaled_iff]
  simp
end Spacing

/-- Settles O59: a finite value is rounded to the neighbour of R109, with its flags; zeros, infinities and NaNs by definition. -/
theorem roundingIsR109 : Obligations.RoundingIsR109 := by
  intro f mode _
  refine ⟨fun _ => ⟨rfl, rfl⟩, fun _ => rfl, fun _ _ => rfl, fun h n => by simp [Fmt.encode, h], ?_⟩
  intro n m e E hm v hlo hhi y big
  obtain rfl : E = m.log2 + e := exponent_unique hm (abs_real n m e ▸ hlo) (abs_real n m e ▸ hhi)
  have hround := roundTo_fin f mode n hm e rfl
  constructor
  · intro hbig
    exact hround.trans ((if_pos hbig).trans (by cases mode <;> rfl))
  · intro hbig
    exact ⟨_, _, hround.trans (if_neg (not_lt.2 hbig)), (nearby_real mode n m e (spacingExp f m e)).symm⟩

end Sys2Proof.Machine
end

section
/-! PROOF. Bit fields (R312): BFE reads the slice of its source that the field names, widened; BFI writes one under a mask. -/

namespace Sys2Proof.Machine

open Sys2Proof.Claim

/-! ### The slice and the mask of a field -/

/-- The two readings of a number's low w bits as signed agree. -/
theorem signedOf_toNat {w : Nat} (y : BitVec w) : signedOf w y.toNat = y.toInt := by
  rcases Nat.eq_zero_or_pos w with rfl | hw
  · simp [signedOf, BitVec.of_length_zero]
  · have hpow : 2 ^ w = 2 * 2 ^ (w - 1) := by rw [← pow_succ', Nat.sub_add_cancel hw]
    have hhalf : y.toNat < 2 ^ (w - 1) ↔ 2 * y.toNat < 2 ^ w := by omega
    simp only [signedOf, Nat.mod_eq_of_lt y.isLt, BitVec.toInt_eq_toNat_cond, hhalf]
    push_cast
    rfl

theorem extractField_eq_extend (sx : Bool) (x : Word) (p w : Nat) :
    extractField sx x (p, w) =
      if sx then (x.extractLsb' p w).signExtend 32 else (x.extractLsb' p w).setWidth 32 := by
  have hslice : x.toNat / 2 ^ p % 2 ^ w = (x.extractLsb' p w).toNat := by
    rw [BitVec.extractLsb'_toNat, Nat.shiftRight_eq_div_pow]
  simp only [extractField, hslice, signedOf_toNat]
  rcases Nat.eq_zero_or_pos w with rfl | hw
  · cases sx <;> simp [BitVec.of_length_zero]
  · rw [if_neg hw.ne', BitVec.ofNat_toNat, BitVec.signExtend]

/-- BFE's result, bit by bit: the field, its extension above, and nothing of an empty field. -/
theorem bit_extractField (sx : Bool) (x : Word) (p w : Nat) {k : Nat} (hk : k < 32) :
    bit (extractField sx x (p, w)) k =
      if w = 0 then false else if k < w then bit x (p + k) else sx && bit x (p + w - 1) := by
  rw [extractField_eq_extend]
  rcases Nat.eq_zero_or_pos w with rfl | hw
  · cases sx <;> simp [bit, BitVec.of_length_zero]
  · have hsign : (x.extractLsb' p w).msb = bit x (p + w - 1) := by
      simp [bit, BitVec.msb_eq_getLsbD_last, hw, ← Nat.add_sub_assoc (Nat.one_le_of_lt hw)]
    rw [if_neg hw.ne']
    cases sx with
    | false => by_cases hin : k < w <;> simp [bit, hin, hk]
    | true =>
      rw [if_pos rfl, bit, BitVec.getLsbD_signExtend, hsign]
      by_cases hin : k < w <;> simp [bit, hin, hk]

theorem testBit_fieldMask (p w k : Nat) : ((2 ^ w - 1) * 2 ^ p).testBit k = decide (p ≤ k ∧ k < p + w) := by
  rw [Nat.testBit_mul_two_pow, Nat.testBit_two_pow_sub_one, ← Bool.decide_and]
  exact decide_eq_decide.2 (by omega)

/-- BFI's result, bit by bit: the low bits of x within the field, r outside it. -/
theorem bit_insertField (r x : Word) (p w : Nat) {k : Nat} (hk : k < 32) :
    bit (insertField r x (p, w)) k = if p ≤ k ∧ k < p + w then bit x (k - p) else bit r k := by
  have hshift : (x.toNat * 2 ^ p).testBit k = (decide (p ≤ k) && bit x (k - p)) := Nat.testBit_mul_two_pow ..
  simp only [bit, insertField, BitVec.getLsbD_or, BitVec.getLsbD_and, BitVec.getLsbD_not, BitVec.getLsbD_ofNat, hk,
    testBit_fieldMask, hshift]
  by_cases hin : p ≤ k ∧ k < p + w <;> simp [hin]

/-! ### The operands of the two instructions -/

theorem bfField_eq_fieldOf (i : Iss) (n : Nat) (fs : BfSrc) : bfField i.g n fs = fieldOf i n fs := by
  cases fs with
  | reg b => simp [bfField, fieldOf, bitField, field, bits, V, Nat.shiftRight_eq_div_pow]
  | imm pos len1 => rfl

theorem bfSrcs_eq_fieldRegs (fs : BfSrc) : bfSrcs fs = fieldRegs fs := by cases fs <;> rfl

/-- An issue with some lane in exec writes the lanes that R79 names. -/
theorem Iss.Stands.dstLanes_eq {i : Iss} {gd : Guard} {rs : List Nat} {s : State} (h : i.Stands gd rs s) (u : Bool) :
    dstLanes u i.ex = dst i u := if_neg h.lanes

theorem execBfe_writes {i : Iss} {s : State} {u : Bool} {gd : Guard} {d a : Reg} {fs : BfSrc} {sx : Bool}
    (h : i.Stands gd (r1 d ++ r1 a ++ fieldRegs fs) s) :
    i.Writes (.bfe u gd d a fs sx) s (dst i u) (fun n l =>
      l.setV d.toNat (extractField sx (V i (src i u n) a) (fieldOf i (src i u n) fs))) := by
  have hrs : ∀ r ∈ (one a ++ bfSrcs fs) ++ one d, r ∈ r1 d ++ r1 a ++ fieldRegs fs := by
    simp only [bfSrcs_eq_fieldRegs, one, r1, List.mem_append]; tauto
  have hw := perLane_writes (x := .bfe u gd d a fs sx)
    (f := { gd := gd, uni := u, srcs := one a ++ bfSrcs fs, dsts := one d })
    (eff := fun g n l => l.setV d.toNat (extractField sx (g.v n a.toNat) (bfField g n fs)))
    h hrs rfl nofun nofun rfl
  simp only [bfField_eq_fieldOf, h.dstLanes_eq] at hw
  exact hw

theorem execBfi_writes {i : Iss} {s : State} {u : Bool} {gd : Guard} {d a c : Reg} {fs : BfSrc}
    (h : i.Stands gd (r1 d ++ r1 a ++ r1 c ++ fieldRegs fs) s) :
    i.Writes (.bfi u gd d a c fs) s (dst i u) (fun n l =>
      l.setV d.toNat (insertField (V i (src i u n) c) (V i (src i u n) a) (fieldOf i (src i u n) fs))) := by
  have hrs : ∀ r ∈ (regs [a, c] ++ bfSrcs fs) ++ one d, r ∈ r1 d ++ r1 a ++ r1 c ++ fieldRegs fs := by
    simp only [bfSrcs_eq_fieldRegs, regs, one, r1, List.mem_append, List.map_cons, List.map_nil, List.flatten_cons,
      List.flatten_nil, List.append_nil]
    tauto
  have hw := perLane_writes (x := .bfi u gd d a c fs)
    (f := { gd := gd, uni := u, srcs := regs [a, c] ++ bfSrcs fs, dsts := one d })
    (eff := fun g n l => l.setV d.toNat (insertField (g.v n c.toNat) (g.v n a.toNat) (bfField g n fs)))
    h hrs rfl nofun nofun rfl
  simp only [bfField_eq_fieldOf, h.dstLanes_eq] at hw
  exact hw

/-- Settles O3: the words written are the extracted and the inserted field, whose bits are those of R312. -/
theorem bitFieldResults : Obligations.BitFieldResults :=
  fun _ _ _ _ _ _ _ _ _ =>
    ⟨fun h => ⟨_, execBfe_writes h, fun _ _ hk => bit_extractField _ _ _ _ hk⟩,
      fun h => ⟨_, execBfi_writes h, fun _ _ hk => bit_insertField _ _ _ _ hk⟩⟩

end Sys2Proof.Machine
end

section
/-! PROOF. Integer arithmetic (R350 to R355): the model's reads and fin on numbers are those of R351 on words; each
instruction is then one value per lane. -/

namespace Sys2Proof.Machine

open Sys2Proof.Claim

/-! ### Reading and fin (R351) -/

theorem intRead_toNat {w : Nat} (f : IntF) (x : BitVec w) : intRead w f x.toNat = asInt f x := by
  cases f <;> simp [intRead, intSigned, asInt, signedOf_toNat]

theorem clampInt_eq_max_min {lo hi : Int} (h : lo ≤ hi) (x : Int) : clampInt lo hi x = max lo (min x hi) := by
  unfold clampInt; omega

/-- The residue modulo 2^w as a word. -/
theorem ofNat_emod_two_pow (w : Nat) (x : Int) : BitVec.ofNat w (x.emod (2 ^ w)).toNat = BitVec.ofInt w x := by
  apply BitVec.eq_of_toInt_eq
  have hnonneg : 0 ≤ x.emod (2 ^ w) := Int.emod_nonneg x (by positivity)
  rw [← BitVec.ofInt_natCast, BitVec.toInt_ofInt, BitVec.toInt_ofInt, Int.toNat_of_nonneg hnonneg]
  exact Int.emod_bmod ..

theorem ofNat_intFin (w : Nat) (f : IntF) (x : Int) : BitVec.ofNat w (intFin w f x) = fin w f x := by
  have hhalf : (0 : Int) < 2 ^ (w - 1) := by positivity
  have hfull : (0 : Int) < 2 ^ w := by positivity
  cases f with
  | wrapS => exact ofNat_emod_two_pow w x
  | wrapU => exact ofNat_emod_two_pow w x
  | satS => exact (ofNat_emod_two_pow w _).trans (by rw [clampInt_eq_max_min (by omega)]; rfl)
  | satU =>
    rw [intFin, clampInt_eq_max_min (by omega), ← BitVec.ofInt_natCast, Int.toNat_of_nonneg (le_max_left ..), fin]

/-! ### One value per lane -/

/-- An instruction that needs neither a unit nor a role, and whose new lanes are known. -/
theorem Iss.Stands.writes_perLane {i : Iss} {s : State} {x : Instr} {gd : Guard} {u : Bool}
    {srcs dsts preds pdsts : List Nat} {eff : Group → Nat → Lane → Lane} {new : Nat → Lane → Lane}
    (h : i.Stands gd (dsts ++ srcs) s)
    (hx : exec x s = perLane { gd := gd, uni := u, srcs := srcs, dsts := dsts, preds := preds, pdsts := pdsts } eff s)
    (hnew : ∀ n l, eff i.g (src i u n) l = new n l) : i.Writes x s (dst i u) new := by
  have hw := perLane_writes (f := { gd := gd, uni := u, srcs := srcs, dsts := dsts, preds := preds, pdsts := pdsts })
    h (fun _ => by simp [or_comm]) rfl nofun nofun hx
  rw [h.dstLanes_eq] at hw
  exact (funext₂ hnew : _ = new) ▸ hw

/-- v0 is below .regs where any register is, and never waits for data (R10, R162). -/
theorem Iss.Stands.append_v0 {i : Iss} {gd : Guard} {d : Reg} {rs : List Nat} {s : State}
    (h : i.Stands gd (r1 d ++ rs) s) : i.Stands gd (r1 d ++ rs ++ r1 0) s := by
  have hd : d.toNat < i.loc.node.desc.regs := h.inRange _ (by simp [r1])
  have hcases : ∀ r ∈ r1 d ++ rs ++ r1 0, r ∈ r1 d ++ rs ∨ r = 0 := fun r hr => by
    simpa [r1, or_assoc] using hr
  refine { h with inRange := fun r hr => ?_, settled := fun r hr => ?_ }
  · rcases hcases r hr with hr | rfl
    · exact h.inRange r hr
    · omega
  · rcases hcases r hr with hr | rfl
    · exact h.settled r hr
    · rfl

/-! ### Two operands and fin -/

section TwoOperands
variable {i : Iss} {s : State} {x : Instr} {u : Bool} {d a b : Reg} {f : IntF} (op : Int → Int → Int)

theorem intOp_writes_word (h : i.Stands Guard.always (r1 d ++ r1 a ++ r1 b) s)
    (hx : exec x s = intOp false u d a b f op s) :
    i.Writes x s (dst i u) (fun n l =>
      l.setV d.toNat (fin 32 f (op (asInt f (V i (src i u n) a)) (asInt f (V i (src i u n) b))))) :=
  h.writes_perLane (dsts := r1 d) (srcs := r1 a ++ r1 b)
    (eff := fun g n l => l.put false d (intFin 32 f (op (intRead 32 f (g.n n a)) (intRead 32 f (g.n n b))))) hx
    fun n l => by simp only [Group.n, intRead_toNat, Lane.put, ofNat_intFin]; rfl

theorem intOp_writes_pair (h : i.Stands Guard.always (r2 d ++ r2 a ++ r2 b) s)
    (hx : exec x s = intOp true u d a b f op s) :
    i.Writes x s (dst i u) (fun n l =>
      l.setX d.toNat (fin 64 f (op (asInt f (X i (src i u n) a)) (asInt f (X i (src i u n) b))))) :=
  h.writes_perLane (dsts := r2 d) (srcs := r2 a ++ r2 b)
    (eff := fun g n l => l.put true d (intFin 64 f (op (intRead 64 f (g.nx n a)) (intRead 64 f (g.nx n b))))) hx
    fun n l => by simp only [Group.nx, intRead_toNat, Lane.put, ofNat_intFin]; rfl

end TwoOperands

/-- IMULH's floor (R350): the model's division by 2^32 rounds down. -/
theorem exec_imulh (d a b : Reg) (uns : Bool) (s : State) :
    exec (.imulh d a b uns) s = intOp false false d a b (sgn uns) (fun x y => Int.fdiv (x * y) (2 ^ 32)) s := by
  simp only [Int.fdiv_eq_ediv_of_nonneg _ (show (0 : Int) ≤ 2 ^ 32 by norm_num)]
  rfl

/-- IABS reads its source signed in both forms; its second operand, v0, is not used. -/
theorem execIabs_writes {i : Iss} {s : State} {d a : Reg} {sat : Bool} (h : i.Stands Guard.always (r1 d ++ r1 a) s) :
    i.Writes (.iabs d a sat) s i.ex (fun n l =>
      l.setV d.toNat (fin 32 (if sat then .satS else .wrapS) |(V i n a).toInt|)) := by
  have hw := intOp_writes_word (x := .iabs d a sat) (u := false) (b := 0) (f := if sat then .satS else .wrapS)
    (fun x _ => x.natAbs) h.append_v0 rfl
  simp only [Int.natCast_natAbs] at hw
  cases sat <;> exact hw

/-! ### The other forms -/

theorem execIaddi_writes {i : Iss} {s : State} {u : Bool} {d a : Reg} {imm : BitVec 9}
    (h : i.Stands Guard.always (r1 d ++ r1 a) s) :
    i.Writes (.iaddi u d a imm) s (dst i u) (fun n l => l.setV d.toNat (V i (src i u n) a + imm.signExtend 32)) :=
  h.writes_perLane (eff := fun g n l => l.setV d.toNat (g.v n a.toNat + imm.signExtend 32)) rfl fun _ _ => rfl

/-- The sum with its carry as a word (R354). -/
theorem ofNat_add_carry (x y : Word) (c : Bool) :
    BitVec.ofNat 32 (x.toNat + y.toNat + if c then 1 else 0) = x + y + if c then 1 else 0 := by
  cases c <;> simp [BitVec.ofNat_add]

theorem execIaddc_writes {i : Iss} {s : State} {gd : Guard} {d a b : Reg} {ci co : BitVec 3}
    (h : i.Stands gd (r1 d ++ r1 a ++ r1 b) s) :
    i.Writes (.iaddc gd d a b ci co) s i.ex (fun n l =>
      (l.setV d.toNat (V i n a + V i n b + if P i n ci then 1 else 0)).setP co.toNat
        (decide (2 ^ 32 ≤ (V i n a).toNat + (V i n b).toNat + if P i n ci then 1 else 0))) :=
  h.writes_perLane (u := false) (dsts := r1 d) (srcs := r1 a ++ r1 b) (preds := [ci.toNat]) (pdsts := [co.toNat])
    (eff := fun g n l =>
      let y := g.n n a + g.n n b + (if g.p n ci.toNat then 1 else 0)
      (l.setV d.toNat (BitVec.ofNat 32 y)).setP co.toNat (decide (2 ^ 32 ≤ y))) rfl
    fun n l => by simp only [Group.n, ofNat_add_carry]; rfl

theorem execImad_writes {i : Iss} {s : State} {gd : Guard} {d a b c : Reg} {f : IntF}
    (h : i.Stands gd (r1 d ++ r1 a ++ r1 b ++ r1 c) s) :
    i.Writes (.imad gd d a b c f false) s i.ex (fun n l =>
      l.setV d.toNat (fin 32 f (asInt f (V i n a) * asInt f (V i n b) + asInt f (V i n c)))) :=
  h.writes_perLane (u := false) (dsts := r1 d) (srcs := r1 a ++ r1 b ++ r1 c)
    (eff := fun g n l => l.put false d (intFin 32 f
      (intRead 32 f (g.n n a) * intRead 32 f (g.n n b) + intRead 32 f (g.n n c)))) rfl
    fun n l => by simp only [Group.n, intRead_toNat, Lane.put, ofNat_intFin]; rfl

theorem execImad_writes_wide {i : Iss} {s : State} {gd : Guard} {d a b c : Reg} {f : IntF}
    (h : i.Stands gd (r2 d ++ r1 a ++ r1 b ++ r2 c) s) :
    i.Writes (.imad gd d a b c f true) s i.ex (fun n l =>
      l.setX d.toNat (BitVec.ofInt 64 (asInt f (V i n a) * asInt f (V i n b)) + X i n c)) :=
  h.writes_perLane (u := false) (dsts := r2 d) (srcs := r1 a ++ r1 b ++ r2 c)
    (eff := fun g n l => l.put true d
      ((intRead 32 f (g.n n a) * intRead 32 f (g.n n b) + g.nx n c).emod (2 ^ 64)).toNat) rfl
    fun n l => by
      simp only [Group.n, Group.nx, intRead_toNat, Lane.put, ofNat_emod_two_pow, BitVec.ofInt_add, BitVec.ofInt_natCast,
        BitVec.ofNat_toNat, BitVec.setWidth_eq]
      rfl

/-- Settles O2: each instruction is fin of one exact operation on its operands as numbers, but for IADDI, IADDC and the
wide IMAD, whose sums are of words. -/
theorem integerArithmeticResults : Obligations.IntegerArithmeticResults := by
  intro i s
  refine ⟨?_, ?_, fun _ _ _ h => execIabs_writes h, fun _ _ _ _ h => execIaddi_writes h, ?_,
    fun _ _ _ _ _ _ h => execIaddc_writes h, fun _ _ _ _ _ _ h => execImad_writes h,
    fun _ _ _ _ _ _ h => execImad_writes_wide h⟩
  · intro u d a b f h
    exact ⟨intOp_writes_word (· + ·) h rfl, intOp_writes_word (· - ·) h rfl, intOp_writes_word (· * ·) h rfl⟩
  · intro u d a b uns h
    exact ⟨intOp_writes_word min h rfl, intOp_writes_word max h rfl, intOp_writes_word _ h (exec_imulh ..)⟩
  · intro u d a b f h
    exact ⟨intOp_writes_pair (· + ·) h rfl, intOp_writes_pair (· - ·) h rfl⟩

end Sys2Proof.Machine
end
